-- ==== Sys2Proof/Word.lean ====
section
/-! DEFINITION. Word.lean: the word types of the TLK-7400 (00_scope R2: bit 0 is the least significant bit). -/

namespace Sys2Proof

/-- A byte of memory (R2). -/
abbrev Byte := BitVec 8
/-- A window register of one strand (R36). -/
abbrev Word := BitVec 32
/-- A uniform register, a latch or a CSR (R36, R38, R46). -/
abbrev DWord := BitVec 64

end Sys2Proof
end

