-- ==== Sys2Proof/Config.lean ====
section
/-! DEFINITION. Config.lean: what the manual leaves open, as constants without a body: nothing in Lean can evaluate them, so
a statement holds whatever they are. -/

namespace Sys2Proof.Config

/-- The free values of a run, by the counter `State.free` (notes/assumptions/3.md): results, bytes and registers that the
manual leaves undefined or any value. -/
opaque freeWord : Nat → BitVec 64

/-- What the cycle counter of a core reads outside deterministic mode, by core and by the model's issue counter
(R11, notes/assumptions/5.md). -/
opaque cycle : Nat → Nat → BitVec 64

/-! Boot and attestation (R413, R414, R416, notes/assumptions/6.md): the manual gives neither the keys nor the layout of the
signed configuration record. -/

/-- The image's signature verifies. -/
opaque imageGood : List (BitVec 8) → Bool
/-- The configuration record that the firmware of an image reads. -/
opaque record : List (BitVec 8) → List (BitVec 8)
/-- The record's signature verifies. -/
opaque recordGood : List (BitVec 8) → Bool
/-- Another field of the record fails its check (REASON 5). -/
opaque recordOther : List (BitVec 8) → Bool
/-- The harvest words of a record. -/
opaque harvest : List (BitVec 8) → List (BitVec 32)
/-- The power limit of a record, in watts. -/
opaque powerLimit : List (BitVec 8) → Nat
/-- The secure clusters, copy engines and atomic service units of a record, by logical cluster. -/
opaque secureClusters : List (BitVec 8) → List Nat
/-- Secure copy engines. -/
opaque secureCopy : List (BitVec 8) → List Nat
/-- Secure atomic service units. -/
opaque secureAsu : List (BitVec 8) → List Nat
/-- The scale-out engine is secure. -/
opaque secureXo : List (BitVec 8) → Bool
/-- The management block is secure. -/
opaque secureMg : List (BitVec 8) → Bool
/-- The reserved LPDDR ranges: first cell and size. -/
opaque areas : List (BitVec 8) → List (Nat × Nat)
/-- The refresh-management threshold. -/
opaque refreshLimit : List (BitVec 8) → Nat
/-- The lottery seed. -/
opaque lotterySeed : List (BitVec 8) → BitVec 32
/-- The identity public key and its certificate, by offset. -/
opaque identity : Nat → BitVec 8
/-- The signature of a digest with the identity key, by offset. -/
opaque sign : BitVec 256 → Nat → BitVec 8

end Sys2Proof.Config
end

