-- ==== Sys2Proof/Syntax.lean ====
section
/-! DEFINITION. Syntax.lean: the instructions of the opcode table (02_encoding R42 and the encoding tables of the
class chapters), one constructor per row, with operands as the assembly language names them; and the events of the
table, which have no word. -/

namespace Sys2Proof

/-- Element types, R43. -/
inductive Ty where
  | s8 | s16 | s32 | s64 | z8 | z16 | z32 | z64
  | f32 | f16 | bf16 | e4m3 | e5m2 | e2m1 | e8m0 | i8 | i4 | q8 | q4
  deriving DecidableEq, Repr

/-- A guard (R27, R35): predicate `p`, negated when `neg`. `p = 0` with `neg = false` is no guard. -/
structure Guard where
  p   : BitVec 3
  neg : Bool
  deriving DecidableEq, Repr

/-- What every instruction word carries: its guard and the NWB bit (R27, R38). -/
structure Hd where
  g   : Guard
  nwb : Bool
  deriving DecidableEq, Repr

/-- A source operand (R30): a per-strand or uniform register, a latch, an inline immediate, or IMM32 of a B96 form (R28). -/
inductive Src where
  | v (n : BitVec 8)
  | s (n : BitVec 8)
  | latch (i : BitVec 2)
  | imm (k : BitVec 7)
  | imm32 (x : BitVec 32)
  deriving DecidableEq, Repr

/-- A destination register: uniform when `s`, else per strand (R30, class bit 63). With NWB `n` is zero (R38). -/
structure Dst where
  s : Bool
  n : BitVec 8
  deriving DecidableEq, Repr

/-- Rounding field of R101. -/
inductive Rm where
  | dyn | rn | rz | ru | rd
  deriving DecidableEq, Repr

/-- One source. -/
structure Un where
  h : Hd
  t : Ty
  d : Dst
  a : Src
  deriving DecidableEq, Repr

/-- Two sources. -/
structure Bin where
  h : Hd
  t : Ty
  d : Dst
  a : Src
  b : Src
  deriving DecidableEq, Repr

/-- Three sources. -/
structure Tri where
  h : Hd
  t : Ty
  d : Dst
  a : Src
  b : Src
  c : Src
  deriving DecidableEq, Repr

/-- A comparison into a predicate (R90 ICMP, R103 FCMP). -/
structure Cmp where
  h : Hd
  t : Ty
  p : BitVec 3
  a : Src
  b : Src
  deriving DecidableEq, Repr

/-- ICMP conditions, R90. -/
inductive Icc where
  | eq | ne | lt | le | gt | ge
  deriving DecidableEq, Repr

/-- FCMP conditions, R103. -/
inductive Fcc where
  | eq | ne | lt | le | gt | ge | un | ord
  deriving DecidableEq, Repr

/-- SHFL modes, R90. -/
inductive ShflMode where
  | idx | up | down | xor
  deriving DecidableEq, Repr

/-- FREDW operations, R103. -/
inductive RedwOp where
  | add | min | max
  deriving DecidableEq, Repr

/-- VOTE modes and their operands, R83. -/
inductive VoteOp where
  | any (d : BitVec 3) (a : BitVec 3) (neg : Bool)
  | all (d : BitVec 3) (a : BitVec 3) (neg : Bool)
  | ballot (d : Dst) (a : BitVec 3) (neg : Bool)
  | eq (d : BitVec 3) (a : Src) (w64 : Bool)
  deriving DecidableEq, Repr

/-- A conversion (R131): destination type `t`, source type `st` held in SC. -/
structure Conv where
  h   : Hd
  rm  : Rm
  sat : Bool
  t   : Ty
  st  : Ty
  d   : Dst
  a   : Src
  deriving DecidableEq, Repr

/-- Access types of R163: `z64` covers code 110, wide accesses carry their width in bytes and whether they are fresh. -/
inductive Acc where
  | s8 | z8 | s16 | z16 | s32 | z32 | z64
  deriving DecidableEq, Repr

/-- Scopes of R43. -/
inductive Scope where
  | strand | wave | wg | cl | die | dev | sys
  deriving DecidableEq, Repr

/-- Ordering kinds of the memory class (R163); `sync` is `.acq.S` of a load and `.rel.S` of a store. -/
inductive Ord where
  | plain | fresh | remote
  | sync (s : Scope)
  deriving DecidableEq, Repr

/-- Widths of wide accesses (R163). -/
inductive Wide where
  | w16 | w32 | w64
  deriving DecidableEq, Repr

/-- What a memory instruction accesses (R163): a typed access with an ordering kind, or a wide access. -/
inductive MemTy where
  | acc (a : Acc) (o : Ord)
  | wide (w : Wide) (fresh : Bool)
  deriving DecidableEq, Repr

/-- A memory instruction (R44, R164): `off` is IMM32 of the B96 form. -/
structure Mem where
  h     : Hd
  m     : MemTy
  scale : BitVec 2
  d     : Dst
  a     : Src
  c     : Src
  off   : Option (BitVec 32)
  deriving DecidableEq, Repr

/-- GATHER and SCATTER (R171): `n1` is N - 1. -/
structure Gath where
  h     : Hd
  acc   : Acc
  scale : BitVec 2
  n1    : BitVec 3
  fresh : Bool
  d     : BitVec 8
  a     : Src
  c     : BitVec 8
  off   : Option (BitVec 32)
  deriving DecidableEq, Repr

/-- An address alone: PREF, CFLUSH, ALIASFL (R164, R191). -/
structure Addr where
  h     : Hd
  scale : BitVec 2
  a     : Src
  c     : Src
  off   : Option (BitVec 32)
  deriving DecidableEq, Repr

/-- CFLUSH operations, R173. -/
inductive FlushOp where
  | l1 | i | wb | inv
  deriving DecidableEq, Repr

/-- Fence kinds, R191. -/
inductive FenceKind where
  | acq | rel | ar
  deriving DecidableEq, Repr

/-- Access paths, R178, R191. -/
inductive AccessPath where
  | ls | cp | mx | xo
  deriving DecidableEq, Repr

/-- Region modes, R202, R219. -/
inductive RegionMode where
  | read | write | rw
  deriving DecidableEq, Repr

/-- Where a copy's elements come from, R203 SRC. -/
inductive CopySrc where
  | elems | framed | stream
  deriving DecidableEq, Repr

/-- The copy control word of R203. `ety` is the raw type code: zero for byte copies. -/
structure CopyWord where
  blk   : Bool
  ben   : Bool
  wen   : Bool
  wtok  : BitVec 3
  sen   : Bool
  stok  : BitVec 3
  plane : Bool
  kc    : Bool
  fill  : Bool
  ety   : Ty
  src   : CopySrc
  deriving DecidableEq, Repr

/-- The common field block of the matrix class (R246). -/
structure Chain where
  pri  : BitVec 2
  wen  : Bool
  wtok : BitVec 3
  sen  : Bool
  stok : BitVec 3
  deriving DecidableEq, Repr

/-- Integer code types of asymmetric passes (R235). -/
inductive AsymTy where
  | q8 | i8 | q4 | i4
  deriving DecidableEq, Repr

/-- The pass layout of MMA and MMAP (R247), and the types of an asymmetric pass (R246). -/
structure PassW where
  aob   : BitVec 6
  bob   : BitVec 6
  kg    : BitVec 6
  nk1   : BitVec 4
  mb1   : BitVec 1
  nb1   : BitVec 2
  fix   : Bool
  xrung : BitVec 2
  opk   : BitVec 2
  psel  : Bool
  atb   : BitVec 8
  btb   : BitVec 8
  aty   : AsymTy
  bty   : AsymTy
  deriving DecidableEq, Repr

/-- MMA and MMAP operands. -/
structure Mma where
  h   : Hd
  acc : BitVec 3
  ta  : BitVec 5
  tb  : BitVec 5
  tc  : BitVec 5
  p   : PassW
  ch  : Chain
  deriving DecidableEq, Repr

/-- MLDC source formats (R247). -/
inductive LdFmt where
  | f32 | f16 | bf16
  deriving DecidableEq, Repr

/-- MDRAIN (R247 drain layout). `origin` is the s register of a memory drain. -/
structure Drain where
  h      : Hd
  acc    : BitVec 3
  td     : BitVec 5
  origin : Option (BitVec 6)
  tq     : BitVec 5
  mb1    : BitVec 1
  nb1    : BitVec 2
  ofmt   : BitVec 4
  sat    : Bool
  ten    : Bool
  tt     : BitVec 5
  tfmt   : BitVec 4
  aen    : Bool
  areg   : BitVec 6
  ascope : BitVec 3
  tagb   : BitVec 8
  clr    : Bool
  free   : Bool
  ch     : Chain
  deriving DecidableEq, Repr

/-- TYPE of the atomics, R295. -/
inductive AtomTy where
  | s32 | z32 | s64 | z64 | f32
  deriving DecidableEq, Repr

/-- Operations of ATOM and RED, R295. -/
inductive AtomOp where
  | add | min | max | and | or | xor | exch | inc | dec
  deriving DecidableEq, Repr

/-- KIND of an atomic, R295. -/
inductive AtomKind where
  | relaxed | acq | rel | ar
  deriving DecidableEq, Repr

/-- ATOM, ACAS and RED (R295); `d` is zero for RED. -/
structure Atomic where
  h      : Hd
  t      : AtomTy
  kind   : AtomKind
  scope  : Scope
  remote : Bool
  d      : Dst
  a      : Src
  b      : Src
  off    : Option (BitVec 32)
  deriving DecidableEq, Repr

/-- CSRX operations, R398. -/
inductive CsrxOp where
  | swap | set | clr
  deriving DecidableEq, Repr

/-- What a queue instruction pushes (R303): a word, or the tile of a handle. -/
inductive QSrc where
  | word (a : Src)
  | tile (t : BitVec 5)
  deriving DecidableEq, Repr

/-- Where QPOP puts what it pops (R303). With NWB the word goes to the latch and `s` is zero. -/
inductive QDst where
  | s (n : BitVec 6)
  | tile (t : BitVec 5)
  deriving DecidableEq, Repr

/-- The two forms of QTRY (R303): a push, or a pop (with AG) of a word or of a tile into a handle. -/
inductive QTryOp where
  | push (a : QSrc)
  | pop (ag : Bool) (t : Option (BitVec 5))
  deriving DecidableEq, Repr

/-- What TLBINV selects (R402); no ASID operand is SELF. -/
inductive TlbSel where
  | va (v : BitVec 6) (asid : Option Src)
  | asid (asid : Option Src)
  | all
  deriving DecidableEq, Repr

/-- What QHDR writes (R141): the header of a type with scales, or the all-zero block (`b96`: the word's length). -/
inductive QhdrOp where
  | hdr (t : Ty) (a : Src)
  | zero (b96 : Bool)
  deriving DecidableEq, Repr

/-- Selectors of QRY, R346. -/
inductive QrySel where
  | split (idx : Src)
  | depth | lin | nwg | kids | tasks | round
  deriving DecidableEq, Repr

/-- The instruction set: one constructor per row of spec/opcode_table.json. -/
inductive Instr where
  -- control, R75
  | nop (h : Hd)
  | bra (h : Hd) (off : BitVec 32)
  | brx (h : Hd) (a : Src)
  | call (h : Hd) (d : Dst) (off : BitVec 32)
  | ret (h : Hd) (a : Src)
  | loop (h : Hd) (d : Dst) (off : BitVec 32)
  | sfork (h : Hd) (d : Dst) (a b : Src)
  | sexit (h : Hd)
  | wexit (h : Hd)
  | idem (vmask smask : BitVec 16)
  | yield (h : Hd)
  | vote (h : Hd) (o : VoteOp)
  | paths (h : Hd) (d : Dst) (live : Bool)
  -- integer, R90
  | iadd (sat : Bool) (o : Bin)
  | isub (sat : Bool) (o : Bin)
  | imul (o : Bin)
  | imad (o : Tri)
  | imulh (o : Bin)
  | imin (o : Bin)
  | imax (o : Bin)
  | iabs (sat : Bool) (o : Un)
  | and (o : Bin)
  | or (o : Bin)
  | xor (o : Bin)
  | not (o : Un)
  | shl (o : Bin)
  | shr (o : Bin)
  | sar (o : Bin)
  | rot (o : Bin)
  | popc (o : Un)
  | clz (o : Un)
  | ctz (o : Un)
  | brev (o : Un)
  | bfx (o : Bin)
  | bfi (o : Tri)
  | sel (o : Bin) (pc : BitVec 3) (neg : Bool)
  | icmp (cc : Icc) (o : Cmp)
  | mov (o : Un)
  | movi (h : Hd) (t : Ty) (d : Dst) (x : BitVec 32) (hi : Bool)
  | lea (sh : BitVec 3) (o : Bin)
  | iext (o : Un)
  | shfl (mode : ShflMode) (o : Bin)
  | prmt (o : Tri)
  | pcmb (h : Hd) (lut : BitVec 4) (d a b : BitVec 3)
  -- floating point, R103
  | fadd (rm : Rm) (o : Bin)
  | fsub (rm : Rm) (o : Bin)
  | fmul (rm : Rm) (o : Bin)
  | ffma (rm : Rm) (o : Tri)
  | fdot2 (rm : Rm) (o : Tri)
  | fmin (o : Bin)
  | fmax (o : Bin)
  | fcmp (cc : Fcc) (o : Cmp)
  | fclass (o : Un)
  | frnd (rm : Rm) (o : Un)
  | frcp (rm : Rm) (o : Un)
  | frsq (rm : Rm) (o : Un)
  | fsqrt (rm : Rm) (o : Un)
  | fexp2 (rm : Rm) (o : Un)
  | flog2 (rm : Rm) (o : Un)
  | fsin (o : Un)
  | fcos (o : Un)
  | fwelf (h : Hd) (d a : BitVec 8) (x : Src)
  | fwmerge (h : Hd) (d a : BitVec 8) (b : Src)
  | fredw (op : RedwOp) (o : Un)
  -- conversion, R132
  | cvt (o : Conv)
  | cvtfi (o : Conv)
  | cvtif (o : Conv)
  | qpack (h : Hd) (rm : Rm) (sat : Bool) (t : Ty) (grp : BitVec 2) (d a : BitVec 8)
  | qpackRows (h : Hd) (rm : Rm) (t : Ty) (d a : BitVec 8) (e : Src)
  | qunpack (h : Hd) (t : Ty) (grp : BitVec 2) (d a : BitVec 8)
  | qunpackRows (h : Hd) (t : Ty) (d a : BitVec 8) (e r : Src)
  | qscale (o : Un)
  | qrow (o : Tri)
  | qamax (h : Hd) (t : Ty) (d a : BitVec 8) (n : BitVec 7)
  | qhdr (h : Hd) (d : BitVec 8) (o : QhdrOp)
  | qesc (h : Hd) (t : Ty) (d : BitVec 8) (a b : Src)
  -- memory, R164
  | ld (m : Mem)
  | st (m : Mem)
  | ldu (m : Mem)
  | ldl (m : Mem)
  | stl (m : Mem)
  | gather (m : Gath)
  | scatter (m : Gath)
  | pref (l1 : Bool) (m : Addr)
  | cflush (op : FlushOp) (m : Addr)
  | ldk (m : Mem)
  -- ordering, R191
  | fence (h : Hd) (s : Scope) (k : FenceKind)
  | fencex (h : Hd) (s : Scope) (k : FenceKind) (pa pb : AccessPath)
  | aliasfl (m : Addr)
  -- tiles and copies, R219
  | tdecl (h : Hd) (t : BitVec 5) (base pitch : BitVec 6) (rows rowbytes : BitVec 20) (mode : RegionMode)
  | tbind (h : Hd) (d : Dst) (t : BitVec 5) (planar : Bool) (rows : BitVec 12) (width : BitVec 16)
  | twait (h : Hd) (t : BitVec 5)
  | tstat (h : Hd) (d : Dst) (t : BitVec 5)
  | tcopy (h : Hd) (t : BitVec 5) (a : BitVec 6) (b : BitVec 4) (cw : CopyWord)
  | tstore (h : Hd) (t : BitVec 5) (a : BitVec 6) (b : BitVec 4) (cw : CopyWord)
  | tplane (h : Hd) (t ts : BitVec 5) (b : BitVec 4) (cw : CopyWord)
  | trel (h : Hd) (t : BitVec 5)
  | cseal (h : Hd) (d : Option Dst)
  | cwait (h : Hd) (a : Src)
  | cwaitTo (h : Hd) (a : Src)
  | binit (h : Hd) (b : BitVec 4) (gen : Src) (part : BitVec 32)
  | bexpect (h : Hd) (b : BitVec 4) (n : Src) (nb : BitVec 32) (arr : Bool)
  | barrive (h : Hd) (d : Option Dst) (b : BitVec 4)
  | bwait (h : Hd) (b : BitVec 4) (gen : Src)
  | ksig (h : Hd) (k : BitVec 3)
  | kwait (h : Hd) (k : BitVec 3)
  -- matrix, R247
  | mzero (h : Hd) (acc : BitVec 3) (mb1 : BitVec 1) (nb1 : BitVec 2) (ch : Chain)
  | mldc (h : Hd) (acc : BitVec 3) (ts : BitVec 5) (mb1 : BitVec 1) (nb1 : BitVec 2) (fmt : LdFmt) (row0 : BitVec 12) (ch : Chain)
  | mma (o : Mma)
  | mmap (o : Mma)
  | mdrain (o : Drain)
  | mbaton (h : Hd) (a : Src)
  | mrel (h : Hd)
  | mstat (h : Hd) (d : Dst)
  | mnmsel (h : Hd) (td ts : BitVec 5) (of8 : Bool) (ch : Chain)
  -- transactions, R280
  | txbegin (h : Hd) (early : Bool) (d : Option Dst)
  | txcommit (h : Hd)
  | txabortUp (h : Hd)
  | txabortDrop (h : Hd)
  | txstat (h : Hd) (sel : BitVec 2) (d : Dst)
  | txpredRd (h : Hd) (d k : BitVec 6) (idx : Src) (w : BitVec 6)
  | txpredWr (h : Hd) (d k : BitVec 6) (idx : Src) (w : BitVec 6)
  | txgate (h : Hd) (a : BitVec 6) (e : Src)
  -- synchronisation, R295 to R315
  | atom (op : AtomOp) (o : Atomic)
  | acas (o : Atomic)
  | red (op : AtomOp) (o : Atomic)
  | bar (h : Hd) (id : Src)
  | bars (h : Hd) (arr : Bool) (id n : Src)
  | qpush (h : Hd) (cl : Bool) (q : BitVec 4) (a : QSrc)
  | qpop (h : Hd) (cl ag : Bool) (q : BitVec 4) (d : QDst)
  | qtry (h : Hd) (cl : Bool) (q : BitVec 4) (d : BitVec 6) (o : QTryOp)
  | qgrant (h : Hd) (cl : Bool) (q : BitVec 4) (n : Src)
  | qgrantCfg (h : Hd) (cl : Bool) (q : BitVec 4) (w : BitVec 6)
  | dqpush (h : Hd) (s : Scope) (d hd e : BitVec 6)
  | dqpop (h : Hd) (s : Scope) (d hd : BitVec 6)
  | dqsteal (h : Hd) (s : Scope) (d hd : BitVec 6)
  | reggive (h : Hd) (n : Src)
  | regclaim (h : Hd) (n : Src)
  | gqrel (h : Hd) (a : BitVec 6) (idx : Src)
  -- tasks, R342
  | launch (h : Hd) (a : BitVec 6) (q : BitVec 6) (same : Bool)
  | task (h : Hd) (a : BitVec 6)
  | taskc (h : Hd) (a : BitVec 6) (inv : Bool)
  | joinc (h : Hd) (d : Dst)
  | qry (h : Hd) (d : Dst) (o : QrySel)
  | detsync (h : Hd)
  | taskqRd (h : Hd) (d : Dst) (q : Src)
  | taskqWr (h : Hd) (q t : Src)
  -- sample groups, stamps, random numbers, R368
  | sgfork (h : Hd) (obj ker bud : BitVec 6) (g1 : BitVec 6) (rmask : BitVec 32) (nstr1 : BitVec 5)
  | sgreward (h : Hd) (d : Dst) (obj : BitVec 6) (idx rew : Src)
  | sgwait (h : Hd) (d : Dst) (obj : BitVec 6)
  | sgcancel (h : Hd) (obj : BitVec 6) (idx : Src)
  | sgclose (h : Hd) (obj : BitVec 6)
  | sginfo (h : Hd) (sel : BitVec 3) (d : Dst) (obj : BitVec 6)
  | dld (h : Hd) (d : Dst) (a c : Src)
  | dset (h : Hd) (sel : BitVec 8) (a x c : Src)
  | dadd (h : Hd) (sel : BitVec 8) (a x c : Src)
  | dmerge (h : Hd) (d : Dst) (a b : Src)
  | stepadv (h : Hd) (d : Dst) (t : BitVec 6)
  | rng (h : Hd) (d : Dst) (a b : Src)
  | rngf (h : Hd) (d : Dst) (a b : Src)
  | rngmask (h : Hd) (d : Dst) (a b c : Src)
  | rngmaskSt (h : Hd) (d : Dst) (a b c : Src)
  -- system, R398
  | trap (h : Hd) (code : Src)
  | tret (h : Hd) (act : Src) (dest : Option (BitVec 6))
  | csrr (h : Hd) (d : Dst) (n : BitVec 12)
  | csrw (h : Hd) (x : Src) (n : BitVec 12)
  | csrx (h : Hd) (op : CsrxOp) (d : Dst) (x : Src) (n : BitVec 12)
  | brk (h : Hd) (code : Src)
  | tlbinv (h : Hd) (o : TlbSel)
  | halt (h : Hd) (code : Src)
  -- scale-out, R419
  | xput (h : Hd) (a b c : BitVec 6) (ep : BitVec 12) (ben : Bool) (bar : BitVec 4)
  | xget (h : Hd) (a b c : BitVec 6) (ep : BitVec 12) (ben : Bool) (bar : BitVec 4)
  | xsig (h : Hd) (x : Src) (b : BitVec 6) (ep : BitVec 12) (set : Bool)
  | xwait (h : Hd) (a : BitVec 6) (x : Src)
  -- events: steps of agents other than an issuing wave; they have no word. Names of records are the state's uids.
  | deviceReset
  | dlDown (port : Bool)
  | mgClaim (p0 p1 : Bool)
  | handoverRelease (port : Bool)
  | handoverPass (port target : Bool)
  | doorbell (port : Bool) (ctx q : BitVec 6) (p : BitVec 32)
  | create (port : Bool) (ctx : BitVec 6)
  | run (port : Bool) (ctx : BitVec 6)
  | suspend (port : Bool) (ctx : BitVec 6)
  | reset (port : Bool) (ctx : BitVec 6)
  | setq (port : Bool) (ctx : BitVec 6)
  | setep (port : Bool) (ctx : BitVec 6)
  | boot (port : Bool)
  | attest (port : Bool)
  | setcsr (port : Bool) (ctx : BitVec 6)
  | mgRegisterWrite (port : Bool) (off : Nat) (x : BitVec 64)
  | hostBar2Read (port : Bool) (off n : Nat)
  | hostBar2Write (port : Bool) (off : Nat) (bytes : List (BitVec 8))
  | mctpQuery (reg : Nat)
  | clusterGroupRelease
  | ringRecordAccept (ctx q : BitVec 6)
  | lotteryDraw
  | workgroupDispatch (grid : Nat)
  | dispatchOfferTimeout (grid : Nat)
  | coresidentPlacement (grid : Nat)
  | taskDispatch (task : Nat)
  | taskStagedStart (task : Nat)
  | conditionalPredicateRead (task : Nat)
  | versionDrain (task : Nat)
  | versionDrainComplete (task : Nat)
  | workgroupRetire (wg : Nat)
  | endOfLaunch (grid : Nat)
  | icacheMissFill (wave : Nat)
  | quantumExpiry (wave : Nat)
  | pageWalk (core : Nat) (ctx : BitVec 6) (va : BitVec 64)
  | loadDataArrival (load : Nat)
  | asuOperation (req : Nat)
  | asuReplyArrival (req : Nat)
  | regclaimServe (core : Nat)
  | queueWaiterServed (waiter : Nat)
  | copyStart (copy : Nat)
  | copyComplete (copy : Nat)
  | engineGrant (cluster : Nat)
  | passComplete (cluster : Nat)
  | engineCommandComplete (entry : Nat)
  | txCommitProceed (wg : Nat)
  | gateRead (wg : Nat)
  | releaseRound (ctx : BitVec 6)
  | detqExpiry (wave : Nat)
  | waveDrop (wave : Nat)
  | workgroupSave (wg : Nat)
  | workgroupResume (wg : Nat)
  | switchDeadlineExpiry (ctx : BitVec 6)
  | haltResume (wave : Nat) (discard : Bool)
  | siblingBudgetExpiry (wg : Nat)
  | sweepVisit (ctx : BitVec 6)
  | migrationStart (ctx : BitVec 6) (va : BitVec 64) (dst : Nat)
  | migrationStall (mig : Nat)
  | migrationSwitch (mig : Nat)
  | refreshWindowStart (bank : Nat)
  | rfmIssue (bank row : Nat)
  | xputAck (xfer : Nat)
  | xgetDataArrival (xfer : Nat) (bytes : List (BitVec 8))
  | xsigSend (xfer : Nat)
  | xoTransferFailure (xfer : Nat)
  | incomingPeerWrite (ctx : BitVec 6) (ep off : Nat) (bytes : List (BitVec 8))
  | mgCommandComplete
  | dlUp (port : Bool)
  | busMasteringChange (port on : Bool)
  | incomingPeerRead (ctx : BitVec 6) (ep off n : Nat)
  deriving DecidableEq, Repr

end Sys2Proof
end

