-- ==== Sys2Proof/WellFormed.lean ====
section
/-! DEFINITION. WellFormed.lean: what an instruction must satisfy to have an encoding (02_encoding R28 to R38 and the
class chapters): each check with the field of R41 it names when it fails. -/

namespace Sys2Proof

/-- What decoding depends on beside the word: the strand's window size (R31, R37), whether the kernel is a pair kernel
(R245), whether the wave is inside a transaction and whether it is in the odd half of a pair (R247). -/
structure DecCtx where
  win  : Nat
  pair : Bool
  tx   : Bool
  odd  : Bool
  deriving DecidableEq, Repr

/-- Field codes of R41. -/
inductive FieldCode where
  | len | opc | grd | nwb | dst | sa | sb | sc | mod | imm | ext
  deriving DecidableEq, Repr

/-- The number TRAPINFO holds for a field (R41). -/
def FieldCode.num : FieldCode → Nat
  | .len => 0 | .opc => 1 | .grd => 2 | .nwb => 3 | .dst => 4 | .sa => 5 | .sb => 6 | .sc => 7 | .mod => 8
  | .imm => 9 | .ext => 10

/-- Width of a type in bits (R117, R87). -/
def Ty.bits : Ty → Nat
  | .s8 => 8 | .s16 => 16 | .s32 => 32 | .s64 => 64 | .z8 => 8 | .z16 => 16 | .z32 => 32 | .z64 => 64
  | .f32 => 32 | .f16 => 16 | .bf16 => 16 | .e4m3 => 8 | .e5m2 => 8 | .e2m1 => 4 | .e8m0 => 8
  | .i8 => 8 | .i4 => 4 | .q8 => 8 | .q4 => 4

/-- Types held in a v pair (R32). -/
def Ty.is64 (t : Ty) : Bool := t.bits == 64

/-- Types read as signed integers: .s8 to .s64, .i8 and .i4 (R32). -/
def Ty.signed : Ty → Bool
  | .s8 | .s16 | .s32 | .s64 | .i8 | .i4 => true
  | _ => false

/-- Integer types of the integer class (R90). -/
def intTys : List Ty := [.s8, .s16, .s32, .s64, .z8, .z16, .z32, .z64]
/-- Types of the floating-point class (R103). -/
def floatTys : List Ty := [.f32, .f16, .bf16]
/-- Element types of framed blocks (R123). -/
def framedTys : List Ty := [.e2m1, .e4m3, .e5m2, .i8, .i4, .bf16, .f16]
/-- Code types of row-scaled streams (R128). -/
def rowTys : List Ty := [.q8, .q4, .i8, .i4]

/-- Scale groups of a framed type's block (R123). -/
def Ty.groups : Ty → Nat
  | .e2m1 | .i4 => 4
  | .e4m3 | .e5m2 | .i8 => 2
  | _ => 1

/-- May an operand of this type be an inline immediate (R33)? -/
def Ty.inlineOk : Ty → Bool
  | .e4m3 | .e5m2 | .e2m1 | .e8m0 => false
  | _ => true

/-- May an operand of this type be this IMM32 (R33, R131)? -/
def Ty.immOk (t : Ty) (x : BitVec 32) : Bool :=
  match t with
  | .s8 | .i8 => x == (x.truncate 8).signExtend 32
  | .s16 => x == (x.truncate 16).signExtend 32
  | .i4 => x == (x.truncate 4).signExtend 32
  | .z8 | .q8 => x == (x.truncate 8).zeroExtend 32
  | .q4 => x == (x.truncate 4).zeroExtend 32
  | .z16 | .f16 | .bf16 => x == (x.truncate 16).zeroExtend 32
  | .s32 | .s64 | .z32 | .z64 | .f32 => true
  | .e4m3 | .e5m2 | .e2m1 | .e8m0 => false

/-- What a source field may name (R30, R31): v, s, latch, inline immediate, IMM32; `w64` is a 64-bit operand, whose v
form is a pair (R32); `run` is the number of consecutive v registers. -/
structure Opd where
  v   : Bool := false
  s   : Bool := false
  l   : Bool := false
  i   : Bool := false
  m   : Bool := false
  w64 : Bool := false
  run : Nat := 1
  deriving DecidableEq, Repr

/-- Every kind of source, of one register or of a pair. -/
def Opd.any (w64 : Bool) : Opd := ⟨true, true, true, true, true, w64, 1⟩
/-- v, s or latch. -/
def Opd.vsl (w64 : Bool) : Opd := ⟨true, true, true, false, false, w64, 1⟩
/-- v, s, latch or inline immediate. -/
def Opd.vsli (w64 : Bool) : Opd := ⟨true, true, true, true, false, w64, 1⟩
/-- v, latch or inline immediate: the index of an address (R44). -/
def Opd.vli : Opd := ⟨true, false, true, true, false, false, 1⟩
/-- A uniform register or an inline immediate. -/
def Opd.si : Opd := ⟨false, true, false, true, false, false, 1⟩
/-- A uniform register. -/
def Opd.so : Opd := ⟨false, true, false, false, false, false, 1⟩
/-- The same operand where the destination is uniform (R34): no per-strand source. -/
def Opd.uni (k : Opd) (u : Bool) : Opd := if u then { k with v := false, l := false } else k

/-- Does a source name what the field allows, within the limits of R31 and R32? -/
def Src.ok (c : DecCtx) (k : Opd) : Src → Bool
  | .v n => k.v && (if k.w64 then n.toNat % 2 == 0 && decide (n.toNat + 1 < c.win) else decide (n.toNat + k.run ≤ c.win))
  | .s n => k.s && decide (n.toNat < 64)
  | .latch _ => k.l
  | .imm _ => k.i
  | .imm32 _ => k.m

/-- Is the inline immediate of a typed operand allowed (R33)? -/
def Src.inlineOk (t : Ty) : Src → Bool
  | .imm _ => t.inlineOk
  | _ => true

/-- Is the IMM32 of a typed operand within its constraint (R33)? -/
def Src.immOk (t : Ty) : Src → Bool
  | .imm32 x => t.immOk x
  | _ => true

/-- Is an inline immediate within a range (others pass)? -/
def Src.immIn (lo hi : Int) : Src → Bool
  | .imm k => decide (lo ≤ k.toInt) && decide (k.toInt ≤ hi)
  | _ => true

/-- May a destination register be written (R31, R32, R38)? -/
def Dst.ok (c : DecCtx) (h : Hd) (w64 : Bool) (d : Dst) : Bool :=
  if h.nwb then d.n == 0
  else if d.s then decide (d.n.toNat < 64)
  else if w64 then d.n.toNat % 2 == 0 && decide (d.n.toNat + 1 < c.win)
  else decide (d.n.toNat < c.win)

/-- A run of `k` v registers below the window size (R37, R132). -/
def vrun (c : DecCtx) (n : BitVec 8) (k : Nat) : Bool := decide (n.toNat + k ≤ c.win)

/-- The guard is not the illegal code 1000 (R35). -/
def Hd.guardOk (h : Hd) : Bool := !(h.g.p == 0 && h.g.neg)

/-- A check, with the field it names. -/
abbrev Chk := FieldCode × Bool

/-- One-source checks: width of the destination, operand kind. -/
def Un.checks (c : DecCtx) (wd : Bool) (ka : Opd) (ts : List Ty) (o : Un) : List Chk :=
  [(.dst, o.d.ok c o.h wd), (.sa, o.a.ok c (ka.uni o.d.s)), (.mod, ts.contains o.t)]

/-- Two-source checks. -/
def Bin.checks (c : DecCtx) (wd : Bool) (ka kb : Opd) (ts : List Ty) (o : Bin) : List Chk :=
  [(.dst, o.d.ok c o.h wd), (.sa, o.a.ok c (ka.uni o.d.s)), (.sb, o.b.ok c (kb.uni o.d.s)), (.mod, ts.contains o.t)]

/-- Three-source checks. -/
def Tri.checks (c : DecCtx) (wd : Bool) (ka kb kc : Opd) (ts : List Ty) (o : Tri) : List Chk :=
  [(.dst, o.d.ok c o.h wd), (.sa, o.a.ok c (ka.uni o.d.s)), (.sb, o.b.ok c (kb.uni o.d.s)),
   (.sc, o.c.ok c (kc.uni o.d.s)), (.mod, ts.contains o.t)]

/-- An element-typed binary operation of the integer and floating-point classes. -/
def Bin.elem (c : DecCtx) (ts : List Ty) (o : Bin) : List Chk :=
  o.checks c o.t.is64 (.vsli o.t.is64) (.any o.t.is64) ts ++ [(.imm, o.b.immOk o.t)]

/-- An element-typed unary operation: SA has no IMM32 form. -/
def Un.elem (c : DecCtx) (ts : List Ty) (o : Un) : List Chk := o.checks c o.t.is64 (.vsli o.t.is64) ts

/-- An element-typed operation of three sources. -/
def Tri.elem (c : DecCtx) (ts : List Ty) (o : Tri) : List Chk :=
  o.checks c o.t.is64 (.vsli o.t.is64) (.any o.t.is64) (.vsli o.t.is64) ts ++ [(.imm, o.b.immOk o.t)]

/-- A binary operation whose second operand is a 32-bit count, spec, selector or index (R33). -/
def Bin.count (c : DecCtx) (ts : List Ty) (o : Bin) : List Chk :=
  o.checks c o.t.is64 (.vsli o.t.is64) (.any false) ts

/-- Checks of a comparison (R90, R103). -/
def Cmp.checks (c : DecCtx) (ts : List Ty) (o : Cmp) : List Chk :=
  [(.sa, o.a.ok c (.vsli o.t.is64)), (.sb, o.b.ok c (.any o.t.is64)), (.mod, ts.contains o.t), (.imm, o.b.immOk o.t)]

/-- Checks of VOTE (R83). -/
def VoteOp.checks (c : DecCtx) (h : Hd) : VoteOp → List Chk
  | .any _ _ _ | .all _ _ _ => []
  | .ballot d _ _ => [(.dst, d.ok c h false)]
  | .eq _ a w64 => [(.sa, a.ok c (.vsl w64))]

/-- Width in bytes of an access type (R163). -/
def Acc.bytes : Acc → Nat
  | .s8 | .z8 => 1 | .s16 | .z16 => 2 | .s32 | .z32 => 4 | .z64 => 8

/-- Bytes of a wide access (R163). -/
def Wide.bytes : Wide → Nat
  | .w16 => 16 | .w32 => 32 | .w64 => 64

/-- Scope number of R43. -/
def Scope.num : Scope → Nat
  | .strand => 0 | .wave => 1 | .wg => 2 | .cl => 3 | .die => 4 | .dev => 5 | .sys => 6

/-- Bytes an access touches. -/
def MemTy.bytes : MemTy → Nat
  | .acc a _ => a.bytes
  | .wide w _ => w.bytes

/-- The destination or data register of a memory instruction (R164): wide accesses use a v run (`srun`: LDU may use a run
of s registers). -/
def Mem.dstOk (c : DecCtx) (srun : Bool) (m : Mem) : Bool :=
  match m.m with
  | .acc a _ => m.d.ok c m.h (a == .z64)
  | .wide w _ =>
    if m.d.s then srun && decide (m.d.n.toNat + w.bytes / 8 ≤ 64) else vrun c m.d.n (w.bytes / 4)

/-- Ordering kinds a memory instruction allows (R164). -/
def MemTy.ordOk (rel wideOk freshOk remoteOk : Bool) : MemTy → Bool
  | .acc _ .plain => true
  | .acc _ .fresh => freshOk
  | .acc _ .remote => remoteOk
  | .acc _ (.sync s) => rel && s != .strand
  | .wide _ f => wideOk && (freshOk || !f)

/-- Checks of an address and of an access through it (R164). `ld`: the register is a destination. -/
def Mem.checks (c : DecCtx) (m : Mem) (ld srun : Bool) (ka kc : Opd) (ordOk : Bool) : List Chk :=
  [(.dst, m.dstOk c srun), (.sa, m.a.ok c (ka.uni (ld && m.d.s))), (.sc, m.c.ok c (kc.uni (ld && m.d.s))), (.mod, ordOk)]

/-- Checks of GATHER and SCATTER (R171). -/
def Gath.checks (c : DecCtx) (m : Gath) (scatter : Bool) : List Chk :=
  [(.dst, vrun c m.d (m.n1.toNat + 1)), (.sa, m.a.ok c (.vsl true)), (.sc, vrun c m.c (m.n1.toNat + 1)),
   (.mod, m.acc != .z64 && !(scatter && m.fresh))]

/-- Checks of an address alone. -/
def Addr.checks (c : DecCtx) (m : Addr) : List Chk :=
  [(.sa, m.a.ok c (.vsl true)), (.sc, m.c.ok c .vli)]

/-- The combinations the copy control word allows (R203). -/
def CopyWord.kindOk (w : CopyWord) (unz : Bool) : Bool :=
  match w.plane, w.src with
  | false, .elems => w.ety == .s8 && !w.kc
  | false, .stream => w.ety == .s8 && !w.kc && unz && w.blk
  | false, .framed => false
  | true, .elems => [Ty.f32, .f16, .bf16, .e4m3, .e5m2, .e2m1, .i8, .i4].contains w.ety && !(w.kc && w.ety.bits == 4)
  | true, .framed => framedTys.contains w.ety && !w.kc
  | true, .stream => false

/-- Does the rectangle of MB by NB views from acc N stay in the slot (R236)? -/
def accRect (acc : BitVec 3) (mb1 : BitVec 1) (nb1 : BitVec 2) : Bool :=
  decide (acc.toNat / 4 + (mb1.toNat + 1) ≤ 2) && decide (acc.toNat % 4 + (nb1.toNat + 1) ≤ 4)

/-- Checks of the pass layout (R247). -/
def Mma.checks (o : Mma) : List Chk :=
  [(.ext, accRect o.acc o.p.mb1 o.p.nb1),
   (.ext, !(o.p.fix && o.p.opk == 3)),
   (.ext, o.p.opk == 3 || (o.p.atb == 0 && o.p.btb == 0 && o.p.aty == .q8 && o.p.bty == .q8)),
   (.ext, o.p.opk == 2 || !o.p.psel),
   (.ext, o.p.opk == 2 || o.p.opk == 3 || o.tc == 0)]

/-- Checks of MDRAIN (R247, R251). -/
def Drain.checks (o : Drain) : List Chk :=
  [(.ext, accRect o.acc o.mb1 o.nb1),
   (.ext, decide (o.ofmt.toNat ≤ 13)),
   (.ext, decide (o.tfmt.toNat ≤ 9)),
   (.ext, o.ten || (o.tt == 0 && o.tfmt == 0)),
   (.ext, !o.aen || (o.ascope != 0 && o.ascope != 7)),
   (.ext, decide (10 ≤ o.ofmt.toNat) || o.tq == 0)]

/-- Is the operation one that the type and the instruction have (R295)? -/
def AtomOp.ok (t : AtomTy) (red : Bool) : AtomOp → Bool
  | .add | .min | .max => true
  | .and | .or | .xor => t != .f32
  | .exch => !red
  | .inc | .dec => !red && (t == .z32 || t == .z64)

/-- Types of 64 bits. -/
def AtomTy.is64 : AtomTy → Bool
  | .s64 | .z64 => true
  | _ => false

/-- Scope and kind of an atomic agree (R295). -/
def Atomic.kindOk (o : Atomic) : Bool :=
  (if o.kind == .relaxed then o.scope == .strand else o.scope != .strand) &&
  (!o.remote || ((o.kind == .acq || o.kind == .ar) && o.scope == .dev))

/-- Checks of ATOM and ACAS (R295). -/
def Atomic.checks (c : DecCtx) (o : Atomic) : List Chk :=
  [(.dst, o.d.ok c o.h o.t.is64), (.sa, o.a.ok c ((Opd.vsl true).uni o.d.s)),
   (.sb, o.b.ok c ((Opd.vsli o.t.is64).uni o.d.s)), (.mod, o.kindOk)]

/-- What a queue instruction pushes (R303). -/
def QSrc.checks (c : DecCtx) : QSrc → List Chk
  | .word a => [(.sb, a.ok c .si)]
  | .tile _ => []

/-- CSR numbers that exist (R45). -/
def csrAssigned (n : BitVec 12) : Bool :=
  decide (n.toNat ≤ 0x00F) || (decide (0x040 ≤ n.toNat) && decide (n.toNat ≤ 0x042)) ||
  (decide (0x100 ≤ n.toNat) && decide (n.toNat ≤ 0x108)) || (decide (0x200 ≤ n.toNat) && decide (n.toNat ≤ 0x206)) ||
  (decide (0x300 ≤ n.toNat) && decide (n.toNat ≤ 0x304))

/-- CSR numbers that may be written at some level (R45, R46). -/
def csrWritable (n : BitVec 12) : Bool := csrAssigned n && decide (0x010 ≤ n.toNat)

/-- A value, or an absent optional operand, within the field's rule. -/
def optOk {α : Type} (f : α → Bool) : Option α → Bool
  | none => true
  | some x => f x

/-- The checks of an instruction beside its guard and NWB, in any order: decoding sorts them by field (R40 step 6). -/
def Instr.checks (c : DecCtx) : Instr → List Chk
  | .brx _ a | .ret _ a => [(.sa, a.ok c (.vsl true))]
  | .call h d _ => [(.dst, d.ok c h true)]
  | .loop h d _ => [(.dst, d.ok c h false)]
  | .sfork h d a b => [(.dst, !d.s && d.ok c h false), (.sa, a.ok c (.vsli false)), (.sb, b.ok c (.vsl true))]
  | .idem vm _ => [(.dst, decide (vm.toNat % 512 < 2 ^ c.win)), (.sa, decide (vm.toNat < 2 ^ c.win))]
  | .vote h o => o.checks c h
  | .paths h d _ => [(.dst, d.ok c h false)]
  | .iadd _ o | .isub _ o | .imul o | .imulh o | .imin o | .imax o | .and o | .or o | .xor o => o.elem c intTys
  | .imad o => o.elem c intTys
  | .iabs _ o => o.elem c [.s8, .s16, .s32, .s64]
  | .not o | .brev o | .mov o => o.elem c intTys
  | .shl o | .shr o | .sar o | .rot o | .bfx o => o.count c intTys
  | .popc o | .clz o | .ctz o => o.checks c false (.vsli o.t.is64) intTys
  | .bfi o => o.checks c o.t.is64 (.vsli o.t.is64) (.any false) (.vsli o.t.is64) intTys
  | .sel o _ _ => o.elem c intTys ++ [(.sc, !o.d.s)]
  | .icmp _ o => o.checks c intTys
  | .movi h t d x hi =>
    [(.dst, d.ok c h t.is64), (.mod, if hi then t.is64 else intTys.contains t), (.imm, t.immOk x)]
  | .lea _ o => o.checks c true (.vsli true) (.any false) [.s32, .z32]
  | .iext o => o.checks c true (.vsli o.t.is64) intTys
  | .shfl _ o =>
    o.count c [.s32, .z32, .s64, .z64] ++ [(.dst, !o.d.s)]
  | .prmt o => o.checks c false (.vsli false) (.any false) (.vsli false) [.z32]
  | .fadd _ o | .fsub _ o | .fmul _ o | .fmin o | .fmax o => o.elem c floatTys
  | .ffma _ o => o.elem c floatTys
  | .fdot2 _ o => o.checks c false (.vsl false) { Opd.vsl false with m := true } (.vsli false) [.f16, .bf16]
  | .fcmp _ o => o.checks c floatTys
  | .fclass o | .frnd _ o | .frcp _ o | .frsq _ o | .fsqrt _ o | .fexp2 _ o | .flog2 _ o | .fsin o | .fcos o =>
    o.elem c floatTys
  | .fwelf _ d a x => [(.dst, vrun c d 3), (.sa, vrun c a 3), (.sb, x.ok c (.any false))]
  | .fwmerge _ d a b => [(.dst, vrun c d 3), (.sa, vrun c a 3), (.sb, b.ok c { v := true, m := true, run := 3 })]
  | .fredw _ o => [(.dst, o.d.ok c o.h false), (.sa, o.a.ok c { v := true, l := true }), (.mod, o.t == .f32)]
  | .cvt o =>
    [(.dst, o.d.ok c o.h false), (.sa, o.a.ok c ((Opd.vsli false).uni o.d.s)), (.sa, o.a.inlineOk o.st),
     (.sc, [Ty.f32, .f16, .bf16, .e4m3, .e5m2, .e2m1, .e8m0].contains o.st),
     (.mod, [Ty.f32, .f16, .bf16, .e4m3, .e5m2, .e2m1, .e8m0].contains o.t && o.t != o.st),
     (.mod, o.t != .e8m0 || o.rm == .dyn)]
  | .cvtfi o =>
    [(.dst, o.d.ok c o.h o.t.is64), (.sa, o.a.ok c ((Opd.any false).uni o.d.s)), (.sa, o.a.inlineOk o.st),
     (.sc, [Ty.f32, .f16, .bf16, .e4m3, .e5m2, .e2m1].contains o.st), (.mod, intTys.contains o.t), (.imm, o.a.immOk o.st)]
  | .cvtif o =>
    [(.dst, o.d.ok c o.h false), (.sa, o.a.ok c ((Opd.any o.st.is64).uni o.d.s)),
     (.sc, (intTys ++ rowTys).contains o.st), (.mod, [Ty.f32, .f16, .bf16, .e4m3, .e5m2, .e2m1].contains o.t),
     (.imm, o.a.immOk o.st)]
  | .qpack _ _ _ t g d a =>
    [(.dst, vrun c d 16), (.sa, vrun c a 24), (.mod, framedTys.contains t), (.ext, decide (g.toNat < t.groups))]
  | .qpackRows _ _ t d a e =>
    [(.dst, vrun c d (if t.bits == 8 then 6 else 3)), (.sa, vrun c a 24), (.sb, e.ok c (.vsli false)), (.mod, rowTys.contains t)]
  | .qunpack _ t g d a =>
    [(.dst, vrun c d 24), (.sa, vrun c a 16), (.mod, framedTys.contains t), (.ext, decide (g.toNat < t.groups))]
  | .qunpackRows _ t d a e r =>
    [(.dst, vrun c d 24), (.sa, vrun c a (if t.bits == 8 then 6 else 3)), (.sb, e.ok c (.vsli false)),
     (.sc, r.ok c (.vsli false)), (.mod, rowTys.contains t)]
  | .qscale o => o.checks c false (.any false) framedTys
  | .qrow o => o.checks c false (.vsli false) (.any false) (.vsli false) rowTys
  | .qamax h t d a n =>
    [(.dst, if h.nwb then d == 0 else vrun c d 1),
     (.sa, vrun c a (if t == .f32 then n.toNat else (n.toNat + 1) / 2)),
     (.sb, decide (1 ≤ n.toNat) && decide (n.toNat ≤ 48)), (.mod, floatTys.contains t)]
  | .qhdr _ d o =>
    (.dst, vrun c d 16) :: (match o with
      | .hdr t a => [(.sa, a.ok c (.any false)), (.mod, framedTys.contains t)]
      | .zero _ => [])
  | .qesc _ t d a b =>
    [(.dst, vrun c d 16), (.sa, a.ok c (.vsli false)), (.sb, b.ok c (.any false)),
     (.mod, [Ty.e2m1, .e4m3, .e5m2, .i8, .i4].contains t)]
  | .ld m => m.checks c true false (.vsl true) .vli (m.m.ordOk true true true true)
  | .st m => m.checks c false false (.vsl true) .vli (m.m.ordOk true true false false)
  | .ldu m => m.checks c false true .so { i := true } (m.m.ordOk true true true true)
  | .ldl m => m.checks c true false (.vsli false) .vli (m.m.ordOk false true false false)
  | .stl m => m.checks c false false (.vsli false) .vli (m.m.ordOk false true false false)
  | .ldk m => m.checks c true false (.vsli false) .vli (m.m.ordOk false false false false)
  | .gather m => m.checks c false
  | .scatter m => m.checks c true
  | .pref _ m => m.checks c
  | .cflush _ m => m.checks c
  | .aliasfl m => m.checks c ++ [(.opc, m.off.isNone)]
  | .fence _ s _ => [(.mod, s != .strand)]
  | .fencex _ s _ pa pb => [(.mod, s != .strand && pa != pb)]
  | .tdecl _ _ _ _ rows rb _ => [(.ext, rows != 0 && rb != 0)]
  | .tbind h d _ planar rows width =>
    [(.dst, d.s && d.ok c h false),
     (.ext, rows != 0 &&
      (if planar then decide (24 ≤ width.toNat) && decide (width.toNat ≤ 1536) && width.toNat % 24 == 0 &&
          decide (rows.toNat * (width.toNat / 24) * 80 ≤ 1048576)
       else decide (32 ≤ width.toNat) && decide (width.toNat ≤ 32768) && width.toNat % 32 == 0 &&
          decide (rows.toNat * width.toNat ≤ 1048576)))]
  | .tstat h d _ => [(.dst, d.ok c h true)]
  | .tcopy _ _ _ b cw => [(.sc, cw.ben || b == 0), (.ext, cw.kindOk true)]
  | .tstore _ _ _ b cw => [(.sc, cw.ben || b == 0), (.ext, cw.kindOk false && !cw.plane && !cw.fill)]
  | .tplane _ t ts b cw =>
    [(.sb, t != ts), (.sc, cw.ben || b == 0), (.ext, cw.kindOk false && !cw.blk && !cw.fill)]
  | .cseal h d => [(.dst, optOk (fun d => d.s && d.ok c h false) d)]
  | .cwait _ a => [(.sa, a.ok c { i := true } && a.immIn 0 15)]
  | .cwaitTo _ a => [(.sa, a.ok c .so)]
  | .binit _ _ g part => [(.sb, g.ok c .si), (.ext, part != 0)]
  | .bexpect _ _ n _ _ => [(.sb, n.ok c .si)]
  | .barrive h d _ => [(.dst, optOk (fun d => d.ok c h false) d)]
  | .bwait _ _ g => [(.sb, g.ok c .si)]
  | .mzero _ acc mb nb _ => [(.ext, accRect acc mb nb)]
  | .mldc _ acc _ mb nb _ _ _ => [(.ext, accRect acc mb nb)]
  | .mma o => (.ext, !(c.tx && o.p.fix)) :: o.checks
  | .mmap o =>
    [(.opc, c.pair), (.dst, o.acc == 0), (.sa, !c.odd || o.ta == 0), (.ext, o.p.mb1 == 0 && o.p.nb1 == 0), (.ext, !(c.tx && o.p.fix))] ++ o.checks
  | .mdrain o => o.checks
  | .mbaton _ a => [(.sa, a.ok c .si && a.immIn 0 31)]
  | .mstat h d => [(.dst, d.ok c h true)]
  | .txbegin h _ d => [(.dst, optOk (fun d => d.ok c h false) d)]
  | .txstat h q d => [(.dst, d.ok c h true), (.mod, q != 3)]
  | .txpredRd h d _ idx _ => [(.dst, !h.nwb || d == 0), (.sb, idx.ok c .si)]
  | .txpredWr _ _ _ idx _ => [(.sb, idx.ok c .si)]
  | .txgate _ _ e => [(.sb, e.ok c .si)]
  | .atom op o => o.checks c ++ [(.sc, op.ok o.t false)]
  | .acas o => o.checks c ++ [(.mod, o.t == .z32 || o.t == .z64)]
  | .red op o =>
    [(.dst, o.d == ⟨false, 0⟩), (.sa, o.a.ok c (.vsl true)), (.sb, o.b.ok c (.vsli o.t.is64)), (.sc, op.ok o.t true),
     (.mod, o.kindOk && (o.kind == .relaxed || o.kind == .rel) && !o.remote)]
  | .bar _ id => [(.sa, id.ok c .si && id.immIn 0 15)]
  | .bars _ _ id n => [(.sa, id.ok c .si && id.immIn 0 15), (.sb, n.ok c .si && n.immIn 1 32)]
  | .qpush _ _ _ a => a.checks c
  | .qpop h _ _ _ d =>
    [(.dst, match d with
      | .s n => !h.nwb || n == 0
      | .tile _ => true)]
  | .qtry h _ _ d o =>
    (.dst, !h.nwb || d == 0) :: (match o with
      | .push a => a.checks c
      | .pop _ _ => [])
  | .qgrant _ _ _ n => [(.sb, n.ok c .si && n.immIn 1 63)]
  | .dqpush h s d _ _ | .dqpop h s d _ | .dqsteal h s d _ => [(.dst, !h.nwb || d == 0), (.mod, s != .strand)]
  | .reggive _ n | .regclaim _ n =>
    [(.sa, n.ok c .si && n.immIn 4 252 && (match n with | .imm k => k.toNat % 4 == 0 | _ => true))]
  | .gqrel _ _ idx => [(.sb, idx.ok c .si && idx.immIn 0 63)]
  | .launch _ _ q same => [(.ext, !same || q == 0)]
  | .joinc h d => [(.dst, d.ok c h false)]
  | .qry h d o =>
    (.dst, d.ok c h true) :: (match o with
      | .split idx => [(.sa, idx.ok c .si)]
      | _ => [])
  | .taskqRd h d q => [(.dst, d.ok c h true), (.sa, q.ok c .si && q.immIn 0 63)]
  | .taskqWr _ q t => [(.sa, q.ok c .si && q.immIn 0 63), (.sb, t.ok c .si)]
  | .sgreward h d _ idx rew => [(.dst, d.ok c h false), (.sb, idx.ok c .si), (.sc, rew.ok c .si)]
  | .sgwait h d _ => [(.dst, d.ok c h false)]
  | .sgcancel _ _ idx => [(.sb, idx.ok c .si)]
  | .sginfo h q d _ => [(.dst, d.ok c h true), (.mod, decide (q.toNat ≤ 4))]
  | .dld h d a x =>
    [(.dst, d.ok c h false), (.sa, a.ok c ((Opd.vsl true).uni d.s)), (.sc, x.ok c (Opd.vli.uni d.s))]
  | .dset _ _ a x k | .dadd _ _ a x k =>
    [(.sa, a.ok c (.vsl true)), (.sb, x.ok c (.vsli false)), (.sc, k.ok c .vli)]
  | .dmerge h d a b =>
    [(.dst, d.ok c h true), (.sa, a.ok c ((Opd.vsl true).uni d.s)), (.sb, b.ok c ((Opd.vsl true).uni d.s))]
  | .stepadv h d _ => [(.dst, d.ok c h true)]
  | .rng h d a b | .rngf h d a b =>
    [(.dst, d.ok c h false), (.sa, a.ok c ((Opd.vsli false).uni d.s)), (.sb, b.ok c ((Opd.vsli true).uni d.s))]
  | .rngmask h d a b x =>
    [(.dst, d.ok c h false), (.sa, a.ok c ((Opd.vsli false).uni d.s)), (.sb, b.ok c ((Opd.vsli true).uni d.s)),
     (.sc, x.ok c ((Opd.vsli false).uni d.s))]
  | .rngmaskSt h d a b x =>
    [(.dst, d.ok c h true), (.sa, a.ok c (.vsli false)), (.sb, b.ok c (.vsli true)), (.sc, x.ok c (.vsli false))]
  | .trap _ x | .brk _ x | .halt _ x => [(.sa, x.ok c .si)]
  | .tret _ x _ => [(.sa, x.ok c .si)]
  | .csrr h d n => [(.dst, d.ok c h false), (.dst, !(d.s && n == 0)), (.imm, csrAssigned n)]
  | .csrw _ x n => [(.sa, x.ok c .si), (.imm, csrWritable n)]
  | .csrx h _ d x n => [(.dst, d.ok c h false), (.sa, x.ok c .si), (.imm, csrWritable n)]
  | .tlbinv _ o =>
    (match o with
      | .va _ a | .asid a => [(.sb, optOk (fun x => x.ok c .si) a)]
      | .all => [])
  | .xput _ _ _ _ _ ben b | .xget _ _ _ _ _ ben b => [(.ext, ben || b == 0)]
  | .xsig _ x _ _ _ => [(.sa, x.ok c .si)]
  | .xwait _ _ x => [(.sb, x.ok c .si)]
  | _ => []

/-- Does the instruction produce a latch value, so that NWB is allowed (R38 and the class chapters)? -/
def Instr.latches : Instr → Bool
  | .call _ _ _ | .sfork _ _ _ _ | .paths _ _ _ => true
  | .vote _ (.ballot _ _ _) => true
  | .iadd _ _ | .isub _ _ | .imul _ | .imad _ | .imulh _ | .imin _ | .imax _ | .iabs _ _ | .and _ | .or _ | .xor _
  | .not _ | .shl _ | .shr _ | .sar _ | .rot _ | .popc _ | .clz _ | .ctz _ | .brev _ | .bfx _ | .bfi _ | .sel _ _ _
  | .mov _ | .lea _ _ | .iext _ | .shfl _ _ | .prmt _ => true
  | .movi _ _ _ _ hi => !hi
  | .fadd _ _ | .fsub _ _ | .fmul _ _ | .ffma _ _ | .fdot2 _ _ | .fmin _ | .fmax _ | .fclass _ | .frnd _ _ | .frcp _ _
  | .frsq _ _ | .fsqrt _ _ | .fexp2 _ _ | .flog2 _ _ | .fsin _ | .fcos _ | .fredw _ _ => true
  | .cvt _ | .cvtfi _ | .cvtif _ | .qscale _ | .qrow _ | .qamax _ _ _ _ _ => true
  | .ld m | .ldu m | .ldl m | .ldk m =>
    match m.m with
    | .acc _ _ => true
    | .wide _ _ => false
  | .tbind _ _ _ _ _ _ | .tstat _ _ _ => true
  | .cseal _ d => d.isSome
  | .barrive _ d _ => d.isSome
  | .mstat _ _ => true
  | .txbegin _ _ d => d.isSome
  | .txstat _ _ _ | .txpredRd _ _ _ _ _ => true
  | .atom _ _ => true
  | .qpop _ _ _ _ (.s _) => true
  | .qtry _ _ _ _ _ => true
  | .dqpush _ _ _ _ _ | .dqpop _ _ _ _ | .dqsteal _ _ _ _ => true
  | .joinc _ _ | .qry _ _ _ | .taskqRd _ _ _ => true
  | .sgreward _ _ _ _ _ | .sgwait _ _ _ | .sginfo _ _ _ _ | .dld _ _ _ _ | .dmerge _ _ _ _ | .stepadv _ _ _
  | .rng _ _ _ _ | .rngf _ _ _ _ | .rngmask _ _ _ _ _ => true
  | .csrr _ _ _ | .csrx _ _ _ _ _ => true
  | _ => false

end Sys2Proof
end

