-- ==== Sys2Proof/Decode.lean ====
section
/-! DEFINITION. Decode.lean: instruction words (02_encoding R27 to R43 and the encoding tables of the class chapters):
the fields of a word, the fields of an instruction (the encoder), the instruction of a word's fields, and decoding
with the checks of R40 in their order. A word is decoded by reading an instruction from its fields as far as they allow,
and requiring that the instruction's own fields are the word's: so a field an instruction does not use is zero (R28), and
the first field in R40's order that differs or fails a check is the one the trap names (R41). -/

namespace Sys2Proof

/-! ## Fields of a word -/

/-- The fields of R27; IMM32 and EXT64 are zero in the formats without them. -/
structure Fields where
  len : BitVec 2 := 0
  opc : BitVec 9 := 0
  grd : BitVec 4 := 0
  nwb : Bool := false
  dst : BitVec 9 := 0
  sa  : BitVec 9 := 0
  sb  : BitVec 9 := 0
  sc  : BitVec 9 := 0
  mod : BitVec 9 := 0
  cb  : Bool := false
  ca  : Bool := false
  cd  : Bool := false
  imm : BitVec 32 := 0
  ext : BitVec 64 := 0
  deriving DecidableEq, Repr

/-- `n` bits of a number from bit `lo` up. -/
def bitsAt (w lo n : Nat) : BitVec n := BitVec.ofNat n (w >>> lo)

/-- The fields of a 128-bit pattern (R27). Bits above the word's length are not looked at. -/
def Fields.ofNat (w : Nat) : Fields :=
  let len : BitVec 2 := bitsAt w 0 2
  { len := len, opc := bitsAt w 2 9, grd := bitsAt w 11 4, nwb := w.testBit 15, dst := bitsAt w 16 9, sa := bitsAt w 25 9,
    sb := bitsAt w 34 9, sc := bitsAt w 43 9, mod := bitsAt w 52 9, cb := w.testBit 61, ca := w.testBit 62,
    cd := w.testBit 63, imm := if len = 1 then bitsAt w 64 32 else 0, ext := if len = 2 then bitsAt w 64 64 else 0 }

/-- The number whose bits are the word's (R27). -/
def Fields.toNat (f : Fields) : Nat :=
  f.len.toNat + f.opc.toNat * 2 ^ 2 + f.grd.toNat * 2 ^ 11 + f.nwb.toNat * 2 ^ 15 + f.dst.toNat * 2 ^ 16 +
  f.sa.toNat * 2 ^ 25 + f.sb.toNat * 2 ^ 34 + f.sc.toNat * 2 ^ 43 + f.mod.toNat * 2 ^ 52 + f.cb.toNat * 2 ^ 61 +
  f.ca.toNat * 2 ^ 62 + f.cd.toNat * 2 ^ 63 + f.imm.toNat * 2 ^ 64 + f.ext.toNat * 2 ^ 64

/-- Length in bytes of a word by its LEN field (R27); LEN 11 has none. -/
def lenBytes (len : BitVec 2) : Nat := if len = 0 then 8 else if len = 1 then 12 else 16

/-! ## Codes of the operand kinds -/

/-- Type codes, R43. -/
def Ty.code : Ty → Nat
  | .s8 => 0 | .s16 => 1 | .s32 => 2 | .s64 => 3 | .z8 => 4 | .z16 => 5 | .z32 => 6 | .z64 => 7 | .f32 => 8 | .f16 => 9
  | .bf16 => 10 | .e4m3 => 11 | .e5m2 => 12 | .e2m1 => 13 | .e8m0 => 14 | .i8 => 15 | .i4 => 16 | .q8 => 17 | .q4 => 18

/-- The type of a code (R43); a code that is no type reads as .s8, whose code differs from it. -/
def Ty.ofCode : Nat → Ty
  | 0 => .s8 | 1 => .s16 | 2 => .s32 | 3 => .s64 | 4 => .z8 | 5 => .z16 | 6 => .z32 | 7 => .z64 | 8 => .f32 | 9 => .f16
  | 10 => .bf16 | 11 => .e4m3 | 12 => .e5m2 | 13 => .e2m1 | 14 => .e8m0 | 15 => .i8 | 16 => .i4 | 17 => .q8 | 18 => .q4
  | _ => .s8

/-- Field of a source operand (R30). -/
def Src.fld : Src → BitVec 9
  | .v n => n.zeroExtend 9
  | .s n => n.zeroExtend 9
  | .latch i => 0x100#9 + i.zeroExtend 9
  | .imm k => 0x180#9 + k.zeroExtend 9
  | .imm32 _ => 0

/-- Class bit of a source operand (R30). -/
def Src.cls : Src → Bool
  | .s _ => true
  | _ => false

/-- IMM32 of a source operand, zero when it is not one. -/
def Src.immBits : Src → BitVec 32
  | .imm32 x => x
  | _ => 0

/-- LEN of an arithmetic form by the source that IMM32 may replace (R28). -/
def Src.len : Src → BitVec 2
  | .imm32 _ => 1
  | _ => 0

/-- The source a field and its class bit give (R30): a pattern that is none reads as a source with another field. -/
def Src.ofField (f : BitVec 9) (cls : Bool) : Src :=
  if f.getLsbD 8 then (if f.getLsbD 7 then .imm (f.truncate 7) else .latch (f.truncate 2))
  else if cls then .s (f.truncate 8) else .v (f.truncate 8)

/-- Field of a destination. -/
def Dst.fld (d : Dst) : BitVec 9 := d.n.zeroExtend 9

/-- The destination of a field and its class bit. -/
def Dst.ofField (f : BitVec 9) (cls : Bool) : Dst := ⟨cls, f.truncate 8⟩

/-- Guard field (R27): predicate number, bit 3 for the negated forms. -/
def Guard.fld (g : Guard) : BitVec 4 := g.p.zeroExtend 4 + (if g.neg then 8 else 0)

/-- The guard of a field. -/
def Guard.ofField (f : BitVec 4) : Guard := ⟨f.truncate 3, f.getLsbD 3⟩

/-- Rounding codes in MOD<60:58> (R101). -/
def Rm.code : Rm → Nat
  | .dyn => 0 | .rn => 4 | .rz => 5 | .ru => 6 | .rd => 7

/-- The rounding field of a code. -/
def Rm.ofCode : Nat → Rm
  | 4 => .rn | 5 => .rz | 6 => .ru | 7 => .rd | _ => .dyn

/-- Codes of ICMP (R90). -/
def Icc.code : Icc → Nat
  | .eq => 0 | .ne => 1 | .lt => 2 | .le => 3 | .gt => 4 | .ge => 5
/-- The condition of a code. -/
def Icc.ofCode : Nat → Icc
  | 1 => .ne | 2 => .lt | 3 => .le | 4 => .gt | 5 => .ge | _ => .eq
/-- Codes of FCMP (R103). -/
def Fcc.code : Fcc → Nat
  | .eq => 0 | .ne => 1 | .lt => 2 | .le => 3 | .gt => 4 | .ge => 5 | .un => 6 | .ord => 7
/-- The condition of a code. -/
def Fcc.ofCode : Nat → Fcc
  | 1 => .ne | 2 => .lt | 3 => .le | 4 => .gt | 5 => .ge | 6 => .un | 7 => .ord | _ => .eq
/-- Codes of SHFL (R90). -/
def ShflMode.code : ShflMode → Nat
  | .idx => 0 | .up => 1 | .down => 2 | .xor => 3
/-- The mode of a code. -/
def ShflMode.ofCode : Nat → ShflMode
  | 1 => .up | 2 => .down | 3 => .xor | _ => .idx
/-- Codes of FREDW (R103). -/
def RedwOp.code : RedwOp → Nat
  | .add => 0 | .min => 1 | .max => 2
/-- The operation of a code. -/
def RedwOp.ofCode : Nat → RedwOp
  | 1 => .min | 2 => .max | _ => .add
/-- ACC codes (R163). -/
def Acc.code : Acc → Nat
  | .s8 => 0 | .z8 => 1 | .s16 => 2 | .z16 => 3 | .s32 => 4 | .z32 => 5 | .z64 => 6
/-- The access type of a code. -/
def Acc.ofCode : Nat → Acc
  | 1 => .z8 | 2 => .s16 | 3 => .z16 | 4 => .s32 | 5 => .z32 | 6 => .z64 | _ => .s8
/-- The scope of a code (R43). -/
def Scope.ofCode : Nat → Scope
  | 1 => .wave | 2 => .wg | 3 => .cl | 4 => .die | 5 => .dev | 6 => .sys | _ => .strand
/-- ORD codes (R163). -/
def Ord.code : Ord → Nat
  | .plain => 0 | .fresh => 1 | .remote => 2 | .sync s => 8 + s.num
/-- The ordering kind of a code. -/
def Ord.ofCode (n : Nat) : Ord :=
  if n = 1 then .fresh else if n = 2 then .remote else if 8 ≤ n then .sync (Scope.ofCode (n - 8)) else .plain
/-- Codes of wide accesses (R163). -/
def Wide.code : Wide → Nat
  | .w16 => 0 | .w32 => 1 | .w64 => 2
/-- The width of a code. -/
def Wide.ofCode : Nat → Wide
  | 1 => .w32 | 2 => .w64 | _ => .w16
/-- MOD<60:57> and MOD<54:52> of a memory access (R163). -/
def MemTy.code : MemTy → Nat
  | .acc a o => a.code + 32 * o.code
  | .wide w f => 7 + 32 * (4 * w.code + f.toNat)
/-- The access of a MOD value (R163). -/
def MemTy.ofMod (m : Nat) : MemTy :=
  if m % 8 = 7 then .wide (Wide.ofCode (m / 128 % 4)) (m / 32 % 2 == 1) else .acc (Acc.ofCode (m % 8)) (Ord.ofCode (m / 32 % 16))
/-- Codes of CFLUSH (R173). -/
def FlushOp.code : FlushOp → Nat
  | .l1 => 0 | .i => 1 | .wb => 2 | .inv => 3
/-- The operation of a code. -/
def FlushOp.ofCode : Nat → FlushOp
  | 1 => .i | 2 => .wb | 3 => .inv | _ => .l1
/-- Codes of the fence kinds (R191). -/
def FenceKind.code : FenceKind → Nat
  | .acq => 1 | .rel => 2 | .ar => 3
/-- The kind of a code. -/
def FenceKind.ofCode : Nat → FenceKind
  | 2 => .rel | 3 => .ar | _ => .acq
/-- Codes of the access paths (R191). -/
def AccessPath.code : AccessPath → Nat
  | .ls => 0 | .cp => 1 | .mx => 2 | .xo => 3
/-- The path of a code. -/
def AccessPath.ofCode : Nat → AccessPath
  | 1 => .cp | 2 => .mx | 3 => .xo | _ => .ls
/-- Codes of the region modes (R219, R50). -/
def RegionMode.code : RegionMode → Nat
  | .read => 0 | .write => 1 | .rw => 2
/-- The mode of a code. -/
def RegionMode.ofCode : Nat → RegionMode
  | 1 => .write | 2 => .rw | _ => .read
/-- Codes of SRC (R203). -/
def CopySrc.code : CopySrc → Nat
  | .elems => 0 | .framed => 1 | .stream => 2
/-- The source of a code. -/
def CopySrc.ofCode : Nat → CopySrc
  | 1 => .framed | 2 => .stream | _ => .elems
/-- The copy control word (R203). -/
def CopyWord.code (w : CopyWord) : Nat :=
  w.blk.toNat + w.ben.toNat * 2 + w.wen.toNat * 4 + w.wtok.toNat * 8 + w.sen.toNat * 64 + w.stok.toNat * 128 +
  w.plane.toNat * 1024 + w.kc.toNat * 2048 + w.fill.toNat * 4096 + w.ety.code * 8192 + w.src.code * 262144
/-- The copy control word of its bits (R203). -/
def CopyWord.ofNat (e : Nat) : CopyWord :=
  { blk := e.testBit 0, ben := e.testBit 1, wen := e.testBit 2, wtok := bitsAt e 3 3, sen := e.testBit 6,
    stok := bitsAt e 7 3, plane := e.testBit 10, kc := e.testBit 11, fill := e.testBit 12,
    ety := Ty.ofCode (e / 8192 % 32), src := CopySrc.ofCode (e / 262144 % 4) }
/-- EXT64<63:48> of the matrix class (R246). -/
def Chain.code (c : Chain) : Nat :=
  (c.pri.toNat + c.wen.toNat * 4 + c.wtok.toNat * 8 + c.sen.toNat * 64 + c.stok.toNat * 128) * 2 ^ 48
/-- The common field block of EXT64. -/
def Chain.ofNat (e : Nat) : Chain :=
  { pri := bitsAt e 48 2, wen := e.testBit 50, wtok := bitsAt e 51 3, sen := e.testBit 54, stok := bitsAt e 55 3 }
/-- ATY and BTY codes (R235). -/
def AsymTy.code : AsymTy → Nat
  | .q8 => 0 | .i8 => 1 | .q4 => 2 | .i4 => 3
/-- The code type of a code. -/
def AsymTy.ofCode : Nat → AsymTy
  | 1 => .i8 | 2 => .q4 | 3 => .i4 | _ => .q8
/-- SFMT codes (R247). -/
def LdFmt.code : LdFmt → Nat
  | .f32 => 0 | .f16 => 1 | .bf16 => 2
/-- The format of a code. -/
def LdFmt.ofCode : Nat → LdFmt
  | 1 => .f16 | 2 => .bf16 | _ => .f32
/-- The pass layout (R247). -/
def PassW.code (p : PassW) : Nat :=
  p.aob.toNat + p.bob.toNat * 2 ^ 6 + p.kg.toNat * 2 ^ 12 + p.nk1.toNat * 2 ^ 18 + p.mb1.toNat * 2 ^ 22 +
  p.nb1.toNat * 2 ^ 23 + p.fix.toNat * 2 ^ 25 + p.xrung.toNat * 2 ^ 26 + p.opk.toNat * 2 ^ 28 + p.psel.toNat * 2 ^ 30 +
  p.atb.toNat * 2 ^ 31 + p.btb.toNat * 2 ^ 39
/-- The pass layout of EXT64 and MOD (R246, R247). -/
def PassW.ofNat (e m : Nat) : PassW :=
  { aob := bitsAt e 0 6, bob := bitsAt e 6 6, kg := bitsAt e 12 6, nk1 := bitsAt e 18 4, mb1 := bitsAt e 22 1,
    nb1 := bitsAt e 23 2, fix := e.testBit 25, xrung := bitsAt e 26 2, opk := bitsAt e 28 2, psel := e.testBit 30,
    atb := bitsAt e 31 8, btb := bitsAt e 39 8, aty := AsymTy.ofCode (m % 4), bty := AsymTy.ofCode (m / 4 % 4) }
/-- TYPE codes of the atomics (R295). -/
def AtomTy.code : AtomTy → Nat
  | .s32 => 0 | .z32 => 1 | .s64 => 2 | .z64 => 3 | .f32 => 4
/-- The type of a code. -/
def AtomTy.ofCode : Nat → AtomTy
  | 1 => .z32 | 2 => .s64 | 3 => .z64 | 4 => .f32 | _ => .s32
/-- OP codes (R295). -/
def AtomOp.code : AtomOp → Nat
  | .add => 0 | .min => 1 | .max => 2 | .and => 3 | .or => 4 | .xor => 5 | .exch => 6 | .inc => 7 | .dec => 8
/-- The operation of a code. -/
def AtomOp.ofCode : Nat → AtomOp
  | 1 => .min | 2 => .max | 3 => .and | 4 => .or | 5 => .xor | 6 => .exch | 7 => .inc | 8 => .dec | _ => .add
/-- KIND codes (R295). -/
def AtomKind.code : AtomKind → Nat
  | .relaxed => 0 | .acq => 1 | .rel => 2 | .ar => 3
/-- The kind of a code. -/
def AtomKind.ofCode : Nat → AtomKind
  | 1 => .acq | 2 => .rel | 3 => .ar | _ => .relaxed
/-- CSRX codes (R398). -/
def CsrxOp.code : CsrxOp → Nat
  | .swap => 0 | .set => 1 | .clr => 2
/-- The operation of a code. -/
def CsrxOp.ofCode : Nat → CsrxOp
  | 1 => .set | 2 => .clr | _ => .swap
/-- SEL codes of QRY (R346). -/
def QrySel.code : QrySel → Nat
  | .split _ => 0 | .depth => 1 | .lin => 2 | .nwg => 3 | .kids => 4 | .tasks => 5 | .round => 6
/-- The selector of a code, with SA for the split table; a code above 6 reads as one without SA, and then fails on MOD
(R346). -/
def QrySel.ofCode (n : Nat) (a : Src) : QrySel :=
  if n = 0 then .split a else if n = 1 then .depth else if n = 2 then .lin else if n = 3 then .nwg else if n = 4 then .kids
  else if n = 5 then .tasks else .round

/-! ## The encoder -/

/-- Fields every instruction has: opcode, guard, NWB (R27). -/
def Hd.fields (h : Hd) (opc : BitVec 9) : Fields := { opc := opc, grd := h.g.fld, nwb := h.nwb }

/-- A register number of a small kind in an operand field. -/
def reg {n : Nat} (r : BitVec n) : BitVec 9 := r.zeroExtend 9

/-- MOD of the arithmetic classes: the type in <56:52> and `hi` in <60:57> (R86, R131). -/
def modTy (t : Ty) (hi : Nat) : BitVec 9 := BitVec.ofNat 9 (t.code + 32 * hi)

/-- Fields of a one-source form; SA may be IMM32. -/
def Un.fields (o : Un) (opc : BitVec 9) (hi : Nat) : Fields :=
  { o.h.fields opc with
    len := o.a.len, dst := o.d.fld, cd := o.d.s, sa := o.a.fld, ca := o.a.cls, mod := modTy o.t hi, imm := o.a.immBits }

/-- Fields of a two-source form; SB may be IMM32. -/
def Bin.fields (o : Bin) (opc : BitVec 9) (hi : Nat) : Fields :=
  { o.h.fields opc with
    len := o.b.len, dst := o.d.fld, cd := o.d.s, sa := o.a.fld, ca := o.a.cls, sb := o.b.fld, cb := o.b.cls,
    mod := modTy o.t hi, imm := o.b.immBits }

/-- Fields of a three-source form: SCC, MOD<57>, is the class of SC (R86). -/
def Tri.fields (o : Tri) (opc : BitVec 9) (hi : Nat) : Fields :=
  { o.h.fields opc with
    len := o.b.len, dst := o.d.fld, cd := o.d.s, sa := o.a.fld, ca := o.a.cls, sb := o.b.fld, cb := o.b.cls,
    sc := o.c.fld, mod := modTy o.t (hi + o.c.cls.toNat), imm := o.b.immBits }

/-- Fields of a comparison. -/
def Cmp.fields (o : Cmp) (opc : BitVec 9) (hi : Nat) : Fields :=
  { o.h.fields opc with
    len := o.b.len, dst := reg o.p, sa := o.a.fld, ca := o.a.cls, sb := o.b.fld, cb := o.b.cls, mod := modTy o.t hi,
    imm := o.b.immBits }

/-- Fields of CVT, CVTFI and CVTIF: the source type in SC<4:0>, SAT in MOD<57> (R131). -/
def Conv.fields (o : Conv) (opc : BitVec 9) : Fields :=
  { o.h.fields opc with
    len := o.a.len, dst := o.d.fld, cd := o.d.s, sa := o.a.fld, ca := o.a.cls, sc := BitVec.ofNat 9 o.st.code,
    mod := modTy o.t (o.sat.toNat + 2 * o.rm.code), imm := o.a.immBits }

/-- LEN and IMM32 of a form whose IMM32 is an address offset (R44). -/
def offLen : Option (BitVec 32) → BitVec 2
  | none => 0
  | some _ => 1
/-- IMM32 of an offset. -/
def offImm : Option (BitVec 32) → BitVec 32
  | none => 0
  | some x => x

/-- Fields of a memory instruction (R163, R164). -/
def Mem.fields (m : Mem) (opc : BitVec 9) : Fields :=
  { m.h.fields opc with
    len := offLen m.off, dst := m.d.fld, cd := m.d.s, sa := m.a.fld, ca := m.a.cls, sc := m.c.fld,
    mod := BitVec.ofNat 9 (m.m.code + 8 * m.scale.toNat), imm := offImm m.off }

/-- Fields of GATHER and SCATTER (R171). -/
def Gath.fields (m : Gath) (opc : BitVec 9) : Fields :=
  { m.h.fields opc with
    len := offLen m.off, dst := reg m.d, sa := m.a.fld, ca := m.a.cls, sc := reg m.c,
    mod := BitVec.ofNat 9 (m.acc.code + 8 * m.scale.toNat + 32 * m.n1.toNat + 256 * m.fresh.toNat), imm := offImm m.off }

/-- Fields of an address alone; `acc` is MOD<54:52>. -/
def Addr.fields (m : Addr) (opc : BitVec 9) (acc : Nat) : Fields :=
  { m.h.fields opc with
    len := offLen m.off, sa := m.a.fld, ca := m.a.cls, sc := m.c.fld, mod := BitVec.ofNat 9 (acc + 8 * m.scale.toNat),
    imm := offImm m.off }

/-- Fields of MMA and MMAP (R247). -/
def Mma.fields (o : Mma) (opc : BitVec 9) : Fields :=
  { o.h.fields opc with
    len := 2, dst := reg o.acc, sa := reg o.ta, sb := reg o.tb, sc := reg o.tc,
    mod := BitVec.ofNat 9 (o.p.aty.code + 4 * o.p.bty.code), ext := BitVec.ofNat 64 (o.p.code + o.ch.code) }

/-- The s register of an optional operand. -/
def optReg : Option (BitVec 6) → BitVec 9
  | none => 0
  | some r => reg r

/-- Fields of MDRAIN (R247). -/
def Drain.fields (o : Drain) : Fields :=
  { o.h.fields 0x0C4 with
    len := 2, dst := reg o.acc, sa := reg o.td, sb := optReg o.origin, cb := o.origin.isSome, sc := reg o.tq,
    ext := BitVec.ofNat 64 (o.mb1.toNat + o.nb1.toNat * 2 + o.ofmt.toNat * 8 + o.sat.toNat * 2 ^ 7 +
      o.origin.isSome.toNat * 2 ^ 8 + o.ten.toNat * 2 ^ 9 + o.tt.toNat * 2 ^ 10 + o.tfmt.toNat * 2 ^ 15 +
      o.aen.toNat * 2 ^ 19 + o.areg.toNat * 2 ^ 20 + o.ascope.toNat * 2 ^ 26 + o.tagb.toNat * 2 ^ 29 +
      o.clr.toNat * 2 ^ 37 + o.free.toNat * 2 ^ 38 + o.ch.code) }

/-- Fields of ATOM, ACAS and RED; `op` is SC<3:0> (R295). -/
def Atomic.fields (o : Atomic) (opc : BitVec 9) (op : Nat) : Fields :=
  { o.h.fields opc with
    len := offLen o.off, dst := o.d.fld, cd := o.d.s, sa := o.a.fld, ca := o.a.cls, sb := o.b.fld, cb := o.b.cls,
    sc := BitVec.ofNat 9 op,
    mod := BitVec.ofNat 9 (o.t.code + 8 * o.kind.code + 32 * o.scope.num + 256 * o.remote.toNat), imm := offImm o.off }

/-- Fields of VOTE (R83). -/
def VoteOp.fields (o : VoteOp) (f : Fields) : Fields :=
  match o with
  | .any d a neg => { f with dst := reg d, sa := reg a, mod := BitVec.ofNat 9 (0 + 4 * neg.toNat) }
  | .all d a neg => { f with dst := reg d, sa := reg a, mod := BitVec.ofNat 9 (1 + 4 * neg.toNat) }
  | .ballot d a neg => { f with dst := d.fld, cd := d.s, sa := reg a, mod := BitVec.ofNat 9 (2 + 4 * neg.toNat) }
  | .eq d a w => { f with dst := reg d, sa := a.fld, ca := a.cls, mod := BitVec.ofNat 9 (3 + 8 * w.toNat) }

/-- A result register in the fields. -/
def Fields.withDst (f : Fields) (d : Dst) : Fields := { f with dst := d.fld, cd := d.s }
/-- SA with its class. -/
def Fields.withA (f : Fields) (a : Src) : Fields := { f with sa := a.fld, ca := a.cls }
/-- SB with its class. -/
def Fields.withB (f : Fields) (b : Src) : Fields := { f with sb := b.fld, cb := b.cls }
/-- SA naming an s register (class bit 62). -/
def Fields.withSA (f : Fields) (r : BitVec 6) : Fields := { f with sa := reg r, ca := true }
/-- SB naming an s register (class bit 61). -/
def Fields.withSB (f : Fields) (r : BitVec 6) : Fields := { f with sb := reg r, cb := true }
/-- DST naming an s register (class bit 63). -/
def Fields.withSD (f : Fields) (r : BitVec 6) : Fields := { f with dst := reg r, cd := true }
/-- MOD<60:52> as a number. -/
def Fields.withMod (f : Fields) (m : Nat) : Fields := { f with mod := BitVec.ofNat 9 m }
/-- A B128 word with its EXT64. -/
def Fields.withExt (f : Fields) (e : Nat) : Fields := { f with len := 2, ext := BitVec.ofNat 64 e }
/-- A B96 word with its IMM32. -/
def Fields.withImm (f : Fields) (x : BitVec 32) : Fields := { f with len := 1, imm := x }

/-- The fields of an instruction's word, from the encoding tables; events have no word. -/
def Instr.toFields : Instr → Option Fields
  | .nop h => some (h.fields 0x000)
  | .bra h x => some ((h.fields 0x001).withImm x)
  | .brx h a => some ((h.fields 0x002).withA a)
  | .call h d x => some (((h.fields 0x003).withDst d).withImm x)
  | .ret h a => some ((h.fields 0x004).withA a)
  | .loop h d x => some (((h.fields 0x005).withDst d).withImm x)
  | .sfork h d a b => some ((((h.fields 0x006).withDst d).withA a).withB b)
  | .sexit h => some (h.fields 0x007)
  | .wexit h => some (h.fields 0x008)
  | .idem vm sm =>
    some
      { opc := 0x009, dst := vm.truncate 9, sa := (vm >>> 9).truncate 9 + ((sm.truncate 9) <<< 7),
        sb := (sm >>> 2).truncate 9, sc := (sm >>> 11).truncate 9 }
  | .yield h => some (h.fields 0x00A)
  | .vote h o => some (o.fields (h.fields 0x00B))
  | .paths h d live => some (((h.fields 0x00C).withDst d).withMod live.toNat)
  | .iadd sat o => some (o.fields 0x020 (2 * sat.toNat))
  | .isub sat o => some (o.fields 0x021 (2 * sat.toNat))
  | .imul o => some (o.fields 0x022 0)
  | .imad o => some (o.fields 0x023 0)
  | .imulh o => some (o.fields 0x024 0)
  | .imin o => some (o.fields 0x025 0)
  | .imax o => some (o.fields 0x026 0)
  | .iabs sat o => some (o.fields 0x027 (2 * sat.toNat))
  | .and o => some (o.fields 0x028 0)
  | .or o => some (o.fields 0x029 0)
  | .xor o => some (o.fields 0x02A 0)
  | .not o => some (o.fields 0x02B 0)
  | .shl o => some (o.fields 0x02C 0)
  | .shr o => some (o.fields 0x02D 0)
  | .sar o => some (o.fields 0x02E 0)
  | .rot o => some (o.fields 0x02F 0)
  | .popc o => some (o.fields 0x030 0)
  | .clz o => some (o.fields 0x031 0)
  | .ctz o => some (o.fields 0x032 0)
  | .brev o => some (o.fields 0x033 0)
  | .bfx o => some (o.fields 0x034 0)
  | .bfi o => some (o.fields 0x035 0)
  | .sel o pc neg => some { o.fields 0x036 (2 * neg.toNat) with sc := reg pc }
  | .icmp cc o => some (o.fields 0x037 (2 * cc.code))
  | .mov o => some (o.fields 0x038 0)
  | .movi h t d x hi => some ({ (h.fields 0x039).withDst d with mod := modTy t (2 * hi.toNat) }.withImm x)
  | .lea sh o => some (o.fields 0x03A (2 * sh.toNat))
  | .iext o => some (o.fields 0x03B 0)
  | .shfl m o => some (o.fields 0x03C (2 * m.code))
  | .prmt o => some (o.fields 0x03D 0)
  | .pcmb h lut d a b =>
    some { h.fields 0x03E with dst := reg d, sa := reg a, sb := reg b, mod := BitVec.ofNat 9 (32 * lut.toNat) }
  | .fadd rm o => some (o.fields 0x060 (2 * rm.code))
  | .fsub rm o => some (o.fields 0x061 (2 * rm.code))
  | .fmul rm o => some (o.fields 0x062 (2 * rm.code))
  | .ffma rm o => some (o.fields 0x063 (2 * rm.code))
  | .fmin o => some (o.fields 0x064 0)
  | .fmax o => some (o.fields 0x065 0)
  | .fcmp cc o => some (o.fields 0x066 cc.code)
  | .fclass o => some (o.fields 0x067 0)
  | .frnd rm o => some (o.fields 0x068 (2 * rm.code))
  | .frcp rm o => some (o.fields 0x069 (2 * rm.code))
  | .frsq rm o => some (o.fields 0x06A (2 * rm.code))
  | .fsqrt rm o => some (o.fields 0x06B (2 * rm.code))
  | .fexp2 rm o => some (o.fields 0x06C (2 * rm.code))
  | .flog2 rm o => some (o.fields 0x06D (2 * rm.code))
  | .fsin o => some (o.fields 0x06E 0)
  | .fcos o => some (o.fields 0x06F 0)
  | .fwelf h d a x => some { ({ h.fields 0x070 with dst := reg d, sa := reg a, mod := modTy .f32 0 }.withB x) with len := x.len, imm := x.immBits }
  | .fwmerge h d a x => some { ({ h.fields 0x071 with dst := reg d, sa := reg a, mod := modTy .f32 0 }.withB x) with len := x.len, imm := x.immBits }
  | .fredw op o => some (o.fields 0x072 (2 * op.code))
  | .fdot2 rm o => some (o.fields 0x073 (2 * rm.code))
  | .cvt o => some (o.fields 0x080)
  | .cvtfi o => some (o.fields 0x081)
  | .cvtif o => some (o.fields 0x082)
  | .qpack h rm sat t g d a =>
    some ({ h.fields 0x083 with dst := reg d, sa := reg a, mod := modTy t (sat.toNat + 2 * rm.code) }.withExt g.toNat)
  | .qpackRows h rm t d a e =>
    some (({ h.fields 0x083 with dst := reg d, sa := reg a, mod := modTy t (2 * rm.code) }.withB e).withExt 4)
  | .qunpack h t g d a => some ({ h.fields 0x084 with dst := reg d, sa := reg a, mod := modTy t 0 }.withExt g.toNat)
  | .qunpackRows h t d a e r =>
    some (({ h.fields 0x084 with dst := reg d, sa := reg a, sc := r.fld, mod := modTy t r.cls.toNat }.withB e).withExt 4)
  | .qscale o => some (o.fields 0x085 0)
  | .qrow o => some (o.fields 0x086 0)
  | .qamax h t d a n => some { h.fields 0x087 with dst := reg d, sa := reg a, sb := (Src.imm n).fld, mod := modTy t 0 }
  | .qhdr h d o =>
    some (match o with
      | .hdr t a => { ({ h.fields 0x088 with dst := reg d, mod := modTy t 0 }.withA a) with len := a.len, imm := a.immBits }
      | .zero b96 => { h.fields 0x088 with len := if b96 then 1 else 0, dst := reg d, mod := BitVec.ofNat 9 32 })
  | .qesc h t d a b =>
    some { ((({ h.fields 0x089 with dst := reg d, mod := modTy t 0 }.withA a).withB b)) with len := b.len, imm := b.immBits }
  | .ld m => some (m.fields 0x090)
  | .st m => some (m.fields 0x091)
  | .ldu m => some (m.fields 0x092)
  | .ldl m => some (m.fields 0x093)
  | .stl m => some (m.fields 0x094)
  | .gather m => some (m.fields 0x095)
  | .scatter m => some (m.fields 0x096)
  | .pref l1 m => some (m.fields 0x097 l1.toNat)
  | .cflush op m => some (m.fields 0x098 op.code)
  | .ldk m => some (m.fields 0x099)
  | .fence h s k => some ((h.fields 0x0A0).withMod (s.num + 8 * k.code))
  | .fencex h s k pa pb => some ((h.fields 0x0A1).withMod (s.num + 8 * k.code + 32 * pa.code + 128 * pb.code))
  | .aliasfl m => some (m.fields 0x0A2 0)
  | .tdecl h t base pitch rows rb mode =>
    some (({ h.fields 0x0A8 with sa := reg t, sc := reg pitch }.withSB base).withExt
      (rows.toNat + rb.toNat * 2 ^ 20 + mode.code * 2 ^ 40))
  | .tbind h d t planar rows width =>
    some ({ (h.fields 0x0A9).withDst d with sa := reg t }.withExt (planar.toNat + rows.toNat * 2 + width.toNat * 2 ^ 13))
  | .twait h t => some { h.fields 0x0AA with sa := reg t }
  | .tstat h d t => some { (h.fields 0x0AB).withDst d with sa := reg t }
  | .tcopy h t a b cw => some (({ h.fields 0x0AC with sa := reg t, sc := reg b }.withSB a).withExt cw.code)
  | .tstore h t a b cw => some (({ h.fields 0x0AD with sa := reg t, sc := reg b }.withSB a).withExt cw.code)
  | .tplane h t ts b cw => some ({ h.fields 0x0AE with sa := reg t, sb := reg ts, sc := reg b }.withExt cw.code)
  | .trel h t => some { h.fields 0x0AF with sa := reg t }
  | .cseal h d =>
    some (match d with
      | none => h.fields 0x0B0
      | some d => ((h.fields 0x0B0).withDst d).withMod 1)
  | .cwait h a => some ((h.fields 0x0B1).withA a)
  | .cwaitTo h a => some (((h.fields 0x0B1).withA a).withMod 1)
  | .binit h b g part => some (({ h.fields 0x0B2 with sa := reg b }.withB g).withExt part.toNat)
  | .bexpect h b n nb arr => some (({ h.fields 0x0B3 with sa := reg b }.withB n).withExt (nb.toNat + arr.toNat * 2 ^ 32))
  | .barrive h d b =>
    some (match d with
      | none => { h.fields 0x0B4 with sa := reg b }
      | some d => { ((h.fields 0x0B4).withDst d).withMod 1 with sa := reg b })
  | .bwait h b g => some ({ h.fields 0x0B5 with sa := reg b }.withB g)
  | .ksig h k => some { h.fields 0x0B6 with sa := reg k }
  | .kwait h k => some { h.fields 0x0B7 with sa := reg k }
  | .mzero h acc mb nb ch => some ({ h.fields 0x0C0 with dst := reg acc }.withExt (mb.toNat + 2 * nb.toNat + ch.code))
  | .mldc h acc ts mb nb fmt row0 ch =>
    some ({ h.fields 0x0C1 with dst := reg acc, sa := reg ts }.withExt
      (mb.toNat + 2 * nb.toNat + 8 * fmt.code + 32 * row0.toNat + ch.code))
  | .mma o => some (o.fields 0x0C2)
  | .mmap o => some (o.fields 0x0C3)
  | .mdrain o => some o.fields
  | .mbaton h a => some ((h.fields 0x0C5).withA a)
  | .mrel h => some (h.fields 0x0C6)
  | .mstat h d => some ((h.fields 0x0C7).withDst d)
  | .mnmsel h td ts of8 ch => some ({ h.fields 0x0C8 with sa := reg td, sb := reg ts }.withExt (of8.toNat + ch.code))
  | .txbegin h early d =>
    some (match d with
      | none => (h.fields 0x0D0).withMod early.toNat
      | some d => ((h.fields 0x0D0).withDst d).withMod (early.toNat + 2))
  | .txcommit h => some (h.fields 0x0D1)
  | .txabortUp h => some (h.fields 0x0D2)
  | .txabortDrop h => some ((h.fields 0x0D2).withMod 1)
  | .txstat h q d => some (((h.fields 0x0D3).withDst d).withMod q.toNat)
  | .txpredRd h d k i w => some { (((h.fields 0x0D4).withSD d).withSA k).withB i with sc := reg w }
  | .txpredWr h d k i w => some { ((((h.fields 0x0D4).withSD d).withSA k).withB i).withMod 1 with sc := reg w }
  | .txgate h a e => some (((h.fields 0x0D5).withSA a).withB e)
  | .atom op o => some (o.fields 0x0D8 op.code)
  | .acas o => some (o.fields 0x0D9 0)
  | .red op o => some (o.fields 0x0DA op.code)
  | .bar h i => some ((h.fields 0x0DB).withA i)
  | .bars h arr i n => some ((((h.fields 0x0DC).withA i).withB n).withMod arr.toNat)
  | .qpush h cl q a =>
    some (match a with
      | .word a => ({ h.fields 0x0DD with sa := reg q }.withB a).withMod (2 + cl.toNat)
      | .tile t => { h.fields 0x0DD with sa := reg q, sb := reg t }.withMod (2 + cl.toNat + 8))
  | .qpop h cl ag q d =>
    some (match d with
      | .s n => ({ h.fields 0x0DE with sa := reg q }.withSD n).withMod (2 + cl.toNat + 16 * ag.toNat)
      | .tile t => { h.fields 0x0DE with sa := reg q, dst := reg t }.withMod (2 + cl.toNat + 8 + 16 * ag.toNat))
  | .qtry h cl q d o =>
    some (match o with
      | .push (.word a) => (({ h.fields 0x0DF with sa := reg q }.withSD d).withB a).withMod (2 + cl.toNat + 32)
      | .push (.tile t) => ({ h.fields 0x0DF with sa := reg q, sb := reg t }.withSD d).withMod (2 + cl.toNat + 8 + 32)
      | .pop ag none => ({ h.fields 0x0DF with sa := reg q }.withSD d).withMod (2 + cl.toNat + 16 * ag.toNat)
      | .pop ag (some t) =>
        ({ h.fields 0x0DF with sa := reg q, sb := reg t }.withSD d).withMod (2 + cl.toNat + 8 + 16 * ag.toNat))
  | .qgrant h cl q n => some (({ h.fields 0x0E0 with sa := reg q }.withB n).withMod (2 + cl.toNat))
  | .qgrantCfg h cl q w => some (({ h.fields 0x0E0 with sa := reg q }.withSB w).withMod (2 + cl.toNat + 8))
  | .dqpush h s d hd e => some (((((h.fields 0x0E1).withSD d).withSA hd).withSB e).withMod s.num)
  | .dqpop h s d hd => some ((((h.fields 0x0E2).withSD d).withSA hd).withMod s.num)
  | .dqsteal h s d hd => some ((((h.fields 0x0E3).withSD d).withSA hd).withMod s.num)
  | .reggive h n => some ((h.fields 0x0E4).withA n)
  | .regclaim h n => some ((h.fields 0x0E5).withA n)
  | .gqrel h a i => some (((h.fields 0x0E6).withSA a).withB i)
  | .launch h a q same => some (((h.fields 0x0F0).withSA a).withExt (q.toNat + 64 * same.toNat))
  | .task h a => some (((h.fields 0x0F1).withSA a).withExt 0)
  | .taskc h a inv => some (((h.fields 0x0F2).withSA a).withExt inv.toNat)
  | .joinc h d => some ((h.fields 0x0F3).withDst d)
  | .qry h d o =>
    some (match o with
      | .split a => ((h.fields 0x0F4).withDst d).withA a
      | o => ((h.fields 0x0F4).withDst d).withMod o.code)
  | .detsync h => some (h.fields 0x0F5)
  | .taskqRd h d q => some (((h.fields 0x0F6).withDst d).withA q)
  | .taskqWr h q t => some ((((h.fields 0x0F6).withA q).withB t).withMod 1)
  | .sgfork h obj ker bud g rm ns =>
    some (({ h.fields 0x0F8 with sc := reg bud }.withSA obj).withSB ker |>.withExt
      (g.toNat + rm.toNat * 64 + ns.toNat * 2 ^ 38))
  | .sgreward h d obj i r => some { (((h.fields 0x0F9).withDst d).withSA obj).withB i with sc := r.fld }
  | .sgwait h d obj => some (((h.fields 0x0FA).withDst d).withSA obj)
  | .sgcancel h obj i => some (((h.fields 0x0FB).withSA obj).withB i)
  | .sgclose h obj => some ((h.fields 0x0FC).withSA obj)
  | .sginfo h q d obj => some ((((h.fields 0x0FD).withDst d).withSA obj).withMod q.toNat)
  | .dld h d a c => some { ((h.fields 0x0FE).withDst d).withA a with sc := c.fld }
  | .dset h q a x c => some { (((h.fields 0x0FF).withA a).withB x).withMod q.toNat with sc := c.fld }
  | .dadd h q a x c => some { (((h.fields 0x100).withA a).withB x).withMod q.toNat with sc := c.fld }
  | .dmerge h d a b => some ((((h.fields 0x101).withDst d).withA a).withB b)
  | .stepadv h d t => some (((h.fields 0x102).withDst d).withSA t)
  | .rng h d a b => some ((((h.fields 0x103).withDst d).withA a).withB b)
  | .rngf h d a b => some ((((h.fields 0x104).withDst d).withA a).withB b)
  | .rngmask h d a b c =>
    some { ((((h.fields 0x105).withDst d).withA a).withB b).withMod (32 * c.cls.toNat) with sc := c.fld }
  | .rngmaskSt h d a b c =>
    some { ((((h.fields 0x105).withDst d).withA a).withB b).withMod (1 + 32 * c.cls.toNat) with sc := c.fld }
  | .trap h a => some ((h.fields 0x110).withA a)
  | .tret h a dest =>
    some { (h.fields 0x111).withA a with sb := optReg dest, cb := dest.isSome, mod := BitVec.ofNat 9 dest.isSome.toNat }
  | .csrr h d n => some (((h.fields 0x112).withDst d).withImm (n.zeroExtend 32))
  | .csrw h x n => some (((h.fields 0x113).withA x).withImm (n.zeroExtend 32))
  | .csrx h op d x n => some ((((h.fields 0x114).withDst d).withA x).withMod op.code |>.withImm (n.zeroExtend 32))
  | .brk h a => some ((h.fields 0x115).withA a)
  | .tlbinv h o =>
    some (match o with
      | .va r none => ((h.fields 0x116).withSA r).withMod 4
      | .va r (some a) => ((h.fields 0x116).withSA r).withB a
      | .asid none => (h.fields 0x116).withMod 5
      | .asid (some a) => ((h.fields 0x116).withB a).withMod 1
      | .all => (h.fields 0x116).withMod 2)
  | .halt h a => some ((h.fields 0x117).withA a)
  | .xput h a b c ep ben br =>
    some (({ h.fields 0x120 with sc := reg c }.withSA a).withSB b |>.withExt (ep.toNat + ben.toNat * 2 ^ 12 + br.toNat * 2 ^ 13))
  | .xget h a b c ep ben br =>
    some (({ h.fields 0x121 with sc := reg c }.withSA a).withSB b |>.withExt (ep.toNat + ben.toNat * 2 ^ 12 + br.toNat * 2 ^ 13))
  | .xsig h x b ep set => some (((h.fields 0x122).withA x).withSB b |>.withExt (ep.toNat + set.toNat * 2 ^ 17))
  | .xwait h a x => some (((h.fields 0x123).withSA a).withB x |>.withExt 0)
  | _ => none

/-! ## Reading an instruction from its fields -/

/-- The head of a word. -/
def Fields.hd (f : Fields) : Hd := ⟨Guard.ofField f.grd, f.nwb⟩
/-- DST with its class bit. -/
def Fields.d (f : Fields) : Dst := Dst.ofField f.dst f.cd
/-- SA with its class bit. -/
def Fields.a (f : Fields) : Src := Src.ofField f.sa f.ca
/-- SB with its class bit. -/
def Fields.b (f : Fields) : Src := Src.ofField f.sb f.cb
/-- SC with the class the instruction's MOD bits give it. -/
def Fields.c (f : Fields) (cls : Bool) : Src := Src.ofField f.sc cls
/-- SA, or IMM32 in the B96 form. -/
def Fields.aOrImm (f : Fields) : Src := if f.len = 1 then .imm32 f.imm else f.a
/-- SB, or IMM32 in the B96 form (R28). -/
def Fields.bOrImm (f : Fields) : Src := if f.len = 1 then .imm32 f.imm else f.b
/-- IMM32 as an address offset. -/
def Fields.off (f : Fields) : Option (BitVec 32) := if f.len = 1 then some f.imm else none
/-- MOD as a number. -/
def Fields.m (f : Fields) : Nat := f.mod.toNat
/-- The element type in MOD<56:52>. -/
def Fields.ty (f : Fields) : Ty := Ty.ofCode (f.m % 32)
/-- MOD<60:57>. -/
def Fields.hi (f : Fields) : Nat := f.m / 32
/-- The rounding field in MOD<60:58>. -/
def Fields.rm (f : Fields) : Rm := Rm.ofCode (f.hi / 2)
/-- EXT64 as a number. -/
def Fields.e (f : Fields) : Nat := f.ext.toNat
/-- One-source operands. -/
def Fields.un (f : Fields) : Un := ⟨f.hd, f.ty, f.d, f.a⟩
/-- One-source operands where IMM32 may replace SA. -/
def Fields.unImm (f : Fields) : Un := ⟨f.hd, f.ty, f.d, f.aOrImm⟩
/-- Two-source operands. -/
def Fields.bin (f : Fields) : Bin := ⟨f.hd, f.ty, f.d, f.a, f.bOrImm⟩
/-- Three-source operands, SC classed by SCC. -/
def Fields.tri (f : Fields) : Tri := ⟨f.hd, f.ty, f.d, f.a, f.bOrImm, f.c (f.hi % 2 == 1)⟩
/-- Comparison operands. -/
def Fields.cmp (f : Fields) : Cmp := ⟨f.hd, f.ty, f.dst.truncate 3, f.a, f.bOrImm⟩
/-- Conversion operands. -/
def Fields.conv (f : Fields) : Conv :=
  ⟨f.hd, f.rm, f.hi % 2 == 1, f.ty, Ty.ofCode (f.sc.toNat % 32), f.d, f.aOrImm⟩
/-- Memory operands. -/
def Fields.mem (f : Fields) : Mem := ⟨f.hd, MemTy.ofMod f.m, BitVec.ofNat 2 (f.m / 8), f.d, f.a, f.c false, f.off⟩
/-- Gather operands. -/
def Fields.gath (f : Fields) : Gath :=
  ⟨f.hd, Acc.ofCode (f.m % 8), BitVec.ofNat 2 (f.m / 8), BitVec.ofNat 3 (f.m / 32), f.m / 256 == 1, f.dst.truncate 8, f.a,
    f.sc.truncate 8, f.off⟩
/-- Address operands. -/
def Fields.addr (f : Fields) : Addr := ⟨f.hd, BitVec.ofNat 2 (f.m / 8), f.a, f.c false, f.off⟩
/-- MMA operands. -/
def Fields.mma (f : Fields) : Mma :=
  ⟨f.hd, f.dst.truncate 3, f.sa.truncate 5, f.sb.truncate 5, f.sc.truncate 5, PassW.ofNat f.e f.m, Chain.ofNat f.e⟩
/-- MDRAIN operands. -/
def Fields.drain (f : Fields) : Drain :=
  { h := f.hd, acc := f.dst.truncate 3, td := f.sa.truncate 5,
    origin := if f.e.testBit 8 then some (f.sb.truncate 6) else none, tq := f.sc.truncate 5, mb1 := bitsAt f.e 0 1,
    nb1 := bitsAt f.e 1 2, ofmt := bitsAt f.e 3 4, sat := f.e.testBit 7, ten := f.e.testBit 9, tt := bitsAt f.e 10 5,
    tfmt := bitsAt f.e 15 4, aen := f.e.testBit 19, areg := bitsAt f.e 20 6, ascope := bitsAt f.e 26 3,
    tagb := bitsAt f.e 29 8, clr := f.e.testBit 37, free := f.e.testBit 38, ch := Chain.ofNat f.e }
/-- Atomic operands. -/
def Fields.atomic (f : Fields) : Atomic :=
  ⟨f.hd, AtomTy.ofCode (f.m % 8), AtomKind.ofCode (f.m / 8 % 4), Scope.ofCode (f.m / 32 % 8), f.m / 256 == 1, f.d, f.a, f.b,
    f.off⟩
/-- VOTE operands. -/
def Fields.voteOp (f : Fields) : VoteOp :=
  match f.m % 4 with
  | 0 => .any (f.dst.truncate 3) (f.sa.truncate 3) (f.m / 4 % 2 == 1)
  | 1 => .all (f.dst.truncate 3) (f.sa.truncate 3) (f.m / 4 % 2 == 1)
  | 2 => .ballot f.d (f.sa.truncate 3) (f.m / 4 % 2 == 1)
  | _ => .eq (f.dst.truncate 3) f.a (f.m / 8 % 2 == 1)
/-- The copy control word in EXT64. -/
def Fields.cw (f : Fields) : CopyWord := CopyWord.ofNat f.e
/-- The cluster scope of a queue instruction: MOD<52> of the codes 2 and 3. -/
def Fields.qcl (f : Fields) : Bool := f.m % 2 == 1
/-- Operands of QTRY. -/
def Fields.qtryOp (f : Fields) : QTryOp :=
  if f.m / 32 % 2 = 1 then .push (if f.m / 8 % 2 = 1 then .tile (f.sb.truncate 5) else .word f.b)
  else .pop (f.m / 16 % 2 == 1) (if f.m / 8 % 2 = 1 then some (f.sb.truncate 5) else none)
/-- What TLBINV selects; KIND 11 reads as `.asid`, which has its operands, and then fails on MOD (R398). -/
def Fields.tlbSel (f : Fields) : TlbSel :=
  let asid := if f.m / 4 % 2 = 1 then none else some f.b
  match f.m % 4 with
  | 0 => .va (f.sa.truncate 6) asid
  | 2 => .all
  | _ => .asid asid

/-- The instruction an opcode's fields give (R42), as far as they can be read; none for an unassigned opcode. -/
def Fields.shape (f : Fields) : Option Instr :=
  match f.opc.toNat with
  | 0x000 => some (.nop f.hd)
  | 0x001 => some (.bra f.hd f.imm)
  | 0x002 => some (.brx f.hd f.a)
  | 0x003 => some (.call f.hd f.d f.imm)
  | 0x004 => some (.ret f.hd f.a)
  | 0x005 => some (.loop f.hd f.d f.imm)
  | 0x006 => some (.sfork f.hd f.d f.a f.b)
  | 0x007 => some (.sexit f.hd)
  | 0x008 => some (.wexit f.hd)
  | 0x009 => some (.idem (f.dst.zeroExtend 16 + ((f.sa.truncate 7).zeroExtend 16 <<< 9))
      ((f.sa >>> 7).zeroExtend 16 + (f.sb.zeroExtend 16 <<< 2) + (f.sc.zeroExtend 16 <<< 11)))
  | 0x00A => some (.yield f.hd)
  | 0x00B => some (.vote f.hd f.voteOp)
  | 0x00C => some (.paths f.hd f.d (f.m % 2 == 1))
  | 0x020 => some (.iadd (f.hi / 2 % 2 == 1) f.bin)
  | 0x021 => some (.isub (f.hi / 2 % 2 == 1) f.bin)
  | 0x022 => some (.imul f.bin)
  | 0x023 => some (.imad f.tri)
  | 0x024 => some (.imulh f.bin)
  | 0x025 => some (.imin f.bin)
  | 0x026 => some (.imax f.bin)
  | 0x027 => some (.iabs (f.hi / 2 % 2 == 1) f.un)
  | 0x028 => some (.and f.bin)
  | 0x029 => some (.or f.bin)
  | 0x02A => some (.xor f.bin)
  | 0x02B => some (.not f.un)
  | 0x02C => some (.shl f.bin)
  | 0x02D => some (.shr f.bin)
  | 0x02E => some (.sar f.bin)
  | 0x02F => some (.rot f.bin)
  | 0x030 => some (.popc f.un)
  | 0x031 => some (.clz f.un)
  | 0x032 => some (.ctz f.un)
  | 0x033 => some (.brev f.un)
  | 0x034 => some (.bfx f.bin)
  | 0x035 => some (.bfi f.tri)
  | 0x036 => some (.sel f.bin (f.sc.truncate 3) (f.hi / 2 % 2 == 1))
  | 0x037 => some (.icmp (Icc.ofCode (f.hi / 2)) f.cmp)
  | 0x038 => some (.mov f.un)
  | 0x039 => some (.movi f.hd f.ty f.d f.imm (f.hi / 2 % 2 == 1))
  | 0x03A => some (.lea (BitVec.ofNat 3 (f.hi / 2)) f.bin)
  | 0x03B => some (.iext f.un)
  | 0x03C => some (.shfl (ShflMode.ofCode (f.hi / 2 % 4)) f.bin)
  | 0x03D => some (.prmt f.tri)
  | 0x03E => some (.pcmb f.hd (BitVec.ofNat 4 f.hi) (f.dst.truncate 3) (f.sa.truncate 3) (f.sb.truncate 3))
  | 0x060 => some (.fadd f.rm f.bin)
  | 0x061 => some (.fsub f.rm f.bin)
  | 0x062 => some (.fmul f.rm f.bin)
  | 0x063 => some (.ffma f.rm f.tri)
  | 0x064 => some (.fmin f.bin)
  | 0x065 => some (.fmax f.bin)
  | 0x066 => some (.fcmp (Fcc.ofCode f.hi) f.cmp)
  | 0x067 => some (.fclass f.un)
  | 0x068 => some (.frnd f.rm f.un)
  | 0x069 => some (.frcp f.rm f.un)
  | 0x06A => some (.frsq f.rm f.un)
  | 0x06B => some (.fsqrt f.rm f.un)
  | 0x06C => some (.fexp2 f.rm f.un)
  | 0x06D => some (.flog2 f.rm f.un)
  | 0x06E => some (.fsin f.un)
  | 0x06F => some (.fcos f.un)
  | 0x070 => some (.fwelf f.hd (f.dst.truncate 8) (f.sa.truncate 8) f.bOrImm)
  | 0x071 => some (.fwmerge f.hd (f.dst.truncate 8) (f.sa.truncate 8) f.bOrImm)
  | 0x072 => some (.fredw (RedwOp.ofCode (f.hi / 2)) f.un)
  | 0x073 => some (.fdot2 f.rm f.tri)
  | 0x080 => some (.cvt f.conv)
  | 0x081 => some (.cvtfi f.conv)
  | 0x082 => some (.cvtif f.conv)
  | 0x083 => some (if f.e.testBit 2 then .qpackRows f.hd f.rm f.ty (f.dst.truncate 8) (f.sa.truncate 8) f.b
      else .qpack f.hd f.rm (f.hi % 2 == 1) f.ty (bitsAt f.e 0 2) (f.dst.truncate 8) (f.sa.truncate 8))
  | 0x084 => some (if f.e.testBit 2 then
        .qunpackRows f.hd f.ty (f.dst.truncate 8) (f.sa.truncate 8) f.b (f.c (f.hi % 2 == 1))
      else .qunpack f.hd f.ty (bitsAt f.e 0 2) (f.dst.truncate 8) (f.sa.truncate 8))
  | 0x085 => some (.qscale f.unImm)
  | 0x086 => some (.qrow f.tri)
  | 0x087 => some (.qamax f.hd f.ty (f.dst.truncate 8) (f.sa.truncate 8) (f.sb.truncate 7))
  | 0x088 => some (.qhdr f.hd (f.dst.truncate 8) (if f.hi % 2 = 1 then .zero (f.len == 1) else .hdr f.ty f.aOrImm))
  | 0x089 => some (.qesc f.hd f.ty (f.dst.truncate 8) f.a f.bOrImm)
  | 0x090 => some (.ld f.mem)
  | 0x091 => some (.st f.mem)
  | 0x092 => some (.ldu f.mem)
  | 0x093 => some (.ldl f.mem)
  | 0x094 => some (.stl f.mem)
  | 0x095 => some (.gather f.gath)
  | 0x096 => some (.scatter f.gath)
  | 0x097 => some (.pref (f.m % 2 == 1) f.addr)
  | 0x098 => some (.cflush (FlushOp.ofCode (f.m % 8)) f.addr)
  | 0x099 => some (.ldk f.mem)
  | 0x0A0 => some (.fence f.hd (Scope.ofCode (f.m % 8)) (FenceKind.ofCode (f.m / 8)))
  | 0x0A1 => some (.fencex f.hd (Scope.ofCode (f.m % 8)) (FenceKind.ofCode (f.m / 8 % 4)) (AccessPath.ofCode (f.m / 32 % 4))
      (AccessPath.ofCode (f.m / 128 % 4)))
  | 0x0A2 => some (.aliasfl f.addr)
  | 0x0A8 => some (.tdecl f.hd (f.sa.truncate 5) (f.sb.truncate 6) (f.sc.truncate 6) (bitsAt f.e 0 20) (bitsAt f.e 20 20)
      (RegionMode.ofCode (f.e / 2 ^ 40 % 4)))
  | 0x0A9 => some (.tbind f.hd f.d (f.sa.truncate 5) (f.e.testBit 0) (bitsAt f.e 1 12) (bitsAt f.e 13 16))
  | 0x0AA => some (.twait f.hd (f.sa.truncate 5))
  | 0x0AB => some (.tstat f.hd f.d (f.sa.truncate 5))
  | 0x0AC => some (.tcopy f.hd (f.sa.truncate 5) (f.sb.truncate 6) (f.sc.truncate 4) f.cw)
  | 0x0AD => some (.tstore f.hd (f.sa.truncate 5) (f.sb.truncate 6) (f.sc.truncate 4) f.cw)
  | 0x0AE => some (.tplane f.hd (f.sa.truncate 5) (f.sb.truncate 5) (f.sc.truncate 4) f.cw)
  | 0x0AF => some (.trel f.hd (f.sa.truncate 5))
  | 0x0B0 => some (.cseal f.hd (if f.m % 2 = 1 then some f.d else none))
  | 0x0B1 => some (if f.m % 2 = 1 then .cwaitTo f.hd f.a else .cwait f.hd f.a)
  | 0x0B2 => some (.binit f.hd (f.sa.truncate 4) f.b (bitsAt f.e 0 32))
  | 0x0B3 => some (.bexpect f.hd (f.sa.truncate 4) f.b (bitsAt f.e 0 32) (f.e.testBit 32))
  | 0x0B4 => some (.barrive f.hd (if f.m % 2 = 1 then some f.d else none) (f.sa.truncate 4))
  | 0x0B5 => some (.bwait f.hd (f.sa.truncate 4) f.b)
  | 0x0B6 => some (.ksig f.hd (f.sa.truncate 3))
  | 0x0B7 => some (.kwait f.hd (f.sa.truncate 3))
  | 0x0C0 => some (.mzero f.hd (f.dst.truncate 3) (bitsAt f.e 0 1) (bitsAt f.e 1 2) (Chain.ofNat f.e))
  | 0x0C1 => some (.mldc f.hd (f.dst.truncate 3) (f.sa.truncate 5) (bitsAt f.e 0 1) (bitsAt f.e 1 2) (LdFmt.ofCode (f.e / 8 % 4))
      (bitsAt f.e 5 12) (Chain.ofNat f.e))
  | 0x0C2 => some (.mma f.mma)
  | 0x0C3 => some (.mmap f.mma)
  | 0x0C4 => some (.mdrain f.drain)
  | 0x0C5 => some (.mbaton f.hd f.a)
  | 0x0C6 => some (.mrel f.hd)
  | 0x0C7 => some (.mstat f.hd f.d)
  | 0x0C8 => some (.mnmsel f.hd (f.sa.truncate 5) (f.sb.truncate 5) (f.e.testBit 0) (Chain.ofNat f.e))
  | 0x0D0 => some (.txbegin f.hd (f.m % 2 == 1) (if f.m / 2 % 2 = 1 then some f.d else none))
  | 0x0D1 => some (.txcommit f.hd)
  | 0x0D2 => some (if f.m % 2 = 1 then .txabortDrop f.hd else .txabortUp f.hd)
  | 0x0D3 => some (.txstat f.hd (BitVec.ofNat 2 f.m) f.d)
  | 0x0D4 => some (if f.m % 2 = 1 then .txpredWr f.hd (f.dst.truncate 6) (f.sa.truncate 6) f.b (f.sc.truncate 6)
      else .txpredRd f.hd (f.dst.truncate 6) (f.sa.truncate 6) f.b (f.sc.truncate 6))
  | 0x0D5 => some (.txgate f.hd (f.sa.truncate 6) f.b)
  | 0x0D8 => some (.atom (AtomOp.ofCode (f.sc.toNat % 16)) f.atomic)
  | 0x0D9 => some (.acas f.atomic)
  | 0x0DA => some (.red (AtomOp.ofCode (f.sc.toNat % 16)) f.atomic)
  | 0x0DB => some (.bar f.hd f.a)
  | 0x0DC => some (.bars f.hd (f.m % 2 == 1) f.a f.b)
  | 0x0DD => some (.qpush f.hd f.qcl (f.sa.truncate 4) (if f.m / 8 % 2 = 1 then .tile (f.sb.truncate 5) else .word f.b))
  | 0x0DE => some (.qpop f.hd f.qcl (f.m / 16 % 2 == 1) (f.sa.truncate 4)
      (if f.m / 8 % 2 = 1 then .tile (f.dst.truncate 5) else .s (f.dst.truncate 6)))
  | 0x0DF => some (.qtry f.hd f.qcl (f.sa.truncate 4) (f.dst.truncate 6) f.qtryOp)
  | 0x0E0 => some (if f.m / 8 % 2 = 1 then .qgrantCfg f.hd f.qcl (f.sa.truncate 4) (f.sb.truncate 6)
      else .qgrant f.hd f.qcl (f.sa.truncate 4) f.b)
  | 0x0E1 => some (.dqpush f.hd (Scope.ofCode (f.m % 8)) (f.dst.truncate 6) (f.sa.truncate 6) (f.sb.truncate 6))
  | 0x0E2 => some (.dqpop f.hd (Scope.ofCode (f.m % 8)) (f.dst.truncate 6) (f.sa.truncate 6))
  | 0x0E3 => some (.dqsteal f.hd (Scope.ofCode (f.m % 8)) (f.dst.truncate 6) (f.sa.truncate 6))
  | 0x0E4 => some (.reggive f.hd f.a)
  | 0x0E5 => some (.regclaim f.hd f.a)
  | 0x0E6 => some (.gqrel f.hd (f.sa.truncate 6) f.b)
  | 0x0F0 => some (.launch f.hd (f.sa.truncate 6) (bitsAt f.e 0 6) (f.e.testBit 6))
  | 0x0F1 => some (.task f.hd (f.sa.truncate 6))
  | 0x0F2 => some (.taskc f.hd (f.sa.truncate 6) (f.e.testBit 0))
  | 0x0F3 => some (.joinc f.hd f.d)
  | 0x0F4 => some (.qry f.hd f.d (QrySel.ofCode f.m f.a))
  | 0x0F5 => some (.detsync f.hd)
  | 0x0F6 => some (if f.m % 2 = 1 then .taskqWr f.hd f.a f.b else .taskqRd f.hd f.d f.a)
  | 0x0F8 => some (.sgfork f.hd (f.sa.truncate 6) (f.sb.truncate 6) (f.sc.truncate 6) (bitsAt f.e 0 6) (bitsAt f.e 6 32)
      (bitsAt f.e 38 5))
  | 0x0F9 => some (.sgreward f.hd f.d (f.sa.truncate 6) f.b (f.c true))
  | 0x0FA => some (.sgwait f.hd f.d (f.sa.truncate 6))
  | 0x0FB => some (.sgcancel f.hd (f.sa.truncate 6) f.b)
  | 0x0FC => some (.sgclose f.hd (f.sa.truncate 6))
  | 0x0FD => some (.sginfo f.hd (BitVec.ofNat 3 f.m) f.d (f.sa.truncate 6))
  | 0x0FE => some (.dld f.hd f.d f.a (f.c false))
  | 0x0FF => some (.dset f.hd (BitVec.ofNat 8 f.m) f.a f.b (f.c false))
  | 0x100 => some (.dadd f.hd (BitVec.ofNat 8 f.m) f.a f.b (f.c false))
  | 0x101 => some (.dmerge f.hd f.d f.a f.b)
  | 0x102 => some (.stepadv f.hd f.d (f.sa.truncate 6))
  | 0x103 => some (.rng f.hd f.d f.a f.b)
  | 0x104 => some (.rngf f.hd f.d f.a f.b)
  | 0x105 => some (if f.m % 2 = 1 then .rngmaskSt f.hd f.d f.a f.b (f.c (f.hi % 2 == 1))
      else .rngmask f.hd f.d f.a f.b (f.c (f.hi % 2 == 1)))
  | 0x110 => some (.trap f.hd f.a)
  | 0x111 => some (.tret f.hd f.a (if f.m % 2 = 1 then some (f.sb.truncate 6) else none))
  | 0x112 => some (.csrr f.hd f.d (f.imm.truncate 12))
  | 0x113 => some (.csrw f.hd f.a (f.imm.truncate 12))
  | 0x114 => some (.csrx f.hd (CsrxOp.ofCode (f.m % 4)) f.d f.a (f.imm.truncate 12))
  | 0x115 => some (.brk f.hd f.a)
  | 0x116 => some (.tlbinv f.hd f.tlbSel)
  | 0x117 => some (.halt f.hd f.a)
  | 0x120 => some (.xput f.hd (f.sa.truncate 6) (f.sb.truncate 6) (f.sc.truncate 6) (bitsAt f.e 0 12) (f.e.testBit 12)
      (bitsAt f.e 13 4))
  | 0x121 => some (.xget f.hd (f.sa.truncate 6) (f.sb.truncate 6) (f.sc.truncate 6) (bitsAt f.e 0 12) (f.e.testBit 12)
      (bitsAt f.e 13 4))
  | 0x122 => some (.xsig f.hd f.a (f.sb.truncate 6) (bitsAt f.e 0 12) (f.e.testBit 17))
  | 0x123 => some (.xwait f.hd (f.sa.truncate 6) f.b)
  | _ => none

/-! ## Decoding -/

/-- What decoding a word can raise (R40 steps 2 to 6), with the field of R41. -/
inductive DecodeError where
  | illegalOpcode (f : FieldCode)
  | illegalOperand (f : FieldCode)
  deriving DecidableEq, Repr

/-- Does an opcode allow a length (R42)? 0 is B64, 1 B96, 2 B128. -/
def lenAllowed (opc len : Nat) : Bool :=
  if [0x001, 0x003, 0x005, 0x039, 0x112, 0x113, 0x114].contains opc then len == 1
  else if [0x083, 0x084, 0x0A8, 0x0A9, 0x0AC, 0x0AD, 0x0AE, 0x0B2, 0x0B3, 0x0C0, 0x0C1, 0x0C2, 0x0C3, 0x0C4, 0x0C8, 0x0F0,
      0x0F1, 0x0F2, 0x0F8, 0x120, 0x121, 0x122, 0x123].contains opc then len == 2
  else if (0x020 ≤ opc && opc ≤ 0x03E && !([0x027, 0x02B, 0x030, 0x031, 0x032, 0x033, 0x038, 0x03B, 0x03E].contains opc)) ||
      (0x060 ≤ opc && opc ≤ 0x073 && !([0x067, 0x072].contains opc || (0x068 ≤ opc && opc ≤ 0x06F))) ||
      [0x081, 0x082, 0x085, 0x086, 0x088, 0x089].contains opc || (0x090 ≤ opc && opc ≤ 0x099) ||
      (0x0D8 ≤ opc && opc ≤ 0x0DA) then len == 0 || len == 1
  else len == 0

/-- The word is of the matrix class and does not use SC: a nonzero SC then names EXT64 (R247). -/
def Fields.scUnused (f : Fields) : Bool :=
  if f.opc == 0x0C2 || f.opc == 0x0C3 then decide (bitsAt f.e 28 2 < (2 : BitVec 2))
  else if f.opc == 0x0C4 then decide (bitsAt f.e 3 4 < (10 : BitVec 4))
  else decide (0x0C0 ≤ f.opc.toNat ∧ f.opc.toNat ≤ 0x0C8)

/-- Does a field of the word, with the class bits that belong to it, equal the instruction's (R28, R30)? The class bits of
IDEM are part of its MOD range (R81); a destination that TXBEGIN does not use names MOD (R280), an SC that an instruction of
the matrix class does not use EXT64 (R247). -/
def Fields.agree (f g : Fields) : FieldCode → Bool
  | .dst => (f.opc == 0x0D0 && f.m / 2 % 2 == 0) || (f.dst == g.dst && (f.opc == 9 || f.cd == g.cd))
  | .sa => f.sa == g.sa && (f.opc == 9 || f.ca == g.ca)
  | .sb => f.sb == g.sb && (f.opc == 9 || f.cb == g.cb)
  | .sc => f.scUnused || f.sc == g.sc
  | .mod => f.mod == g.mod && f.cd == g.cd && f.ca == g.ca && f.cb == g.cb && (f.opc != 0x0D0 || f.dst == g.dst)
  | .imm => f.imm == g.imm
  | .ext => f.ext == g.ext && (!f.scUnused || f.sc == g.sc)
  | .grd => f.grd == g.grd
  | .nwb => f.nwb == g.nwb
  | .len => f.len == g.len
  | .opc => f.opc == g.opc

/-- The fields of R40 step 6 in their order, and before them the pair check of R245. -/
def operandOrder : List FieldCode := [.opc, .dst, .sa, .sb, .sc, .mod, .imm, .ext]

/-- Is a field in order: it equals the instruction's own, and every check that names it holds? -/
def fieldOk (f g : Fields) (cs : List Chk) (k : FieldCode) : Bool := f.agree g k && cs.all fun x => x.1 != k || x.2

/-- Decoding the fields of a word: R40 steps 2 to 6, the first failure decides. -/
def decodeFields (c : DecCtx) (f : Fields) : Except DecodeError Instr :=
  if f.len = 3 then .error (.illegalOpcode .len)
  else match f.shape with
    | none => .error (.illegalOpcode .opc)
    | some i =>
      match i.toFields with
      | none => .error (.illegalOpcode .opc)
      | some g =>
        if !lenAllowed f.opc.toNat f.len.toNat then .error (.illegalOpcode .len)
        else if f.grd = 8 || f.grd != g.grd then .error (.illegalOperand .grd)
        else if f.nwb && !i.latches then .error (.illegalOperand .nwb)
        else match operandOrder.find? (fun k => !fieldOk f g (i.checks c) k) with
          | some k => .error (.illegalOperand k)
          | none => if g = f then .ok i else .error (.illegalOpcode .len)

/-- Is an instruction well formed: it has a word, its guard and NWB are allowed and every check holds? -/
def Instr.wf (c : DecCtx) (i : Instr) : Bool :=
  match i.toFields with
  | none => false
  | some g => g.grd != 8 && (!g.nwb || i.latches) && (i.checks c).all (·.2) && lenAllowed g.opc.toNat g.len.toNat

/-- The number of a list of bytes, the first lowest (R2). -/
def leNat : List (BitVec 8) → Nat
  | [] => 0
  | b :: bs => b.toNat + 256 * leNat bs

/-- `n` bytes of a number, the lowest first (R2). -/
def leBytes : Nat → Nat → List (BitVec 8)
  | 0, _ => []
  | n + 1, w => BitVec.ofNat 8 w :: leBytes n (w / 256)

/-- Decoding the bytes of a word, from the lowest address; bytes beyond the word are not looked at. -/
def decode (c : DecCtx) (bs : List (BitVec 8)) : Except DecodeError Instr := decodeFields c (Fields.ofNat (leNat bs))

/-- Length in bytes of the word that starts with this byte (R27). -/
def wordBytes (b : BitVec 8) : Nat := lenBytes (b.truncate 2)

/-- The bytes of an instruction's word, from the lowest address; events have none. -/
def Instr.encode (i : Instr) : Option (List (BitVec 8)) :=
  i.toFields.map fun f => leBytes (lenBytes f.len) f.toNat

/-- The instruction the decoder reads from the bits of an opcode-table row: the bits are laid out as bytes, lowest first
(the words of the table are numbered that way, R2, R27), the bits above `nbits` are zero, and the window is the largest. -/
def decodeTableWord (nbits w : Nat) : Option Instr :=
  match decode ⟨256, true, false, false⟩ (leBytes 16 (w % 2 ^ nbits)) with
  | .ok i => some i
  | .error _ => none

end Sys2Proof
end

