-- ==== Sys2Proof/Machine/Bits.lean ====
section
/-! DEFINITION. Machine/Bits.lean: bit fields, sign extension and byte order (00_scope R2: little-endian), the list of
slots of a strand mask, and sorting. -/

namespace Sys2Proof.Machine

/-- Bits `lo + n - 1` to `lo` of a number. -/
def field (x lo n : Nat) : Nat := x / 2 ^ lo % 2 ^ n

/-- The two's complement value of the low `w` bits. -/
def signedOf (w x : Nat) : Int :=
  let y := x % 2 ^ w
  if 2 * y < 2 ^ w then (y : Int) else (y : Int) - (2 ^ w : Nat)

/-- The low `w` bits of an integer, as a number. -/
def wrapTo (w : Nat) (x : Int) : Nat := (x % (2 ^ w : Nat)).toNat

/-- Sign-extend the low `w` bits to 64 bits. -/
def sext64 (w : Nat) (x : BitVec 64) : BitVec 64 := BitVec.ofInt 64 (signedOf w x.toNat)

/-- Zero-extend the low `w` bits to 64 bits. -/
def zext64 (w : Nat) (x : BitVec 64) : BitVec 64 := BitVec.ofNat 64 (x.toNat % 2 ^ w)

/-- The number of little-endian bytes. -/
def ofBytes : List (BitVec 8) → Nat
  | [] => 0
  | b :: r => b.toNat + 256 * ofBytes r

/-- The `n` little-endian bytes of a number. -/
def toBytes : Nat → Nat → List (BitVec 8)
  | 0, _ => []
  | n + 1, x => BitVec.ofNat 8 (x % 256) :: toBytes n (x / 256)

/-- The strand slots of a mask, ascending. -/
def slotsOf (m : BitVec 32) : List Nat := (List.range 32).filter fun i => m.getLsbD i

/-- The mask of one slot. -/
def slotBit (i : Nat) : BitVec 32 := BitVec.ofNat 32 (2 ^ i)

/-- The mask of a list of slots. -/
def maskOf (l : List Nat) : BitVec 32 := l.foldl (fun m i => m ||| slotBit i) 0

/-- The number of set bits below position 64. -/
def popcount (x : Nat) : Nat := ((List.range 64).filter fun i => x.testBit i).length

/-- Give a list a length: cut it or pad it at the end. -/
def padTo {α : Type} (n : Nat) (d : α) (l : List α) : List α := (l ++ List.replicate n d).take n

/-- Insert by a key of two numbers, behind entries with the same key. -/
def insertBy {α : Type} (key : α → Nat × Nat) (x : α) : List α → List α
  | [] => [x]
  | y :: r =>
    let a := key x
    let b := key y
    if a.1 < b.1 || (a.1 == b.1 && a.2 < b.2) then x :: y :: r else y :: insertBy key x r

/-- Sort by a key of two numbers, keeping the order of equals. -/
def sortBy {α : Type} (key : α → Nat × Nat) (l : List α) : List α := l.foldl (fun l x => insertBy key x l) []

/-- Floor of the base-2 logarithm; 0 for 0. -/
def log2 (x : Nat) : Nat := Nat.log2 x

end Sys2Proof.Machine
end

