-- ==== Sys2Proof/Machine/Map.lean ====
section
/-! DEFINITION. Machine/Map.lean: finite tables as plain data. `Tab` is a table by number, kept in rising order of its
numbers; `Mem` operations keep a byte memory in the one canonical form: addresses strictly rising and no entry equal to
what an unlisted address reads as. -/

namespace Sys2Proof.Machine

/-- A table by number, in rising order. -/
abbrev Tab (α : Type) := List (Nat × α)

/-- The entry of a number. -/
def Tab.get? {α : Type} : Tab α → Nat → Option α
  | [], _ => none
  | (j, x) :: r, k => if k < j then none else if k = j then some x else Tab.get? r k

/-- The entry of a number, or a default. -/
def Tab.getD {α : Type} (t : Tab α) (k : Nat) (d : α) : α := (t.get? k).getD d

/-- Set the entry of a number. -/
def Tab.set {α : Type} : Tab α → Nat → α → Tab α
  | [], k, v => [(k, v)]
  | (j, x) :: r, k, v => if k < j then (k, v) :: (j, x) :: r else if k = j then (k, v) :: r else (j, x) :: Tab.set r k v

/-- Remove the entry of a number. -/
def Tab.del {α : Type} : Tab α → Nat → Tab α
  | [], _ => []
  | (j, x) :: r, k => if k < j then (j, x) :: r else if k = j then r else (j, x) :: Tab.del r k

/-- Change the entry of a number, where there is one. -/
def Tab.upd {α : Type} : Tab α → Nat → (α → α) → Tab α
  | [], _, _ => []
  | (j, x) :: r, k, f => if k < j then (j, x) :: r else if k = j then (j, f x) :: r else (j, x) :: Tab.upd r k f

/-- Set several entries, in order. -/
def Tab.setAll {α : Type} (t : Tab α) : List (Nat × α) → Tab α
  | [] => t
  | (k, v) :: r => Tab.setAll (t.set k v) r

/-- The values. -/
def Tab.vals {α : Type} (t : Tab α) : List α := t.map (·.2)

/-- Keep the entries that satisfy a test. -/
def Tab.keep {α : Type} (t : Tab α) (p : Nat → α → Bool) : Tab α := t.filter fun e => p e.1 e.2

/-- Change every entry. -/
def Tab.mapVals {α β : Type} (t : Tab α) (f : Nat → α → β) : Tab β := t.map fun e => (e.1, f e.1 e.2)

/-- The first number whose entry satisfies a test. -/
def Tab.findKey {α : Type} (t : Tab α) (p : Nat → α → Bool) : Option Nat := (t.find? fun e => p e.1 e.2).map (·.1)

/-- The first number from `k` on without an entry, looking at `n` numbers. -/
def Tab.firstFree {α : Type} (t : Tab α) : Nat → Nat → Option Nat
  | 0, _ => none
  | n + 1, k => if (t.get? k).isNone then some k else Tab.firstFree t n (k + 1)

/-- Merge two tables in rising order; where both have a number, the first decides. -/
def Tab.merge {α : Type} : Nat → Tab α → Tab α → Tab α
  | 0, a, _ => a
  | _ + 1, [], b => b
  | _ + 1, a, [] => a
  | n + 1, (j, x) :: r, (k, y) :: q =>
    if j < k then (j, x) :: Tab.merge n r ((k, y) :: q)
    else if k < j then (k, y) :: Tab.merge n ((j, x) :: r) q
    else (j, x) :: Tab.merge n r q

/-- Set many entries, given in rising order. -/
def Tab.overlay {α : Type} (t new : Tab α) : Tab α := Tab.merge (t.length + new.length) new t

/-! ## Byte memory -/

/-- What an address that is not listed reads as: zero (notes/assumptions/1.md, DESIGN CHOICE: the spec gives no contents
of memory after power-on; unsafe). -/
def memDefault : BitVec 8 := 0

/-- Read a byte. -/
def memGet : List Host.Cell → Nat → BitVec 8
  | [], _ => memDefault
  | (j, x) :: r, k => if k < j then memDefault else if k = j then x else memGet r k

/-- Write a byte, keeping the canonical form. -/
def memSet : List Host.Cell → Nat → BitVec 8 → List Host.Cell
  | [], k, v => if v = memDefault then [] else [(k, v)]
  | (j, x) :: r, k, v =>
    if k < j then (if v = memDefault then (j, x) :: r else (k, v) :: (j, x) :: r)
    else if k = j then (if v = memDefault then r else (k, v) :: r)
    else (j, x) :: memSet r k v

/-- Every listed address is above `lo` (when given), the addresses rise strictly and no entry is the default. -/
def memWfFrom : Option Nat → List Host.Cell → Bool
  | _, [] => true
  | none, (k, v) :: r => v != memDefault && memWfFrom (some k) r
  | some lo, (k, v) :: r => decide (lo < k) && v != memDefault && memWfFrom (some k) r

/-- The canonical form of a byte memory. -/
def memWf (m : List Host.Cell) : Bool := memWfFrom none m

end Sys2Proof.Machine
end

