-- ==== Sys2Proof/Machine/State.lean ====
section
/-! DEFINITION. Machine/State.lean: all the state the manual gives the machine, as plain data, and the machine right after
device reset. Records that come and go (waves, workgroups, grids, copies, requests) stand in tables by a number of the
model's own, their uid (notes/assumptions/2.md). -/

namespace Sys2Proof.Machine

/-! ## Traps, stops -/

/-- Trap causes of R381. -/
inductive Cause where
  | illegalOpcode | illegalOperand | staleLatch | straddle | misaligned | illegalConvergence | privilege
  | translation | permission | worldViolation | uncorrectable
  | tileUndeclared | txUndeclaredStore | topRungTrip | scaleMisalign | unframedBlock | outlierOverflow | tileFormat
  | copyError
  | registerDeadlock | nestingOverflow | queueMisuse | staleStamp | sgMisuse
  | software | breakpoint
  deriving DecidableEq, Repr

/-- The code of a cause (R381). -/
def Cause.code : Cause → Nat
  | .illegalOpcode => 0x01 | .illegalOperand => 0x02 | .staleLatch => 0x03 | .straddle => 0x04 | .misaligned => 0x05
  | .illegalConvergence => 0x06 | .privilege => 0x07 | .translation => 0x10 | .permission => 0x11
  | .worldViolation => 0x12 | .uncorrectable => 0x13 | .tileUndeclared => 0x20 | .txUndeclaredStore => 0x21
  | .topRungTrip => 0x22 | .scaleMisalign => 0x23 | .unframedBlock => 0x24 | .outlierOverflow => 0x25
  | .tileFormat => 0x26 | .copyError => 0x27 | .registerDeadlock => 0x30 | .nestingOverflow => 0x31
  | .queueMisuse => 0x32 | .staleStamp => 0x33 | .sgMisuse => 0x34 | .software => 0x3F | .breakpoint => 0x41

/-- A trap as the raising rule gives it (R382, R385): cause, TRAPADDR and TRAPINFO. -/
structure Trap where
  cause : Cause
  addr  : BitVec 64 := 0
  info  : BitVec 64 := 0
  deriving DecidableEq, Repr

/-- How the machine stops. -/
inductive Fault where
  /-- Raised by `exec` of an instruction with a word when no wave is issuing (`State.cur` is none). `step` never raises it: it
  sets `cur` before it calls `exec` of such an instruction. Safe: the hardware has no such situation. -/
  | noIssuingWave
  deriving DecidableEq, Repr

/-- What the model has no meaning for. -/
inductive Refusal where
  /-- Raised by a dispatch arm of an instruction that has no meaning yet. Safe: nothing is claimed about it. -/
  | notModelled (mnemonic : String)
  deriving DecidableEq, Repr

/-! ## Strands, paths, waves -/

/-- A strand's checkpoint record (R69). -/
structure StrandRec where
  start  : BitVec 64 := 0
  fcount : Nat := 0
  pred   : BitVec 16 := 1
  vvalid : BitVec 16 := 0
  log    : List (BitVec 8) := []
  v      : Tab (BitVec 32) := []
  deriving DecidableEq, Repr

/-- A strand slot (R52, R36, R38, R388). The window base of slot i is 4i (R52) and needs no field. -/
structure Strand where
  live  : Bool := false
  pc    : BitVec 64 := 0
  /-- Predicate word; bit 0 reads as 1 (R36). -/
  pred  : BitVec 16 := 1
  /-- Window registers, by number; unlisted ones hold zero. -/
  v     : Tab (BitVec 32) := []
  l0    : BitVec 64 := 0
  l1    : BitVec 64 := 0
  l2    : BitVec 64 := 0
  l3    : BitVec 64 := 0
  /-- How many latches are valid in the current fetch window (R39). -/
  latN  : Nat := 0
  /-- Latch values shifted in so far: where a loaded value goes when it arrives (R38, log 7). -/
  pushes : Nat := 0
  defer : Bool := false
  fc    : Nat := 0
  ckr   : StrandRec := {}
  deriving DecidableEq, Repr

/-- What a path waits for (R59, R60, R300, R305, R311, R340). -/
inductive Wait where
  /-- The path can issue. -/
  | none
  /-- It stands at an instruction whose wait or stall has not ended; the instruction is tried again. `set`: it is of the
  blocking set (R39), so the path does not merge (R55). -/
  | retry (set : Bool)
  /-- Its next window misses in the instruction cache (R61). -/
  | icache
  /-- It arrived at this named barrier (R300). -/
  | barrier (id : Nat)
  /-- It waits in a queue (R305) or the claim queue (R311) and is served there. -/
  | queued
  /-- It stands at an instruction that retires when its reply arrives (R293), or when the commit proceeds (R272). -/
  | reply
  /-- It stands at a staging point of the release round (R339). -/
  | staged
  deriving DecidableEq, Repr

/-- Where a path stands in its fetch window (R60, R66, R67): within it, just after an event of R39 that is no window boundary,
or at a window boundary, where a taken transfer also puts it (log 21). -/
inductive Edge where
  | mid | event | window
  deriving DecidableEq, Repr

/-- A path (R54): the strands of `mask` share one program counter. -/
structure Path where
  /-- Creation order, by which merges keep the older path (R55). -/
  born : Nat
  mask : BitVec 32
  turn : Nat := 0
  wait : Wait := .none
  edge : Edge := .window
  /-- The bytes of the fetch window it runs, as it found them when it entered the window (R29, R65). -/
  buf  : List (BitVec 8) := []
  /-- Where the path continues when its wait ends. -/
  next : BitVec 64 := 0
  /-- `State.tick` when the path last tried its instruction and had to wait, or stopped at a staging point (log 2). -/
  tried : Nat := 0
  deriving DecidableEq, Repr

/-- The wave record and s-save block of the checkpoint area (R69). -/
structure WaveRec where
  icount : BitVec 64 := 0
  mask   : BitVec 32 := 0
  svalid : BitVec 16 := 0
  fp     : BitVec 16 := 0
  s      : Tab (BitVec 64) := []
  deriving DecidableEq, Repr

/-- A deferred engine fault not yet taken (R243). -/
structure DeferredFault where
  cause : Cause
  pc    : BitVec 64
  deriving DecidableEq, Repr

/-- Where a wave stands (R56, R387, R403). -/
inductive WaveSt where
  | running | dropped | halted | ended
  deriving DecidableEq, Repr

/-- A wave (R36, R52 to R74, R385). -/
structure Wave where
  wg      : Nat
  /-- Index in the workgroup, 0 to 31. -/
  idx     : Nat
  lane    : Nat := 0
  /-- `State.tick` when it was made resident: the residency order of R58. -/
  seat    : Nat := 0
  st      : WaveSt := .running
  strands : Tab Strand := []
  /-- Uniform registers; unlisted ones hold zero. -/
  s       : Tab (BitVec 64) := []
  win     : Nat
  /-- Window size at wave start (R313). -/
  win0    : Nat
  /-- Paths in path order (R54). -/
  paths   : List Path := []
  /-- The path whose turn it is, by its creation order (R60). -/
  turnOf  : Option Nat := none
  /-- The turn of that path has ended (R60). -/
  turnOver : Bool := false
  nextBorn : Nat := 0
  icount  : BitVec 64 := 0
  quantum : BitVec 8 := 16
  /-- The quantum of the turn that runs: a new QUANTUM applies from the next turn (R62). -/
  turnQ   : BitVec 8 := 16
  fpctl   : BitVec 4 := 0
  fpflags : BitVec 5 := 0
  trapcause : BitVec 8 := 0
  trappc  : BitVec 64 := 0
  trapaddr : BitVec 64 := 0
  trapinfo : BitVec 64 := 0
  trapstat : BitVec 40 := 0
  priv    : BitVec 2 := 0
  /-- Return point of the trap being handled (R383). -/
  rp      : BitVec 64 := 0
  /-- The trapping word had LEN 11, and so no fall-through (R400). -/
  rpNoLen : Bool := false
  /-- Fall-through of RP (R76). -/
  rpNext  : BitVec 64 := 0
  /-- Paths that stopped at trap entry, by creation order (R382). -/
  stopped : List Nat := []
  /-- Predicate words saved at trap entry, by slot (R382). -/
  saved   : Tab (BitVec 16) := []
  ck      : WaveRec := {}
  /-- Return predictor of eight entries (R78); timing only. -/
  rpred   : List (BitVec 64) := []
  /-- Chain tokens k0 to k7 (R217). -/
  toks    : Tab Nat := []
  /-- Paths that wait in `KWAIT`, with their tokens and their place among the consumers of a token (R217). -/
  kwaits  : List (Nat × Nat × Nat) := []
  /-- Copies of the open batch (R214). -/
  openB   : List Nat := []
  /-- Sealed batches, not all finished: number and copies (R214). -/
  sealedB : List (BitVec 32 × List Nat) := []
  nextB   : BitVec 32 := 0
  /-- Children started and not retired (R324), and statuses since the last JOINC (R345). -/
  kids    : Nat := 0
  kidMask : BitVec 32 := 0
  /-- Joined the open attempt (R260); waiting in TXCOMMIT (R272). -/
  joined  : Bool := false
  commitWait : Bool := false
  /-- Rung of the last granted pass (R255). -/
  lrung   : BitVec 2 := 0
  dfault  : Option DeferredFault := none
  /-- MMAP instructions posted, for matching the halves of a pair (R245). -/
  mmapN   : Nat := 0
  /-- A slot was held or the window size changed since the last `IDEM` that found neither (R238, R313). -/
  owed    : Bool := false
  /-- Instructions retired in the release round, and whether the wave's part has ended (R339). -/
  roundN  : Nat := 0
  partEnd : Bool := false
  /-- The latest `IDEM` had every live strand in its path (R72). -/
  ckAll   : Bool := false
  /-- Pre-emption has been requested (R387); the deadline has passed (R389). -/
  dropReq : Bool := false
  forced  : Bool := false
  /-- `State.tick` plus `State.clk` when the wave last issued: the lanes take turns (log 2). -/
  lastTurn : Nat := 0
  deriving DecidableEq, Repr

/-! ## Workgroups -/

/-- A region (R202). -/
structure Region where
  base     : BitVec 64
  rows     : Nat
  rowBytes : Nat
  pitch    : Int
  mode     : RegionMode
  deriving DecidableEq, Repr

/-- A named barrier (R299). -/
structure NamedBar where
  gen     : Nat := 0
  /-- 0: no arrival in the phase; else the kind of its arrivals: BAR, or BARS with n. -/
  kind    : Option (Option Nat) := none
  /-- Strands that have arrived and wait or have arrived with `.arr`: wave, slots. -/
  arrived : List (Nat × BitVec 32) := []
  /-- Waves that have arrived: every live strand has. -/
  waves   : List Nat := []
  deriving DecidableEq, Repr

/-- A transaction barrier (R215). -/
structure TxBar where
  gen     : BitVec 32
  part    : BitVec 32
  arrived : BitVec 32
  bytes   : BitVec 32
  deriving DecidableEq, Repr

/-- A named queue (R302). Handle queues keep the tiles; word queues lie in the owner's local store. -/
structure Queue where
  handles : Bool
  base    : Nat
  cap     : Nat
  head    : Nat
  count   : Nat
  allow   : Nat
  out     : Nat
  owner   : Nat
  tiles   : Tab Nat := []
  deriving DecidableEq, Repr

/-- A waiter of a queue (R305). -/
structure Waiter where
  wave  : Nat
  /-- The waiting path, by its creation order. -/
  path  : Nat
  push  : Bool
  /-- Queue: cluster scope, number. -/
  cl    : Bool
  q     : Nat
  hq    : Bool
  ag    : Bool
  /-- The word or the handle pushed; the destination register or handle of a pop. -/
  val   : BitVec 64
  reg   : Nat
  nwb   : Bool
  deriving DecidableEq, Repr

/-- States of a tile-table entry (R198). -/
inductive TileSt where
  | empty | filling | ready | draining
  deriving DecidableEq, Repr

/-- A group record of a planar tile (R228): `m` holds the 24 mantissas whose bits are the planes. -/
structure Rec where
  e         : Int := -128
  zero      : Bool := false
  nonfinite : Bool := false
  sparse    : Bool := false
  mask      : BitVec 48 := 0
  m         : List Int := []
  deriving DecidableEq, Repr

/-- A tile-table entry (R197). -/
structure Tile where
  cluster : Nat
  ctx     : Nat
  st      : TileSt := .empty
  err     : Bool := false
  cause   : BitVec 8 := 0
  /-- What a COPY_ERROR of the tile reports beside the cause (R201). -/
  eaddr   : BitVec 64 := 0
  esub    : BitVec 4 := 0
  planar  : Bool
  rows    : Nat
  width   : Nat
  vers    : Bool := false
  /-- The entry went with a context switch: it is in no tile table until its workgroup resumes (R393). -/
  away    : Bool := false
  refs    : Nat := 0
  /-- Released: freed when REFS is 0 and no fill or store is in progress (R198). -/
  released : Bool := false
  /-- Bytes of a plain tile, by row * WIDTH + column; unlisted ones are undefined. -/
  bytes   : Tab (BitVec 8) := []
  /-- Records of a planar tile, by lane * 64 + group. -/
  recs    : Tab Rec := []
  deriving DecidableEq, Repr

/-- The gate of an attempt (R275). -/
structure Gate where
  addr  : BitVec 64
  epoch : BitVec 32
  wave  : Nat
  deriving DecidableEq, Repr

/-- A held maximum update (R258): the wave of the drain, address, value and the level it was posted at. -/
structure HeldMax where
  wave : Nat
  addr : BitVec 64
  val  : BitVec 32
  priv : BitVec 2
  deriving DecidableEq, Repr

/-- Where a transaction stands (R260, R272). -/
inductive TxSt where
  | none | opened | gating | trapped | done
  deriving DecidableEq, Repr

/-- The transaction of a workgroup (R260 to R286). The status word keeps the bits of R284 above START. -/
structure Tx where
  st     : TxSt := .none
  rung   : BitVec 2 := 0
  start  : BitVec 2 := 0
  early  : Bool := false
  n      : Nat := 0
  u      : Nat := 0
  td     : Nat := 0
  /-- Dots at half the threshold (R270). -/
  half   : Nat := 0
  nf     : Nat := 0
  status : BitVec 64 := 0
  /-- `TXABORT.up` was executed at rung 3 (R283); the attempt tripped at rung 3 and commits (R273). -/
  swUp   : Bool := false
  toptrip : Bool := false
  gate   : Option Gate := none
  gated  : Bool := false
  writes : List Region := []
  maxes  : List HeldMax := []
  /-- Handles and tiles at the opening (R227). -/
  binds  : Tab Nat := []
  snaps  : List (Nat × Tile) := []
  deriving DecidableEq, Repr

/-- A store held for the release of the round (R339): the wave's index, its place in issue order, the addresses and the
byte. -/
structure Staged where
  wave  : Nat
  seq   : Nat
  va    : BitVec 64
  pa    : Nat
  byte  : BitVec 8
  priv  : BitVec 2
  deriving DecidableEq, Repr

/-- A sibling of a sample group (R352). -/
structure Sibling where
  obj      : BitVec 64
  /-- Physical cell address of the object. -/
  pa       : Nat
  index    : Nat
  retired  : Nat := 0
  reported : Bool := false
  deriving DecidableEq, Repr

/-- Where a workgroup stands (R328, R387). -/
inductive WgSt where
  /-- Waiting for staged tiles. -/
  | staging
  /-- Its waves are on their core. -/
  | running
  /-- Every wave has been dropped; in place. -/
  | dropped
  /-- In the save area. -/
  | saved
  /-- In the swap area: it has finished its part of the round and its core is needed (R338). -/
  | swapped
  /-- A replay waiting for its dispatch (R265). -/
  | replay
  /-- Its last wave has ended; children may be left. -/
  | ended
  deriving DecidableEq, Repr

/-- A workgroup. -/
structure Wg where
  grid    : Nat
  /-- Linear index L and the indices (R320, R323). -/
  lin     : Nat
  x       : BitVec 32
  y       : BitVec 32
  z       : BitVec 32
  /-- The other half of a pair (R320); the even half is the one with even L. -/
  pair    : Option Nat := none
  core    : Nat
  st      : WgSt := .running
  waves   : List Nat := []
  /-- Local store bytes that have been written (R157); the others are undefined. -/
  lmem    : Tab (BitVec 8) := []
  handles : Tab Nat := []
  regions : Tab Region := []
  /-- Handles of shared tiles, which no instruction of a sibling may write (R353). -/
  shared  : BitVec 32 := 0
  bars    : Tab NamedBar := []
  tbars   : Tab TxBar := []
  queues  : Tab Queue := []
  tx      : Tx := {}
  /-- The workgroup's entry of the dependence table (R329). -/
  task    : Option Nat := none
  /-- Bytes of the attempt's or task's versions, by virtual address (R175, R331), and the level they were written at. -/
  ver     : Tab (BitVec 8 × BitVec 2) := []
  staged  : List Staged := []
  /-- Absolute-maximum updates held for the round's atomics (R258): wave index and update, in order. -/
  maxes   : List (Nat × HeldMax) := []
  sib     : Option Sibling := none
  /-- Killed by TRET 2 and the like (R386): the grid retires PARTIAL. -/
  killed  : Bool := false
  /-- A SCALE_MISALIGN handler runs for an attempt already discarded (R291). -/
  misalign : Bool := false
  /-- The grid's round in which the workgroup became live (R338). -/
  live    : Bool := true
  deriving DecidableEq, Repr

/-! ## Grids, contexts -/

/-- A region template of a header (R50). -/
structure Template where
  base     : BitVec 64
  stepx    : BitVec 64
  stepy    : BitVec 64
  stepz    : BitVec 64
  rows     : Nat
  rowBytes : Nat
  pitch    : Int
  mode     : RegionMode
  handle   : Nat
  deriving DecidableEq, Repr

/-- The fields of a kernel header (R50) and its tables. -/
structure Header where
  wregs   : Nat
  waves   : Nat
  localSz : Nat
  txn     : Bool
  early   : Bool
  rung    : BitVec 2
  pinned  : Bool
  cores   : Bool
  pair    : Bool
  templs  : List Template
  splits  : List (BitVec 32 × BitVec 32)
  deriving DecidableEq, Repr

/-- Values latched into a launch (R323). -/
structure Latched where
  seed   : BitVec 64 := 0
  txmon  : BitVec 64 := 0
  txpol  : BitVec 64 := 0
  detctl : BitVec 64 := 0
  detq   : BitVec 64 := 0
  deriving DecidableEq, Repr

/-- What a launch record, a task descriptor or SGFORK asks for (R320, R343, R352), before its header is read. -/
structure LaunchRec where
  kernel  : BitVec 64
  nx      : Nat
  ny      : Nat
  nz      : Nat
  nstr    : Nat
  sigen   : Bool := false
  qbar    : Bool := false
  stagger : Nat := 0
  sigaddr : BitVec 64 := 0
  sigval  : BitVec 32 := 0
  args    : List (BitVec 64)
  /-- A field was out of range: the grid ends BAD_RECORD (R321). -/
  bad     : Bool := false
  deriving DecidableEq, Repr

/-- What kind of grid it is. -/
inductive GridKind where
  | launch
  /-- TASK or TASKC: index, regions by handle, the predicate word's address, INV (R343). -/
  | task (x y z : BitVec 32) (regions : List (Nat × Region)) (pred : Option (BitVec 64)) (inv : Bool)
  /-- SGFORK: the object, its physical cell address, the shared handles and their tiles (R352, R353). -/
  | siblings (obj : BitVec 64) (pa : Nat) (shared : List (Nat × Nat))
  deriving DecidableEq, Repr

/-- A grid (R320 to R324). -/
structure Grid where
  ctx     : Nat
  queue   : Nat
  kind    : GridKind
  lrec    : LaunchRec
  /-- The wave that started it (R324). -/
  parent  : Option Nat
  depth   : Nat
  lat     : Latched
  /-- Launched by the management processor as firmware: its waves start at level 2 (R380). -/
  firmware : Bool := false
  hdr     : Option Header := none
  /-- Drawn from its queue and being dispatched (R326). -/
  started : Bool := false
  /-- Next linear index to dispatch, and the die the offer stands at (R328). -/
  next    : Nat := 0
  die     : Option Nat := none
  retired : Nat := 0
  part    : Bool := false
  killed  : Bool := false
  aborted : Bool := false
  /-- Decided failure before dispatch, or the status of a task that did not run (R321). -/
  fail    : Option Nat := none
  /-- The end-of-launch status, once retired. -/
  status  : Option Nat := none
  /-- Acceptance number of the grid in its context (R338), and rounds since its round 0; none before round 0. -/
  number  : Nat := 0
  round   : Option Nat := none
  /-- Deterministic mode (R338): indices that are live and not dispatched, and those retired since the round began. -/
  ready   : List Nat := []
  gone    : List Nat := []
  /-- A workgroup of it was not run because it reads what a killed task wrote (R333). -/
  poisoned : Bool := false
  /-- The group of a sibling grid is DONE (R355). -/
  sgDone  : Bool := false
  /-- Siblings that retired without running, whose cancellation the unit has not performed yet (R354). -/
  lost    : List Nat := []
  deriving DecidableEq, Repr

/-- Where a task of the dependence table stands (R329 to R335). -/
inductive DepSt where
  | waiting | staging | running | retired | draining
  deriving DecidableEq, Repr

/-- An entry of the dependence table (R329). -/
structure Dep where
  ctx     : Nat
  /-- The die whose table holds it (R329). -/
  die     : Nat := 0
  grid    : Nat
  lin     : Nat
  /-- Regions by handle, at the task's index. -/
  regions : List (Nat × Region)
  /-- Tiles of the renamed regions, by handle (R331). -/
  tiles   : List (Nat × Nat) := []
  st      : DepSt := .waiting
  wg      : Option Nat := none
  /-- A conditional task whose predicate is still to be read (R335). -/
  pred    : Option (BitVec 64) := none
  inv     : Bool := false
  /-- Killed, poisoned, skipped, discarded: no version of it is read (R333, R335). -/
  noVer   : Bool := false
  poison  : Bool := false
  status  : Option Nat := none
  /-- Bytes of its version (R331), once the task has retired. -/
  ver     : Tab (BitVec 8 × BitVec 2) := []
  /-- Handles of the regions whose versions have drained (R330). -/
  drained : List Nat := []
  /-- The entry is a sibling's; its version is held until its group is DONE (R353). -/
  sib     : Bool := false
  held    : Bool := false
  /-- The order in which tasks were accepted. -/
  order   : Nat := 0
  /-- Deterministic mode, and the number of its grid (R338), which may have retired before its version drains. -/
  det     : Bool := false
  num     : Nat := 0
  deriving DecidableEq, Repr

/-- A hardware queue (R326, R408). -/
structure HwQueue where
  tickets : Nat := 0
  isSet   : Bool := false
  rbase   : BitVec 64 := 0
  cap     : Nat := 0
  pidx    : BitVec 32 := 0
  cidx    : BitVec 32 := 0
  cons    : BitVec 64 := 0
  /-- Pending children, then pending host records: grids, in order. -/
  kids    : List Nat := []
  recs    : List Nat := []
  deriving DecidableEq, Repr

/-- States of a context (R392). -/
inductive CtxSt where
  | free | switchedOut | running | aborted
  /-- Running, and being switched out (R393). -/
  | leaving
  deriving DecidableEq, Repr

/-- The error record of a context (R412). -/
structure ErrRec where
  cause   : BitVec 8 := 0
  faults  : BitVec 32 := 0
  source  : BitVec 8 := 0
  fcause  : BitVec 8 := 0
  trappc  : BitVec 64 := 0
  forced  : BitVec 64 := 0
  uncorr  : BitVec 64 := 0
  uncAddr : BitVec 64 := 0
  halt    : BitVec 64 := 0
  haltPc  : BitVec 64 := 0
  core    : BitVec 10 := 0
  wave    : BitVec 5 := 0
  bells   : BitVec 8 := 0
  deriving DecidableEq, Repr

/-- A stamp sweep in progress (R364). -/
structure Sweep where
  /-- Regions still to visit: base and words. -/
  regions : List (BitVec 64 × Nat)
  deriving DecidableEq, Repr

/-- A context (R392) with its CSRs (R45). -/
structure Ctx where
  st       : CtxSt := .free
  /-- Dies of the partition (R16). -/
  dies     : BitVec 4 := 0xF
  seed     : BitVec 64 := 0
  stepv    : BitVec 64 := 0
  decaytab : BitVec 64 := 0
  sgeps    : BitVec 64 := 0x3727C5AC
  txmon    : BitVec 64 := 0x0C20
  txpol    : BitVec 64 := 0
  fmtchk   : BitVec 64 := 1
  detctl   : BitVec 64 := 0
  detq     : BitVec 64 := 4096
  trapbase : BitVec 64 := 0
  world    : BitVec 64 := 0
  asid     : BitVec 64 := 0
  ptbase   : BitVec 64 := 0
  /-- WORLD, ASID and PTBASE in force for translations: a change governs only after a `TLBINV` (R391). -/
  worldNow : BitVec 64 := 0
  asidNow  : BitVec 64 := 0
  ptbaseNow : BitVec 64 := 0
  migctl   : BitVec 64 := 0x10000004
  /-- What the context's CSRs, by number, held when the previous round's operations were done (R401, R378). -/
  roundCsrs : Tab (BitVec 64) := []
  /-- Step 3 of a release round is being performed (R339). -/
  stepping : Bool := false
  queues   : Tab HwQueue := []
  err      : ErrRec := {}
  epBase   : BitVec 64 := 0
  epCount  : Nat := 0
  sweep    : Option Sweep := none
  /-- The deadline of the switch-out in progress, whether it has passed, and whether a wave was dropped by force (R389). -/
  deadline : BitVec 64 := 0
  expired  : Bool := false
  forcedOut : Bool := false
  /-- Grids accepted (R338). -/
  accepted : Nat := 0
  tasks    : Nat := 0
  roundOpen : Bool := false
  deriving DecidableEq, Repr

/-! ## Tiles, copies, engines -/

/-- A parameter block in a copy engine's cache (R208). -/
structure CachedBlock where
  cluster : Nat
  asid    : BitVec 12
  addr    : BitVec 64
  gen     : BitVec 32
  bytes   : List (BitVec 8)
  deriving DecidableEq, Repr

/-- What a copy moves (R204, R205). -/
inductive CopyKind where
  | load | store | plane (src : Nat)
  deriving DecidableEq, Repr

/-- Where a copy's rectangle lies and how much of it is valid (R205). -/
structure Geometry where
  base   : BitVec 64
  pitch  : Int
  vrows  : Int
  vbytes : Int
  deriving DecidableEq, Repr

/-- A copy in flight (R211). -/
structure Copy where
  wave    : Nat
  wg      : Nat
  ctx     : Nat
  cluster : Nat
  kind    : CopyKind
  cw      : CopyWord
  tile    : Nat
  geo     : Geometry
  /-- What was wrong with its parameter block (R203, R207, R161): the copy fails with that cause and address. -/
  bad     : Option (Nat × BitVec 64) := none
  bar     : Nat := 0
  priv    : BitVec 2
  fmtchk  : Bool
  /-- WTOK still to be consumed. -/
  token   : Bool
  started : Bool := false
  /-- Its place in the wave's issue order, for the release round (R339). -/
  seq     : Nat := 0
  /-- Issued inside an attempt. -/
  inTx    : Bool := false
  deriving DecidableEq, Repr

/-- Commands of the matrix engine (R239), with the tiles named at posting. -/
inductive MxCmd where
  | mzero (acc mb nb : Nat)
  | mldc (acc mb nb : Nat) (fmt : LdFmt) (row0 ts : Nat)
  /-- `pairN`: for MMAP, its number among the wave's MMAP commands, by which the halves match (R245). -/
  | mma (acc : Nat) (p : PassW) (ta tb tc : Option Nat) (rung : BitVec 2) (pairN : Option Nat)
  | mdrain (o : Drain) (td tt tq : Option Nat) (geo : Option Geometry) (maxAddr : BitVec 64)
  | mnmsel (of8 : Bool) (td ts : Nat)
  deriving DecidableEq, Repr

/-- An entry of a cluster's reservation table (R239). -/
structure Entry where
  cluster : Nat
  wave    : Nat
  wg      : Nat
  ctx     : Nat
  cmd     : MxCmd
  ch      : Chain
  priv    : BitVec 2
  /-- Address of the instruction, for a deferred fault (R243). -/
  pc      : BitVec 64
  marked  : Bool
  token   : Bool
  /-- Passes or commands to be granted. -/
  total   : Nat := 1
  /-- Passes or commands granted so far, and whether the last one granted still runs in the array. -/
  granted : Nat := 0
  busy    : Bool := false
  /-- Passes completed; for a command, 1 when its array cycles have ended. -/
  done    : Nat := 0
  inTx    : Bool := false
  seq     : Nat := 0
  deriving DecidableEq, Repr

/-- The matrix engine of a cluster (R236, R242). -/
structure Engine where
  /-- Holders of the two slots. -/
  hold0 : Option Nat := none
  hold1 : Option Nat := none
  /-- Slot contents by row * 256 + column; unlisted elements are +0. -/
  acc0  : Tab (BitVec 32) := []
  acc1  : Tab (BitVec 32) := []
  baton : Option Nat := none
  deriving DecidableEq, Repr

/-! ## Atomic service unit, loads, scale-out -/

/-- Operations of the atomic service units (R296, R308, R315, R351, R373). -/
inductive AsuOp where
  | rmw (op : AtomOp) (t : AtomTy)
  | cas (t : AtomTy)
  | dqpush | dqpop | dqsteal
  | gqrel
  | sgreward | sgcancel | sgclose | sginfo (sel : Nat)
  | dset
  /-- No request of a unit: a plain store that has issued and is not performed yet (R7, R183, log 7). -/
  | write (bytes : List (BitVec 8))
  deriving DecidableEq, Repr

/-- What a unit replies: the value, or the trap it reports (R293). -/
inductive Reply where
  | val (x : BitVec 64)
  | trap (t : Trap)
  deriving DecidableEq, Repr

/-- A request of one strand, or of the wave (R294). -/
structure AsuReq where
  asu   : Nat
  wave  : Nat
  wg    : Nat
  ctx   : Nat
  path  : Nat
  /-- Slots that take the result: one strand's, or all enabled strands of a uniform request. -/
  slots : BitVec 32
  op    : AsuOp
  va    : BitVec 64
  pa    : Nat
  /-- Operands: b, or compare and swap; index, reward. -/
  x     : BitVec 64 := 0
  y     : BitVec 64 := 0
  priv  : BitVec 2
  acqL1 : Bool := false
  /-- Destination of the result, and per slot the count of latch values when it was issued (R38). -/
  d     : Option Dst := none
  ages  : Tab Nat := []
  w64   : Bool := false
  nwb   : Bool := false
  sgn   : Bool := false
  /-- Waits for its reply to retire, so that a fault of the unit is precise (R293). -/
  precise : Bool := false
  pc    : BitVec 64
  next  : BitVec 64
  /-- Performed: the reply carries the value, or the trap. -/
  reply : Option Reply := none
  seq   : Nat := 0
  deriving DecidableEq, Repr

/-- A load in flight (R158, R168): the elements to read, and where they go. -/
structure Load where
  wave  : Nat
  wg    : Nat
  ctx   : Nat
  i     : Instr
  /-- Per slot, the count of latch values when it was issued (R38). -/
  ages  : Tab Nat
  /-- Per slot (32 for a uniform access): virtual and physical addresses of the accesses in order; none is a hole. -/
  elems : List (Nat × List (Option (BitVec 64 × Nat)))
  mask  : BitVec 32
  priv  : BitVec 2
  pc    : BitVec 64
  deriving DecidableEq, Repr

/-- A scale-out transfer in flight (R420). -/
inductive XferKind where
  | put (bytes : List (BitVec 8))
  | get (va : BitVec 64) (n : Nat)
  | sig (val : BitVec 64) (set : Bool)
  deriving DecidableEq, Repr

/-- A transfer. -/
structure Xfer where
  wave : Nat
  wg   : Nat
  ctx  : Nat
  ep   : Nat
  off  : BitVec 64
  kind : XferKind
  bar  : Option Nat
  priv : BitVec 2
  seq  : Nat := 0
  deriving DecidableEq, Repr

/-! ## Memory -/

/-- A copy of a line in a die's L2 (R155): the line as the die obtained it, and over it the bytes written and not yet in
memory, by offset. A byte of memory is dirty in one copy at most: in that of its last writer (notes/assumptions/10.md). -/
structure L2Line where
  line  : Nat
  die   : Nat
  /-- ASID of the last writer (R161). -/
  owner : BitVec 12
  base  : List (BitVec 8)
  bytes : Tab (BitVec 8) := []
  deriving DecidableEq, Repr

/-- A line of 64 bytes in a core's L1 or instruction cache (R154, R65), by physical address over 64. -/
structure CoreLine where
  core  : Nat
  line  : Nat
  bytes : List (BitVec 8)
  deriving DecidableEq, Repr

/-- A TLB entry (R153, R396): of a core, or of a cluster. -/
structure TlbEntry where
  cluster : Nat
  core    : Option Nat
  asid    : BitVec 12
  va      : Nat
  size    : Nat
  pte     : BitVec 64
  /-- The region table as it stood at the translation (R396): first and last cell, secure. -/
  secure  : List (Nat × Nat × Bool)
  deriving DecidableEq, Repr

/-- A page migration in progress (R159). -/
structure Migration where
  ctx   : Nat
  va    : BitVec 64
  src   : Nat
  dst   : Nat
  size  : Nat
  /-- Granules marked in the dirty filter. -/
  dirty : List Nat
  tries : Nat := 0
  stalled : Bool := false
  deriving DecidableEq, Repr

/-- Memory and the caches over it. -/
structure Memory where
  /-- Bytes of HBM, LPDDR and host memory by cell address, in canonical form. -/
  cells  : List Host.Cell := []
  l2     : List L2Line := []
  l1     : List CoreLine := []
  /-- Instruction-cache lines, of each set the least recently used first (R65). -/
  icache : List CoreLine := []
  /-- Lines that instruction prefetches are bringing, by core (R65). -/
  ifetch : List (Nat × Nat) := []
  tlb    : List TlbEntry := []
  poison : List Nat := []
  migs   : Tab Migration := []
  /-- Misra-Gries counters by bank: rows and counts (R162). -/
  rows   : Tab (List (Nat × Nat)) := []
  deriving DecidableEq, Repr

/-! ## Hub -/

/-- An entry of a rung history table (R277). -/
structure Hist where
  tag  : BitVec 14
  rung : BitVec 2
  conf : BitVec 2
  p    : Bool
  deriving DecidableEq, Repr

/-- The signed configuration record (R414), as boot installed it. -/
structure ConfigRec where
  harvest  : List (BitVec 32)
  limit    : Nat
  /-- Secure clusters, copy engines, atomic service units (bit c of logical cluster c), scale-out, management. -/
  secCl    : List Nat
  secCp    : List Nat
  secAsu   : List Nat
  secXo    : Bool
  secMg    : Bool
  areas    : List (Nat × Nat)
  refresh  : Nat
  seed     : BitVec 32
  deriving DecidableEq, Repr

/-- A port (R404, R147). -/
structure Port where
  link    : Bool := true
  master  : Bool := false
  /-- The size of BAR2 is 2 to this power of bytes, from 30 to 42 (R404). -/
  barBits : Nat := 42
  winbase : BitVec 64 := 0
  deriving DecidableEq, Repr

/-- A management command in progress (R411): whether it has acted, and why it fails (0: it does not). -/
structure Command where
  op    : BitVec 8
  ctx   : Nat
  acted : Bool := false
  err   : BitVec 8 := 0
  deriving DecidableEq, Repr

/-- The hub: management space and boot (R405 to R417), command front end, arbiter. -/
structure Hub where
  /-- Steppings of the five dies (R413). -/
  steps    : List (BitVec 8) := [0xB0, 0xB0, 0xB0, 0xB0, 0xB0]
  bootState : BitVec 8 := 0
  bootReason : BitVec 8 := 0
  owner    : Option Bool := none
  cmdOp    : BitVec 8 := 0
  cmdCtx   : BitVec 6 := 0
  busy     : Bool := false
  cmdErr   : Bool := false
  estat    : BitVec 8 := 0
  arg0     : BitVec 64 := 0
  arg1     : BitVec 64 := 0
  arg2     : BitVec 64 := 0
  arg3     : BitVec 64 := 0
  command  : Option Command := none
  avg      : BitVec 16 := 0
  limit    : BitVec 16 := 0
  throttle : BitVec 32 := 0
  p0       : Port := {}
  p1       : Port := {}
  /-- Boot image buffer, by offset. -/
  image    : List Host.Cell := []
  report   : List Host.Cell := []
  identity : List Host.Cell := []
  cfg      : Option ConfigRec := none
  imageHash : BitVec 256 := 0
  recordHash : BitVec 256 := 0
  /-- Lottery state x (R327). -/
  lottery  : BitVec 32 := 1
  /-- Cluster groups released (R415). -/
  groups   : Nat := 0
  regiontab : BitVec 64 := 0
  /-- The region table in force for translations: a change governs only after a `TLBINV` (R391). -/
  regionsNow : BitVec 64 := 0
  /-- Counted events of the management space (R397, R161). -/
  dropped  : Nat := 0
  corrected : Nat := 0
  /-- Failed migrations recorded for firmware (R159); refresh commands issued (R162); halts reported (R403). -/
  migFails : Nat := 0
  rfms     : Nat := 0
  halts    : List (Nat × Nat × Nat × BitVec 64 × BitVec 64) := []
  /-- Last completion data of a host or peer read, through BAR0 or BAR2, and its poison (R404, R161), last MCTP answer (R417). -/
  readData : List (BitVec 8) := []
  readPoison : Bool := false
  mctp     : BitVec 64 := 0
  /-- Dropped incoming writes (R418). -/
  xoDrops  : Nat := 0
  deriving DecidableEq, Repr

/-! ## The machine -/

/-- Which agent moves (notes/assumptions/2.md). -/
inductive Agent where
  /-- An event of the opcode table. -/
  | event (i : Instr)
  /-- A wave issues, or one of its paths changes. `go`: at a staging point, perform it (R339 step 3). `late`: a plain store
  of it is not performed at issue (log 7). -/
  | issue (wave : Nat) (go late : Bool)
  /-- A plain store that has issued is performed (log 7). -/
  | storeOut (req : Nat)
  /-- The maximum updates that a wave's drains held for the round are performed (R258, R339 step 3). -/
  | maxUpdates (wave : Nat)
  /-- The unit cancels siblings of a grid that retired without running (R354). -/
  | unitCancel (grid : Nat)
  /-- Step 3 of a context's release round is over (R339, R378, R401). -/
  | roundEnd (ctx : Nat)
  /-- A cache gives up a line, or obtains one: nothing the manual rules out. -/
  | l1Evict (core line : Nat)
  | icacheEvict (core line : Nat)
  /-- A prefetched line of instructions arrives (R65). -/
  | prefetched (core line : Nat)
  | tlbEvict (cluster va : Nat)
  | l2Evict (die line : Nat)
  | l2Fill (die pa : Nat)
  /-- A sector loses its data, or a code corrects an error in it (R161). -/
  | poison (sector : Nat)
  /-- Data of a tile are lost (R161). -/
  | tilePoison (tile : Nat)
  | corrected
  /-- The power average is measured anew; a grant is delayed by the power limit (R417, R9). -/
  | power
  | throttled
  /-- A row of an HBM bank is activated (R162). -/
  | rowActivate (bank row : Nat)
  /-- A host writes its own memory. -/
  | hostStore (pa : Nat) (bytes : List (BitVec 8))
  /-- A host reads through BAR0, or sets the size of BAR2 (R404). -/
  | bar0Read (port : Bool) (off n : Nat)
  | bar2Size (port : Bool) (bits : Nat)
  /-- The management processor launches firmware into a context: its waves run at level 2 (R380, log 8). -/
  | firmware (ctx : Nat) (record : List (BitVec 8))
  deriving DecidableEq, Repr

/-- The issue that `step` hands to `exec` (notes/assumptions/2.md): the wave, the path, the strands of the path, the address
of the word, its fall-through (R76), whether a staging point is to be performed, and whether a plain store may be performed
later. -/
structure Issue where
  wave : Nat
  path : Nat
  mask : BitVec 32
  pc   : BitVec 64
  next : BitVec 64
  /-- The word has LEN 11 and so no fall-through (R400). -/
  noLen : Bool := false
  go   : Bool := false
  late : Bool := false
  deriving DecidableEq, Repr

/-- All the state of the device. -/
structure State where
  /-- The schedule: what moves next (log 2). -/
  agenda  : List Agent
  /-- The issue in progress, set by `step` for `exec` (log 2). -/
  cur     : Option Issue
  /-- Steps that changed anything but a waiting path (log 2). -/
  tick    : Nat
  /-- Counter of free values drawn (log 3). -/
  free    : Nat
  /-- Next uid. -/
  fresh   : Nat
  /-- Issue cycles counted (R11, log 5). -/
  clk     : Nat
  hub     : Hub
  mem     : Memory
  ctxs    : Tab Ctx
  grids   : Tab Grid
  wgs     : Tab Wg
  waves   : Tab Wave
  /-- The wave that each lane issues for (R58), by core * 32 + lane. -/
  lanes   : Tab Nat
  deps    : Tab Dep
  tiles   : Tab Tile
  copies  : Tab Copy
  blocks  : List CachedBlock
  engines : Tab Engine
  entries : Tab Entry
  reqs    : Tab AsuReq
  loads   : Tab Load
  waiters : Tab Waiter
  /-- Claim queues by core: wave, path and registers claimed (R311). -/
  claims  : Tab (List (Nat × Nat × Nat))
  /-- Cluster queues by (context * 240 + cluster) * 16 + number (R302). -/
  cqueues : Tab Queue
  /-- Rung history tables by die * 1,024 + index (R277). -/
  hist    : Tab Hist
  xfers   : Tab Xfer
  deriving DecidableEq, Repr

/-- The machine right after device reset (R413, R406, R407, R277, R391, R399 of the manual's reset columns): every context
free, no owner, no image, no launch; memory with nothing listed. -/
def State.reset : State where
  agenda := []
  cur := none
  tick := 0
  free := 0
  fresh := 1
  clk := 0
  hub := {}
  mem := {}
  ctxs := []
  grids := []
  wgs := []
  waves := []
  lanes := []
  deps := []
  tiles := []
  copies := []
  blocks := []
  engines := []
  entries := []
  reqs := []
  loads := []
  waiters := []
  claims := []
  cqueues := []
  hist := []
  xfers := []

end Sys2Proof.Machine
end

