-- ==== Sys2Proof/Machine/Records.lean ====
section
/-! DEFINITION. Machine/Records.lean: looking up and changing the records of the state, where a wave, a workgroup or a grid
stands in the device (01_machine R15 to R18), and the counters of the model. -/

namespace Sys2Proof.Machine

/-- A workgroup record that stands for none. -/
def blankWg : Wg := { grid := 0, lin := 0, x := 0, y := 0, z := 0, core := 0 }
/-- A wave record that stands for none. -/
def blankWave : Wave := { wg := 0, idx := 0, st := .ended, win := 4, win0 := 4 }
/-- A launch record that stands for none. -/
def blankRec : LaunchRec := { kernel := 0, nx := 0, ny := 0, nz := 0, nstr := 1, args := [] }
/-- A grid record that stands for none. -/
def blankGrid : Grid := { ctx := 0, queue := 0, kind := .launch, lrec := blankRec, parent := none, depth := 0, lat := {} }
/-- A tile-table entry that stands for none. -/
def blankTile : Tile := { cluster := 0, ctx := 0, planar := false, rows := 0, width := 0 }
/-- A path that stands for none. -/
def blankPath : Path := { born := 0, mask := 0 }

/-- The wave of a uid. -/
def State.waveD (s : State) (u : Nat) : Wave := s.waves.getD u blankWave
/-- The workgroup of a uid. -/
def State.wgD (s : State) (u : Nat) : Wg := s.wgs.getD u blankWg
/-- The grid of a uid. -/
def State.gridD (s : State) (u : Nat) : Grid := s.grids.getD u blankGrid
/-- A context. -/
def State.ctxD (s : State) (u : Nat) : Ctx := s.ctxs.getD u {}
/-- The tile of a uid. -/
def State.tileD (s : State) (u : Nat) : Tile := s.tiles.getD u blankTile
/-- The matrix engine of a cluster. -/
def State.engineD (s : State) (c : Nat) : Engine := s.engines.getD c {}

/-- Change a wave. -/
def State.updWave (s : State) (u : Nat) (f : Wave → Wave) : State := { s with waves := s.waves.upd u f }
/-- Change a workgroup. -/
def State.updWg (s : State) (u : Nat) (f : Wg → Wg) : State := { s with wgs := s.wgs.upd u f }
/-- Change a grid. -/
def State.updGrid (s : State) (u : Nat) (f : Grid → Grid) : State := { s with grids := s.grids.upd u f }
/-- Change a context (a context that has no record yet has the default one). -/
def State.updCtx (s : State) (u : Nat) (f : Ctx → Ctx) : State := { s with ctxs := s.ctxs.set u (f (s.ctxD u)) }
/-- Change a tile. -/
def State.updTile (s : State) (u : Nat) (f : Tile → Tile) : State := { s with tiles := s.tiles.upd u f }
/-- Change the matrix engine of a cluster. -/
def State.updEngine (s : State) (c : Nat) (f : Engine → Engine) : State :=
  { s with engines := s.engines.set c (f (s.engineD c)) }
/-- Change the hub. -/
def State.updHub (s : State) (f : Hub → Hub) : State := { s with hub := f s.hub }
/-- Change the memory. -/
def State.updMem (s : State) (f : Memory → Memory) : State := { s with mem := f s.mem }
/-- Change a task of the dependence tables. -/
def State.updDep (s : State) (u : Nat) (f : Dep → Dep) : State := { s with deps := s.deps.upd u f }
/-- Change the transaction of a workgroup. -/
def State.updTx (s : State) (u : Nat) (f : Tx → Tx) : State := s.updWg u fun g => { g with tx := f g.tx }
/-- Change the error record of a context. -/
def State.updErr (s : State) (u : Nat) (f : ErrRec → ErrRec) : State := s.updCtx u fun c => { c with err := f c.err }

/-- Draw a uid. -/
def State.newUid (s : State) : Nat × State := (s.fresh, { s with fresh := s.fresh + 1 })

/-! ## Where things stand -/

/-- The cluster of a logical core (R15). -/
def clusterOf (core : Nat) : Nat := core / 4
/-- The die of a logical core (R15). -/
def dieOf (core : Nat) : Nat := core / 240
/-- The die of a logical cluster (R15). -/
def dieOfCluster (c : Nat) : Nat := c / 60

/-- The core of a wave. -/
def State.coreOf (s : State) (w : Wave) : Nat := (s.wgD w.wg).core
/-- The grid of a workgroup. -/
def State.gridOf (s : State) (g : Nat) : Grid := s.gridD (s.wgD g).grid
/-- The context of a workgroup. -/
def State.ctxOf (s : State) (g : Nat) : Nat := (s.gridOf g).ctx
/-- The ASID in force for a context (R391). -/
def State.asidOf (s : State) (c : Nat) : BitVec 12 := BitVec.ofNat 12 (s.ctxD c).asidNow.toNat
/-- The deterministic mode of a workgroup (R337: latched into the launch). -/
def State.isDet (s : State) (g : Nat) : Bool := (s.gridOf g).lat.detctl.getLsbD 0
/-- The header of a workgroup's kernel. -/
def State.hdrOf (s : State) (g : Nat) : Option Header := (s.gridOf g).hdr
/-- A transactional kernel (R260). -/
def State.isTxn (s : State) (g : Nat) : Bool := match s.hdrOf g with | some h => h.txn | none => false

/-- A workgroup and, for a pair workgroup, its other half: the even half first (R320). -/
def State.halves (s : State) (g : Nat) : List Nat :=
  match (s.wgD g).pair with
  | none => [g]
  | some o => if (s.wgD g).lin % 2 = 0 then [g, o] else [o, g]

/-- The workgroup that holds the transaction: the even half of a pair (R288). -/
def State.txHome (s : State) (g : Nat) : Nat := (s.halves g).headD g

/-- The waves of a workgroup that are live: neither ended nor discarded (R56). -/
def State.liveWaves (s : State) (g : Nat) : List Nat := (s.wgD g).waves.filter fun u => (s.waveD u).st != .ended

/-- Slots of a wave that are live (R52). -/
def Wave.liveMask (w : Wave) : BitVec 32 := maskOf ((List.range 32).filter fun i => (w.strands.getD i {}).live)

/-- The wave is resident on its core and holds registers (R17): running or halted. -/
def Wave.resident (w : Wave) : Bool := w.st == .running || w.st == .halted

/-- Waves that stand on a core: uid and record. -/
def State.wavesOn (s : State) (core : Nat) : List (Nat × Wave) :=
  s.waves.filter fun e => (s.wgD e.2.wg).core == core && (s.wgD e.2.wg).st != .swapped

/-- Registers of the core's pool reserved by no wave (R17, R309). -/
def State.regFree (s : State) (core : Nat) : Nat :=
  65536 - ((s.wavesOn core).filter (·.2.resident)).foldl (fun n e => n + 32 * e.2.win) 0

/-! ## Strands, paths -/

/-- A strand slot of a wave. -/
def Wave.strand (w : Wave) (i : Nat) : Strand := w.strands.getD i {}

/-- Change the strands of a mask. -/
def Wave.updStrands (w : Wave) (m : BitVec 32) (f : Nat → Strand → Strand) : Wave :=
  { w with strands := w.strands.setAll ((slotsOf m).map fun i => (i, f i (w.strand i))) }

/-- Whether an address is the start of a fetch window (R29). -/
def atWindow (a : BitVec 64) : Bool := a.toNat % 32 == 0

/-- Where a path stands that continues at an address by falling through. -/
def edgeAt (a : BitVec 64) : Edge := if atWindow a then .window else .mid

/-- Where a path stands after an event of R39 that is no transfer. -/
def edgeAfter (a : BitVec 64) : Edge := if atWindow a then .window else .event

/-- The path of a creation number. -/
def Wave.path? (w : Wave) (b : Nat) : Option Path := w.paths.find? (·.born == b)

/-- Change a path. -/
def Wave.updPath (w : Wave) (b : Nat) (f : Path → Path) : Wave :=
  { w with paths := w.paths.map fun p => if p.born == b then f p else p }

/-- The address of a path: the program counter of its lowest strand (R54). -/
def Wave.pathPc (w : Wave) (p : Path) : BitVec 64 := (w.strand ((slotsOf p.mask).headD 0)).pc

/-- The turn of the issuing path ends (R60): the next turn goes to the next path after it that can issue, which
`step` picks. -/
def Wave.endTurn (w : Wave) : Wave := { w with turnOver := true }

/-- Take a path out of the path order; where it had the turn, the turn passes to the path after it (R60). -/
def Wave.dropPath (w : Wave) (b : Nat) : Wave :=
  let before := (w.paths.takeWhile fun p => p.born != b).getLast?
  let w' := { w with paths := w.paths.filter fun p => p.born != b }
  if w.turnOf == some b then { w' with turnOf := before.map (·.born), turnOver := true } else w'

/-! ## Free values -/

/-- Count a drawn free value. -/
def State.drew (s : State) (n : Nat) : State := { s with free := s.free + n }

end Sys2Proof.Machine
end

