-- ==== Sys2Proof/Machine/Lifecycle.lean ====
section
/-! DEFINITION. Machine/Lifecycle.lean: how waves, attempts, workgroups and tasks end: R56, R198, R215, R237, R265, R300,
R333, R386. -/

namespace Sys2Proof.Machine

/-! ## Tile-table entries (R198) -/

/-- A handle of a workgroup, an entry of a queue, or a sibling group that is not yet dispatched holds the tile. -/
def State.tileHeld (s : State) (t : Nat) : Bool :=
  s.wgs.any (fun e => e.2.handles.any (·.2 == t) || e.2.queues.any fun q => q.2.tiles.any (·.2 == t)) ||
  s.cqueues.any (fun q => q.2.tiles.any (·.2 == t)) ||
  s.grids.any fun e => match e.2.kind with
    | .siblings _ _ shared => shared.any (·.2 == t)
    | _ => false

/-- Free the entry when its tile was released, nothing reads it and no fill or store is in progress (R198). -/
def State.settleTile (s : State) (t : Nat) : State :=
  match s.tiles.get? t with
  | none => s
  | some x =>
    if x.released && x.refs == 0 && (x.st == .empty || x.st == .ready) && !x.vers then { s with tiles := s.tiles.del t }
    else s

/-- The last handle of a tile may have gone (R221). -/
def State.dropHold (s : State) (t : Nat) : State :=
  if s.tileHeld t then s else (s.updTile t fun x => { x with released := true }).settleTile t

/-- Unbind a handle, as `TREL` does (R221). -/
def State.unbind (s : State) (g h : Nat) : State :=
  match (s.wgD g).handles.get? h with
  | none => s
  | some t => (s.updWg g fun w => { w with handles := w.handles.del h, shared := w.shared &&& ~~~slotBit h }).dropHold t

/-- One reader of a tile less (R197 REFS). -/
def State.unref (s : State) (t : Nat) : State := (s.updTile t fun x => { x with refs := x.refs - 1 }).settleTile t

/-- Shared tiles of a sibling grid. -/
def Grid.sharedTiles (g : Grid) : List (Nat × Nat) := match g.kind with | .siblings _ _ l => l | _ => []

/-- A sibling of a grid is gone: REFS of each shared tile falls by one (R353). -/
def State.unshare (s : State) (k : Nat) : State := (s.gridD k).sharedTiles.foldl (fun s x => s.unref x.2) s

/-- One reader of a tile more. -/
def State.addRef (s : State) (t : Nat) : State := s.updTile t fun x => { x with refs := x.refs + 1 }

/-! ## Engine entries (R56, R237, R239) -/

/-- Tiles that a command reads, and that REFS counts from its posting to its completion (R239). -/
def MxCmd.reads : MxCmd → List Nat
  | .mzero _ _ _ => []
  | .mldc _ _ _ _ _ ts => [ts]
  | .mma _ _ ta tb tc _ _ => [ta, tb, tc].filterMap id
  | .mdrain _ _ _ _ _ _ => []
  | .mnmsel _ _ ts => [ts]

/-- Tiles that a drain or an `MNMSEL` fills, which REFS counts from its posting to its grant (R239). -/
def MxCmd.fills : MxCmd → List Nat
  | .mdrain o td tt tq _ _ => [if o.origin.isNone then td else none, tt, tq].filterMap id
  | .mnmsel _ td _ => [td]
  | _ => []

/-- Take an entry out of its reservation table. -/
def State.removeEntry (s : State) (k : Nat) : State :=
  match s.entries.get? k with
  | none => s
  | some e =>
    let s := (e.cmd.reads.foldl State.unref { s with entries := s.entries.del k })
    if e.granted == 0 then e.cmd.fills.foldl State.unref s
    else e.cmd.fills.foldl (fun s t =>
      (s.updTile t fun x => if x.st == .filling then { x with st := .ready } else x).settleTile t) s

/-- Free the accumulator slots a wave holds (R237): their contents are discarded. -/
def State.freeSlots (s : State) (c u : Nat) : State :=
  s.updEngine c fun e =>
    let e := if e.hold0 == some u then { e with hold0 := none, acc0 := [] } else e
    if e.hold1 == some u then { e with hold1 := none, acc1 := [] } else e

/-- Free the slots of a wave that has ended or been dropped once no entry of it is left (R237, R238). -/
def State.settleSlots (s : State) (c u : Nat) : State :=
  if ((s.waveD u).st == .ended || (s.waveD u).st == .dropped) && !(s.entries.any fun e => e.2.wave == u) then s.freeSlots c u else s

/-- What the end of a wave does to the engine (R56): entries not yet granted are removed, a granted `MMA` or `MMAP` stops
at its current pass, other granted commands complete, and the baton is released. -/
def State.endEngine (s : State) (c u : Nat) : State :=
  let gone := (s.entries.filter fun e => e.2.wave == u && e.2.granted == 0).map (·.1)
  let s := gone.foldl State.removeEntry s
  let s := { s with entries := s.entries.mapVals fun _ e => if e.wave == u then { e with total := e.granted } else e }
  let s := if (s.engineD c).baton == some u then s.updEngine c fun e => { e with baton := none } else s
  s.settleSlots c u

/-! ## Barriers (R215, R299, R300) -/

/-- Complete the phase of a transaction barrier when its condition holds (R215). -/
def TxBar.test (b : TxBar) : TxBar :=
  if b.part != 0 && b.arrived == b.part && b.bytes == 0 then { b with gen := b.gen + 1, arrived := 0, bytes := 0 } else b

/-- A wave that ends leaves a transaction barrier (R215). -/
def TxBar.leave (b : TxBar) (i : Nat) : TxBar :=
  TxBar.test { b with part := b.part &&& ~~~slotBit i, arrived := b.arrived &&& ~~~slotBit i }

/-- The wave's strands that have arrived at a named barrier. -/
def NamedBar.maskOf (b : NamedBar) (u : Nat) : BitVec 32 :=
  (b.arrived.filter (·.1 == u)).foldl (fun m e => m ||| e.2) 0

/-- The waves that have arrived: those whose every live strand has (R300). One that has been dropped has if it had then. -/
def State.arrivedWaves (s : State) (g : Nat) (b : NamedBar) : List Nat :=
  (s.liveWaves g).filter fun u =>
    if (s.waveD u).st == .dropped then b.waves.contains u else (s.waveD u).liveMask &&& ~~~b.maskOf u == 0

/-- Strands of a wave that have ended are removed from a barrier's count (R300). -/
def NamedBar.without (b : NamedBar) (u : Nat) (ended : BitVec 32) : NamedBar :=
  { b with arrived := b.arrived.map fun a => if a.1 == u then (u, a.2 &&& ~~~ended) else a }

/-- Strands of a wave end: every barrier of the workgroup counts without them. -/
def State.leaveBars (s : State) (g u : Nat) (ended : BitVec 32) : State :=
  s.updWg g fun w => { w with bars := w.bars.mapVals fun _ b => b.without u ended }

/-- The completion test of a phase (R300). -/
def State.barDone (s : State) (g : Nat) (b : NamedBar) : Bool :=
  match b.kind with
  | none => false
  | some none => !(s.liveWaves g).isEmpty && (s.arrivedWaves g b).length == (s.liveWaves g).length
  | some (some n) => n ≤ (s.arrivedWaves g b).length

/-- A path leaves its wait: the instruction retires (R74) and the path stands at the next one, just after an event of
R39. -/
def Wave.leaveWait (w : Wave) (b : Nat) : Wave :=
  match w.path? b with
  | none => w
  | some p =>
    let w := w.updStrands p.mask fun _ st => { st with pc := p.next, latN := 0 }
    { w.updPath b fun p => { p with wait := .none, edge := edgeAfter p.next, turn := p.turn + 1 } with
      icount := w.icount + 1, roundN := w.roundN + 1 }

/-- Every path of a wave that waits at barrier `id` leaves its wait. -/
def Wave.leaveBar (w : Wave) (id : Nat) : Wave :=
  ((w.paths.filter fun p => p.wait == .barrier id).map (·.born)).foldl Wave.leaveWait w

/-- The wave has joined the open attempt (R260). -/
def State.inAttempt (s : State) (w : Wave) : Bool :=
  w.joined && (s.wgD (s.txHome w.wg)).tx.st != .none && (s.wgD (s.txHome w.wg)).tx.st != .done

/-- Record the waves that have arrived (R299); a wave that arrives sets DEFER in its strands, outside an attempt (R316,
R388). -/
def State.noteArrivals (s : State) (g id : Nat) : State :=
  match (s.wgD g).bars.get? id with
  | none => s
  | some b =>
    let now := s.arrivedWaves g b
    let s := s.updWg g fun w => { w with bars := w.bars.set id { b with waves := now } }
    (now.filter fun u => !b.waves.contains u).foldl (fun s u =>
      if s.inAttempt (s.waveD u) then s
      else s.updWave u fun w => w.updStrands w.liveMask fun _ st => { st with defer := true }) s

/-- Repeat the completion test of one named barrier; completion releases the waiting strands and steps the generation. -/
def State.checkBar (s : State) (g id : Nat) : State :=
  let s := s.noteArrivals g id
  match (s.wgD g).bars.get? id with
  | none => s
  | some b =>
    if s.barDone g b then
      let s := s.updWg g fun w => { w with bars := w.bars.set id { gen := b.gen + 1 } }
      (s.wgD g).waves.foldl (fun s u => s.updWave u fun w => w.leaveBar id) s
    else s

/-- Repeat the completion test of every named barrier. -/
def State.checkBars (s : State) (g : Nat) : State := (List.range 16).foldl (fun s i => s.checkBar g i) s

/-! ## Waves -/

/-- The workgroup ends when its last wave has ended (R56); it retires once its children have (R22). -/
def State.closeWg (s : State) (g : Nat) : State :=
  if (s.wgD g).waves.all fun u => (s.waveD u).st == .ended then s.updWg g fun w => { w with st := .ended } else s

/-- End a wave (R56): loads in flight are cancelled, waits and claims are withdrawn (R316, R311), its engine entries and
baton go (R237), it leaves the barriers (R215, R300), and its registers return to the pool (R17). Stores, atomics and
copies already issued complete. -/
def State.endWave (s : State) (u : Nat) : State :=
  let w := s.waveD u
  if w.st == .ended then s else
  let s := s.updWave u fun w =>
    { w with
      st := .ended, paths := [], turnOf := none, rpred := [],
      strands := w.strands.mapVals fun _ st => { st with live := false, defer := false } }
  let s := { s with
    loads := s.loads.keep fun _ l => l.wave != u
    waiters := s.waiters.keep fun _ x => x.wave != u
    claims := s.claims.mapVals fun _ q => q.filter fun c => c.1 != u }
  let s := s.endEngine (clusterOf (s.coreOf w)) u
  let out := fun (_ : Nat) (b : NamedBar) =>
    { b with arrived := b.arrived.filter fun a => a.1 != u, waves := b.waves.filter fun v => v != u }
  let s := s.updWg w.wg fun g =>
    { g with tbars := g.tbars.mapVals fun _ b => b.leave w.idx, bars := g.bars.mapVals out }
  (s.checkBars w.wg).closeWg w.wg

/-! ## Attempts (R265, R227) -/

/-- Remove every engine entry of a workgroup's waves, at once, and free their slots and the baton (R237, R258). -/
def State.dropEngine (s : State) (g : Nat) : State :=
  let c := clusterOf (s.wgD g).core
  let s := ((s.entries.filter fun e => e.2.wg == g).map (·.1)).foldl State.removeEntry s
  (s.wgD g).waves.foldl (fun s u =>
    let s := s.freeSlots c u
    if (s.engineD c).baton == some u then s.updEngine c fun e => { e with baton := none } else s) s

/-- Cancel the copies that the attempt issued (R227): no tile takes ERR from it. -/
def State.dropCopies (s : State) (g : Nat) : State :=
  let mine := s.copies.filter fun e => e.2.wg == g && e.2.inTx
  mine.foldl (fun s e =>
    let s := { s with copies := s.copies.del e.1 }
    let stop := fun (x : Tile) => if x.st == .filling || x.st == .draining then { x with st := .ready } else x
    let s := (s.updTile e.2.tile stop).settleTile e.2.tile
    match e.2.kind with
    | .plane src => s.unref src
    | _ => s) s

/-- Handles and tiles return to what they were when the attempt opened (R227). -/
def State.revertTiles (s : State) (g : Nat) : State :=
  let x := (s.wgD g).tx
  if x.st == .none then s else
  let now := (s.wgD g).handles
  let s := s.updWg g fun w => { w with handles := x.binds }
  let s := x.snaps.foldl (fun s e => { s with tiles := s.tiles.set e.1 { e.2 with refs := (s.tileD e.1).refs, released := false } }) s
  now.foldl (fun s e => s.dropHold e.2) s

/-- Steps 1 and 2 of R265 for one half: every wave and every version is discarded, with engine entries, slots, held
updates and the baton; R227 applies. The workgroup's queues stay as the attempt left them (R317). -/
def State.discardHalf (s : State) (g : Nat) : State :=
  let s := (s.wgD g).waves.foldl State.endWave s
  let s := ((s.dropEngine g).dropCopies g).revertTiles g
  s.updWg g fun w => { w with tbars := [], bars := [], ver := [], staged := [], maxes := [] }

/-- The transaction after its attempt has gone: rung, counters and gate start again. -/
def Tx.restart (x : Tx) (rung : BitVec 2) (sw : Bool) : Tx :=
  { x with
    st := .none, rung := rung, early := false, n := 0, u := 0, td := 0, half := 0, nf := 0, gate := none, gated := false,
    swUp := false, toptrip := false, writes := [], maxes := [], binds := [], snaps := [],
    status := (x.status &&& 0x800) ||| (if sw then 0x100 else 0) }

/-- Discard an attempt (or the waves of a transactional workgroup before it), for both halves of a pair (R265, R288). -/
def State.discardAttempt (s : State) (g : Nat) : State := (s.halves g).foldl State.discardHalf s

/-- Discard the attempt and requeue the workgroup at a rung (R265 steps 3 and 4, R266). -/
def State.requeue (s : State) (g : Nat) (rung : BitVec 2) (sw : Bool) : State :=
  (s.halves g).foldl (fun s h => s.updWg h fun w => { w with st := .replay, misalign := false, tx := w.tx.restart rung sw })
    (s.discardAttempt g)

/-- The workgroup is transactional and its transaction has not ended (R261, R266). -/
def State.txPending (s : State) (g : Nat) : Bool := s.isTxn g && (s.wgD (s.txHome g)).tx.st != .done

/-! ## Killing (R386, R333) -/

/-- Kill a workgroup, as `TRET` 2 does: every wave is discarded, uncommitted versions are discarded, and the workgroup
retires once its children have; its grid retires PARTIAL (R386). -/
def State.killWg (s : State) (g : Nat) : State :=
  let s := if s.txPending g then s.discardAttempt g
    else (s.halves g).foldl (fun s h => (s.wgD h).waves.foldl State.endWave s) s
  (s.halves g).foldl (fun s h => s.updWg h fun w => { w with st := .ended, killed := true, misalign := false }) s

/-- Workgroups of a grid that have not ended. -/
def State.liveWgs (s : State) (k : Nat) : List Nat := (s.wgs.filter fun e => e.2.grid == k && e.2.st != .ended).map (·.1)

/-- Take a grid out of the queues of its context. -/
def State.unqueue (s : State) (k : Nat) : State :=
  let g := s.gridD k
  s.updCtx g.ctx fun c => { c with queues := c.queues.mapVals fun _ q =>
    { q with kids := q.kids.filter (· != k), recs := q.recs.filter (· != k) } }

/-- Number of workgroups of a grid (R320). -/
def Grid.size (g : Grid) : Nat := g.lrec.nx * g.lrec.ny * g.lrec.nz

/-- The task of a workgroup is killed: its versions are discarded and it retires with KILLED (R333). -/
def State.killTask (s : State) (g d : Nat) : State :=
  let s := s.killWg g
  let s := s.updWg g fun w => { w with ver := [] }
  let s := s.updDep d fun t => { t with noVer := true, status := some 6, ver := [] }
  s.updGrid (s.wgD g).grid fun x => { x with killed := true }

/-- Siblings of a grid that retire without running: the unit will cancel them (R354). -/
def Grid.lose (g : Grid) (l : List Nat) : Grid :=
  match g.kind with
  | .siblings _ _ _ => { g with lost := g.lost ++ l }
  | _ => g

/-- End a grid (R386 codes 3 and 4): undispatched workgroups are dropped and running ones are killed. -/
def State.killGrid (s : State) (k : Nat) (aborted : Bool) : State :=
  let s := s.unqueue k
  let s := (s.liveWgs k).foldl (fun s g => match (s.wgD g).task with
    | some d => s.killTask g d
    | none => s.killWg g) s
  let undone := s.deps.filter fun e => e.2.grid == k && e.2.wg.isNone && e.2.st == .waiting
  let waiting := undone.map (·.1)
  let s := s.updGrid k fun g => g.lose (undone.map (·.2.lin))
  let s := waiting.foldl (fun s _ => s.unshare k) { s with deps := s.deps.keep fun i _ => !waiting.contains i }
  let g := s.gridD k
  let undone := if g.started then g.size - g.next else g.size
  let s := s.updGrid k fun g =>
    { g with started := true, retired := g.retired + undone + waiting.length, next := g.size, ready := [] }
  s.updGrid k fun g => if aborted then { g with aborted := true } else { g with killed := true }

/-- What `TRET` 3 does to the workgroup that runs it (R386): for a task R333 applies, else the grid is ended. -/
def State.kill3 (s : State) (g : Nat) : State :=
  match (s.wgD g).task with
  | some d => s.killTask g d
  | none => s.killGrid (s.wgD g).grid false

end Sys2Proof.Machine
end

