-- ==== Sys2Proof/Machine/Ops.lean ====
section
/-! DEFINITION. Machine/Ops.lean: the operations every instruction shares: guards and latches (02_encoding R35, R38, R39),
retiring (03_control R54, R60, R74), waiting, taking an exception and returning from one (14_system R380 to R386, R400),
and the frame in which a meaning runs. -/

namespace Sys2Proof.Machine

/-- What a step answers. -/
abbrev Out := Host.Outcome State Fault Refusal

/-! ## Guards and latches -/

/-- The guard of a strand (R35). -/
def guardOn (g : Guard) (st : Strand) : Bool := (g.p == 0 && !g.neg) || (st.pred.getLsbD g.p.toNat != g.neg)

/-- The enabled strands of a path: those whose guard holds (R57). -/
def Wave.enabled (w : Wave) (mask : BitVec 32) (h : Hd) : BitVec 32 :=
  maskOf ((slotsOf mask).filter fun i => guardOn h.g (w.strand i))

/-- Every latch source is valid for every strand of the path (R39). -/
def latchOk (w : Wave) (mask : BitVec 32) (srcs : List Src) : Bool :=
  srcs.all fun x => match x with
    | .latch i => (slotsOf mask).all fun j => i.toNat < (w.strand j).latN
    | _ => true

/-- Shift the latches and write l0 (R38). -/
def Strand.shift (st : Strand) (x : BitVec 64) : Strand :=
  { st with l0 := x, l1 := st.l0, l2 := st.l1, l3 := st.l2, pushes := st.pushes + 1 }

/-- Shift the latches and write l0 for an instruction of the strand's own path: one more latch is valid (R38, R39). -/
def Strand.push (st : Strand) (x : BitVec 64) : Strand := { st.shift x with latN := min 4 (st.latN + 1) }

/-- Put a value that arrives late into the latch to which it has been shifted (R38): `age` is the count at its issue. -/
def Strand.landLatch (st : Strand) (age : Nat) (x : BitVec 64) : Strand :=
  match st.pushes - age with
  | 0 => { st with l0 := x }
  | 1 => { st with l1 := x }
  | 2 => { st with l2 := x }
  | 3 => { st with l3 := x }
  | _ => st

/-- A latch of a strand. -/
def Strand.latch (st : Strand) (i : BitVec 2) : BitVec 64 :=
  match i.toNat with
  | 0 => st.l0
  | 1 => st.l1
  | 2 => st.l2
  | _ => st.l3

/-! ## Registers -/

/-- Window register `n` of a strand (R36). -/
def Strand.v32 (st : Strand) (n : Nat) : BitVec 32 := st.v.getD n 0
/-- The pair vn:vn+1 of a strand (R32). -/
def Strand.v64 (st : Strand) (n : Nat) : BitVec 64 := (st.v32 (n + 1)) ++ (st.v32 n)
/-- Write a window register. -/
def Strand.setV (st : Strand) (n : Nat) (x : BitVec 32) : Strand := { st with v := st.v.set n x }
/-- Write a pair (R32). -/
def Strand.setV64 (st : Strand) (n : Nat) (x : BitVec 64) : Strand :=
  (st.setV n (x.extractLsb' 0 32)).setV (n + 1) (x.extractLsb' 32 32)
/-- Write a predicate; p0 stays true (R36). -/
def Strand.setP (st : Strand) (p : BitVec 3) (b : Bool) : Strand :=
  if p == 0 then st
  else { st with pred := if b then st.pred ||| BitVec.ofNat 16 (2 ^ p.toNat) else st.pred &&& ~~~BitVec.ofNat 16 (2 ^ p.toNat) }
/-- A uniform register (R36). -/
def Wave.sreg (w : Wave) (n : Nat) : BitVec 64 := w.s.getD n 0
/-- Write a uniform register. -/
def Wave.setS (w : Wave) (n : Nat) (x : BitVec 64) : Wave := { w with s := w.s.set n x }

/-! ## Retiring -/

/-- What retirement counts: one instruction of the wave, of its round and of the path's turn (R60, R74, R339). -/
def Wave.count (w : Wave) (b : Nat) (edge : Edge) : Wave :=
  { w.updPath b fun p => { p with wait := .none, edge := edge, turn := p.turn + 1 } with
    icount := w.icount + 1, roundN := w.roundN + 1 }

/-- Continue a strand at an address; the end of a fetch window ends latch validity (R39). -/
def Strand.goOn (st : Strand) (next : BitVec 64) : Strand :=
  { st with pc := next, latN := if atWindow next then 0 else st.latN }

/-- Retire the issuing instruction: change the strands of the path, then continue all of them at the fall-through. -/
def Wave.retire (w : Wave) (c : Issue) (f : Nat → Strand → Strand) : Wave :=
  (w.updStrands c.mask fun i st => (f i st).goOn c.next).count c.path (edgeAt c.next)

/-- The l0 value of a strand whose guard is false: its destination's unchanged value, or zero with NWB (R38). -/
def keptLatch (w : Wave) (nwb : Bool) (d : Dst) (w64 : Bool) (st : Strand) : BitVec 64 :=
  if nwb then 0
  else if d.s then w.sreg d.n.toNat
  else if w64 then st.v64 d.n.toNat
  else (st.v32 d.n.toNat).zeroExtend 64

/-- A 64-bit value as a result of the given width goes to l0: zero-extended when it is 32 bits wide (R38). -/
def latchVal (w64 : Bool) (x : BitVec 64) : BitVec 64 := if w64 then x else (x.extractLsb' 0 32).zeroExtend 64

/-- A result as an s register receives it (R32). -/
def sVal (w64 sgn : Bool) (x : BitVec 64) : BitVec 64 :=
  if w64 then x else if sgn then (x.extractLsb' 0 32).signExtend 64 else (x.extractLsb' 0 32).zeroExtend 64

/-- Write a result to the v destination of a strand. -/
def Strand.setD (st : Strand) (w64 : Bool) (n : Nat) (x : BitVec 64) : Strand :=
  if w64 then st.setV64 n x else st.setV n (x.extractLsb' 0 32)

/-- The latches of the live strands outside the path shift as those of a strand whose guard is false (R38, R57); `w0` is the
wave before the instruction. None of them is valid (R66). -/
def Wave.shiftOut (w w0 : Wave) (mask : BitVec 32) (nwb : Bool) (d : Dst) (w64 : Bool) : Wave :=
  w.updStrands (w0.liveMask &&& ~~~mask) fun _ st => st.shift (keptLatch w0 nwb d w64 st)

/-- Retire an instruction that produces a latch value (R38): the enabled strands get `f`, in their v destination or,
for an s destination, in the uniform register (then `f` is the same for every strand). -/
def Wave.retireData (w : Wave) (c : Issue) (e : BitVec 32) (nwb : Bool) (d : Dst) (w64 sgn : Bool)
    (f : Nat → BitVec 64) : Wave :=
  (if d.s then
    if e == 0 then w.retire c fun _ st => st.push (keptLatch w nwb d w64 st)
    else
      let x := f ((slotsOf e).headD 0)
      let w' := w.retire c fun _ st => st.push (latchVal w64 x)
      if nwb then w' else w'.setS d.n.toNat (sVal w64 sgn x)
  else
    w.retire c fun i st =>
      if e.getLsbD i then
        let st' := if nwb then st else st.setD w64 d.n.toNat (f i)
        st'.push (latchVal w64 (f i))
      else st.push (keptLatch w nwb d w64 st)).shiftOut w c.mask nwb d w64

/-- Retire an instruction that produces no latch value: `f` changes the enabled strands. -/
def Wave.retireWith (w : Wave) (c : Issue) (e : BitVec 32) (f : Nat → Strand → Strand) : Wave :=
  w.retire c fun i st => if e.getLsbD i then f i st else st

/-- Retire an instruction of the blocking set: it ends latch validity (R39), which is a point of pre-emption (R67). -/
def Wave.retireBlock (w : Wave) (c : Issue) (f : Wave → Wave) : Wave :=
  ((f w).updStrands c.mask fun _ st => { st with pc := c.next, latN := 0 }).count c.path (edgeAfter c.next)

/-- Retire an instruction of the blocking set that produces a latch value: it ends earlier lifetimes, and its own value is the
one that is valid (R38, R39). -/
def Wave.retireBlockData (w : Wave) (c : Issue) (e : BitVec 32) (nwb : Bool) (d : Dst) (w64 : Bool) (x : BitVec 64) : Wave :=
  ((w.retireData c e nwb d w64 false fun _ => x).updStrands c.mask fun _ st => { st with latN := min st.latN 1 }).updPath c.path
    fun p => { p with edge := edgeAfter c.next }

/-- An instruction that served these strands sets their DEFER flags, outside an attempt (R388). -/
def Wave.defer (w : Wave) (m : BitVec 32) : Wave := w.updStrands m fun _ st => { st with defer := true }

/-- Set DEFER unless an attempt is open (R388). -/
def State.deferIn (s : State) (w : Wave) (m : BitVec 32) : Wave := if s.inAttempt w then w else w.defer m

/-! ## Taking an exception and returning from one -/

/-- How a trap stands to the instruction at which it is taken (R383); the address is the one TRAPPC holds. -/
inductive TrapKind where
  | precise
  | deferred (pc : BitVec 64)
  | imprecise (pc : BitVec 64)
  deriving DecidableEq, Repr

/-- TRAPPC of a trap (R383). -/
def TrapKind.pcOf (k : TrapKind) (here : BitVec 64) : BitVec 64 :=
  match k with
  | .precise => here
  | .deferred p => p
  | .imprecise p => p

/-- A trap without address or information. -/
def trapOf (c : Cause) : Trap := { cause := c }
/-- ILLEGAL_OPERAND that names a field (R41). -/
def badField (f : FieldCode) : Trap := { cause := .illegalOperand, info := BitVec.ofNat 64 f.num }

/-- The cause of a handler fault or of an unhandled trap goes to the context's error record (R384, R412). -/
def State.recordTrap (s : State) (cx : Nat) (c : Cause) (pc : BitVec 64) : State :=
  s.updErr cx fun e => { e with cause := BitVec.ofNat 8 c.code, trappc := pc }

/-- Stop a wave as `HALT` does and report it (R380, R403): every path stops, the issuing one after the instruction. -/
def State.haltWave (s : State) (c : Issue) (code : BitVec 64) : State :=
  let w := s.waveD c.wave
  let s := s.updWave c.wave fun w =>
    { (w.updStrands c.mask fun _ st => { st with pc := c.next, latN := 0 }).updPath c.path fun p =>
        { p with wait := .none, edge := edgeAfter c.next } with st := .halted }
  let s := s.updErr (s.ctxOf w.wg) fun e =>
    { e with halt := code, haltPc := c.pc, core := BitVec.ofNat 10 (s.coreOf w), wave := BitVec.ofNat 5 w.idx }
  s.updHub fun h => { h with halts := h.halts ++ [(s.ctxOf w.wg, s.coreOf w, w.idx, c.pc, code)] }

/-- TRAPSTAT of a trap (R385). -/
def trapStat (k : TrapKind) (intx det : Bool) (mask : BitVec 32) : BitVec 40 :=
  mask ++ (0 : BitVec 4) ++ BitVec.ofBool det ++ BitVec.ofBool intx ++
    BitVec.ofBool (match k with | .deferred _ => true | _ => false) ++
    BitVec.ofBool (match k with | .imprecise _ => true | _ => false)

/-- The handler's entry address (R385). -/
def handlerEntry (trapbase : BitVec 64) : BitVec 64 := trapbase &&& 0x00FFFFFFFFFFFFE0

/-- Trap entry at level 0 with the handler enabled (R382): the other paths stop, predicate words are saved and set to
0x0001, latches become invalid, the trap CSRs are written, PRIV becomes 1 and the path continues at TRAPBASE. -/
def Wave.enterTrap (w : Wave) (c : Issue) (t : Trap) (k : TrapKind) (intx det : Bool) (base : BitVec 64) : Wave :=
  let w' := w.updStrands c.mask fun _ st => { st with pred := 1, latN := 0, pc := handlerEntry base }
  { w'.updPath c.path fun p => { p with wait := .none, edge := .window } with
    saved := (slotsOf c.mask).map fun i => (i, (w.strand i).pred)
    stopped := (w.paths.filter fun p => p.born != c.path).map (·.born)
    turnOf := some c.path
    turnOver := false
    trapcause := BitVec.ofNat 8 t.cause.code
    trappc := k.pcOf c.pc
    trapaddr := t.addr
    trapinfo := t.info
    trapstat := trapStat k intx det c.mask
    rp := c.pc
    rpNext := c.next
    rpNoLen := c.noLen
    priv := 1 }

/-- Take an exception (R382 to R384, R380): a trap at level 2 halts the wave; one at level 1 is a handler fault, which
kills the workgroup; at level 0 it enters the handler, or, with TRAPBASE.EN clear, acts as `TRET` 3. -/
def State.takeTrap (s : State) (c : Issue) (t : Trap) (k : TrapKind) : State :=
  let w := s.waveD c.wave
  let cx := s.ctxOf w.wg
  let base := (s.ctxD cx).trapbase
  if w.priv == 2 then s.haltWave c (BitVec.ofNat 64 t.cause.code)
  else if w.priv == 1 then (s.recordTrap cx t.cause (k.pcOf c.pc)).killWg w.wg
  else if !base.getLsbD 0 then (s.recordTrap cx t.cause (k.pcOf c.pc)).kill3 w.wg
  else s.updWave c.wave fun w => w.enterTrap c t k (s.inAttempt w) (s.isDet w.wg) base

/-- The return of `TRET` 0 and 1 (R386, R400): the strands of PMASK get their predicate words back and continue at `dest` as
one path, PRIV becomes 0 and the other paths issue again. -/
def Wave.leaveTrap (w : Wave) (c : Issue) (dest : BitVec 64) : Wave :=
  let m := (w.trapstat.extractLsb' 8 32 ||| c.mask) &&& w.liveMask
  let w' := w.updStrands m fun i st => { st with pred := w.saved.getD i st.pred, latN := 0, pc := dest }
  let ps := w'.paths.map fun p => if p.born == c.path then { p with mask := m } else { p with mask := p.mask &&& ~~~m }
  { ({ w' with paths := ps.filter fun p => p.mask != 0 }.count c.path .window) with
    priv := 0, stopped := [], saved := [] }

/-- The issue that stands at a waiting path: its instruction's address and fall-through. -/
def Wave.issueAt (w : Wave) (u b : Nat) : Issue :=
  let p := (w.path? b).getD blankPath
  { wave := u, path := b, mask := p.mask, pc := w.pathPc p, next := p.next }

/-- Deadlock of the register pool (R312): when every live wave of the workgroup waits in `REGCLAIM` and none of their
claims can be met, the wave of the oldest claim traps and its claim is withdrawn. -/
def State.checkClaims (s : State) (g : Nat) : State :=
  let core := (s.wgD g).core
  let q := s.claims.getD core []
  let live := s.liveWaves g
  let mine := q.filter fun x => live.contains x.1
  let free := s.regFree core
  match mine with
  | [] => s
  | (u, b, n) :: _ =>
    if live.all (fun v => mine.any (·.1 == v)) && mine.all (fun x => free < 32 * x.2.2) then
      let s := { s with claims := s.claims.set core (q.filter fun x => x.1 != u) }
      let info := BitVec.ofNat 64 (free % 2 ^ 17 + n % 256 * 2 ^ 17)
      s.takeTrap ((s.waveD u).issueAt u b) { cause := .registerDeadlock, info := info } .precise
    else s

/-- A wave ends (R56), and the deadlock test is repeated (R312). -/
def State.endWaveChecked (s : State) (u : Nat) : State := (s.endWave u).checkClaims (s.waveD u).wg

/-! ## The frame of a meaning -/

/-- What a meaning answers: a state in which the instruction has retired or acted, a trap with no effect, a wait (`set`:
in the blocking set) with no effect, or a stop at a staging point of the release round (R340). -/
inductive Ans where
  | next (s : State)
  | trap (t : Trap)
  | wait (set : Bool)
  /-- A stall during which the wave may be dropped (R388). -/
  | waitOpen
  | stage
  deriving DecidableEq, Repr

/-- A path waits in an instruction of the blocking set: a point of pre-emption (R67). -/
def Path.hold (p : Path) (c : Issue) (x : Wait) : Path :=
  { p with wait := x, edge := if p.edge == .mid then .event else p.edge, next := c.next }

/-- The path waits at its instruction (R59, R60). A stall keeps the turn in deterministic mode and while a latch is live;
a wait of the blocking set ends latch validity and the turn. -/
def State.waitAt (s : State) (c : Issue) (set : Bool) : State :=
  s.updWave c.wave fun w =>
    let live := (slotsOf c.mask).any fun i => 0 < (w.strand i).latN
    let w' := w.updPath c.path fun p =>
      { (if set then p.hold c (.retry true) else { p with wait := .retry false, next := c.next }) with tried := s.tick }
    if set then (w'.updStrands c.mask fun _ st => { st with latN := 0 }).endTurn
    else if live || s.isDet w.wg then w' else w'.endTurn

/-- The path stops at a staging point (R339). -/
def State.stageAt (s : State) (c : Issue) : State :=
  s.updWave c.wave fun w => (w.updPath c.path fun p => { p with wait := .staged, next := c.next, tried := s.tick }).endTurn

/-- Carry out an answer. -/
def State.answer (s : State) (c : Issue) (a : Ans) : State :=
  match a with
  | .next t => { t with cur := none, tick := t.tick + 1 }
  | .trap t => { s.takeTrap c t .precise with cur := none, tick := s.tick + 1 }
  | .wait b => { s.waitAt c b with cur := none }
  | .waitOpen =>
    { (s.waitAt c false).updWave c.wave fun w => w.updPath c.path fun p => { p with edge := if p.edge == .mid then .event else p.edge }
      with cur := none }
  | .stage => { s.stageAt c with cur := none, tick := s.tick + 1 }

/-- Run a meaning on the issuing path: latch validity first (R40 step 8), then the meaning with the enabled strands. -/
def perform (s : State) (h : Hd) (srcs : List Src) (k : Issue → Wave → BitVec 32 → Ans) : Out :=
  match s.cur with
  | none => .fault .noIssuingWave
  | some c =>
    let w := s.waveD c.wave
    if latchOk w c.mask srcs then .next (s.answer c (k c w (w.enabled c.mask h)))
    else .next (s.answer c (.trap (trapOf .staleLatch)))

/-- Change the issuing wave and nothing else. -/
def State.put (s : State) (c : Issue) (f : Wave → Wave) : State := s.updWave c.wave f

/-- An answer that changes only the issuing wave. -/
def State.done (s : State) (c : Issue) (f : Wave → Wave) : Ans := .next (s.put c f)

/-- A collective instruction needs every live strand in the path with its guard true (R85). -/
def Wave.converged (w : Wave) (e : BitVec 32) : Bool := e == w.liveMask

/-- What an instruction may do with respect to a transaction: `pre`, before the wave's `TXBEGIN` (R261); `within`, inside
an attempt (R263). A SCALE_MISALIGN handler of a discarded attempt comes after a `TXBEGIN` (R291, log 16). -/
def State.txTrap (s : State) (w : Wave) (pre within : Bool) : Option Trap :=
  if s.inAttempt w then
    if within then none else some (trapOf .txUndeclaredStore)
  else if s.txPending w.wg && !pre && !(s.wgD (s.txHome w.wg)).misalign then some { cause := .txUndeclaredStore, info := 1 }
  else none

/-- Trap with what earlier lines of the pseudocode changed (R5, R383). -/
def trapAfter (s : State) (c : Issue) (t : Trap) : Ans := .next (s.takeTrap c t .precise)

/-- Carry on unless a check traps. -/
def guardTrap (t : Option Trap) (k : Ans) : Ans := match t with | some t => .trap t | none => k

/-- Carry on with the value of a check, or trap. -/
def andThen {α : Type} (x : Except Trap α) (k : α → Ans) : Ans := match x with | .error t => .trap t | .ok a => k a

end Sys2Proof.Machine
end

