-- ==== Sys2Proof/Machine/Start.lean ====
section
/-! DEFINITION. Machine/Start.lean: room on a core (01_machine R17, R18, 03_control R68, 11_sync R311), and the state of a wave
when it starts (02_encoding R36, R50, 03_control R52, R70, 12_tasks R323). -/

namespace Sys2Proof.Machine

/-! ## Room on a core -/

/-- Local store that a workgroup of a header takes (R68). -/
def Header.localTotal (h : Header) : Nat := h.localSz + h.waves * 2704

/-- Workgroups that hold local store on a core: all but those saved, or waiting to be dispatched again. -/
def State.wgsOn (s : State) (core : Nat) : List (Nat × Wg) :=
  s.wgs.filter fun e => e.2.core == core && e.2.st != .saved && e.2.st != .swapped && e.2.st != .replay

/-- Local store in use on a core: an ended workgroup has given its own back. -/
def State.localUsed (s : State) (core : Nat) : Nat :=
  ((s.wgsOn core).filter fun e => e.2.st != .ended).foldl
    (fun n e => n + match (s.gridD e.2.grid).hdr with | some h => h.localTotal | none => 0) 0

/-- Wave slots in use on a core (R17, R22): a workgroup keeps its wave slots until it retires. -/
def State.slotsOn (s : State) (core : Nat) : Nat :=
  ((s.wgsOn core).filter fun e => e.2.st != .dropped).foldl (fun n e => n + e.2.waves.length) 0

/-- The core has room for a workgroup of a header (R17, R68, R311). -/
def State.roomFor (s : State) (h : Header) (core : Nat) : Bool :=
  s.slotsOn core + h.waves ≤ 64 && h.waves * h.wregs * 32 ≤ s.regFree core &&
  s.localUsed core + h.localTotal ≤ 196608 && (s.claims.getD core []).isEmpty

/-- A workgroup that stayed in place has room on its own core when its wave slots and registers are there (R387). -/
def State.roomBack (s : State) (h : Header) (core : Nat) : Bool :=
  s.slotsOn core + h.waves ≤ 64 && h.waves * h.wregs * 32 ≤ s.regFree core && (s.claims.getD core []).isEmpty

/-- Waves bound to a lane of a core. -/
def State.boundTo (s : State) (core lane : Nat) : Nat :=
  ((s.wavesOn core).filter fun e => e.2.resident && e.2.lane == lane).length

/-- The lane of a wave that is made resident (R18). -/
def State.pickLane (s : State) (det : Bool) (core idx : Nat) : Nat :=
  if det then idx % 32
  else ((List.range 32).foldl (fun (best : Nat × Nat) l =>
    let n := s.boundTo core l
    if n < best.2 then (l, n) else best) (0, s.boundTo core 0)).1

/-! ## Regions (R50, R343) -/

/-- The region of a template at a workgroup's index (R50). -/
def Template.region (t : Template) (x y z : BitVec 32) : Region :=
  { base := t.base + x.zeroExtend 64 * t.stepx + y.zeroExtend 64 * t.stepy + z.zeroExtend 64 * t.stepz
    rows := t.rows, rowBytes := t.rowBytes, pitch := t.pitch, mode := t.mode }

/-- Index of workgroup L of a grid (R320, R343). -/
def Grid.index (g : Grid) (lin : Nat) : BitVec 32 × BitVec 32 × BitVec 32 :=
  match g.kind with
  | .task x y z _ _ _ => (x, y, z)
  | _ => (BitVec.ofNat 32 (lin % g.lrec.nx), BitVec.ofNat 32 (lin / g.lrec.nx % g.lrec.ny),
      BitVec.ofNat 32 (lin / g.lrec.nx / g.lrec.ny))

/-- NWGX, NWGY, NWGZ of a grid (R323): ones for a task. -/
def Grid.shape (g : Grid) : Nat × Nat × Nat :=
  match g.kind with
  | .task _ _ _ _ _ _ => (1, 1, 1)
  | _ => (g.lrec.nx, g.lrec.ny, g.lrec.nz)

/-- Regions declared for a workgroup of a grid, by handle: those of its descriptor, or of the header's templates at its
index, in their order. -/
def Grid.regions (g : Grid) (x y z : BitVec 32) : List (Nat × Region) :=
  match g.kind with
  | .task _ _ _ rs _ _ => rs
  | _ => match g.hdr with
    | some h => h.templs.map fun t => (t.handle, t.region x y z)
    | none => []

/-- Regions declared for a workgroup. -/
def State.regionsOf (s : State) (g : Nat) : List (Nat × Region) := (s.gridOf g).regions (s.wgD g).x (s.wgD g).y (s.wgD g).z

/-! ## Wave start -/

/-- The entry point of a grid's kernel (R49). -/
def Grid.entry (g : Grid) : BitVec 64 := g.lrec.kernel + 64

/-- The s registers at wave start (R323): the record's arguments, in order. -/
def argRegs (args : List (BitVec 64)) : Tab (BitVec 64) := (List.range args.length).zip args

/-- A strand at wave start (R36, R70). -/
def startStrand (entry : BitVec 64) : Strand := { live := true, pc := entry, ckr := { start := entry } }

/-- A wave at wave start (R36, R52, R62, R70, R115), at level 0, or for firmware at level 2 (R380). -/
def State.startWave (s : State) (g idx lane : Nat) : Wave :=
  let k := s.gridOf g
  let n := k.lrec.nstr
  let win := match k.hdr with | some h => h.wregs | none => 4
  let mask := BitVec.ofNat 32 (2 ^ n - 1)
  { wg := g, idx := idx, lane := lane, win := win, win0 := win, s := argRegs k.lrec.args
    priv := if k.firmware then 2 else 0
    strands := (List.range n).map fun i => (i, startStrand k.entry)
    paths := [{ born := 0, mask := mask }], nextBorn := 1, ck := { mask := mask } }

/-- Make the waves of a workgroup resident on a core, one after the other; `f` gives each wave's state. A workgroup that had
waves before keeps their names. -/
def State.seatWaves (s : State) (g core n : Nat) (f : State → Nat → Nat → Wave) : State :=
  let old := (s.wgD g).waves
  let det := s.isDet g
  let s := s.updWg g fun w => { w with core := core }
  let r := (List.range n).foldl (fun (acc : List Nat × State) i =>
    let (u, s) := match old[i]? with
      | some u => (u, acc.2)
      | none => acc.2.newUid
    let lane := s.pickLane det core i
    (acc.1 ++ [u], { s with waves := s.waves.set u { f s i lane with seat := s.tick } })) ([], s)
  r.2.updWg g fun w => { w with waves := r.1 }

/-- Start every wave of a workgroup at the entry point, on a core. -/
def State.startWaves (s : State) (g core : Nat) : State :=
  let n := match s.hdrOf g with | some h => h.waves | none => 0
  s.seatWaves g core n fun s i lane => s.startWave g i lane

end Sys2Proof.Machine
end

