-- ==== Sys2Proof/Machine/Csr.lean ====
section
/-! DEFINITION. Machine/Csr.lean: the control and status registers (02_encoding R45, R46): what each reads as, which level may
access it, which of its fields a write changes and which values it forbids (03_control R62, R74, 04_arithmetic R99, R100,
05_formats R125, 10_transactions R264, R267, R273, 11_sync R309, 12_tasks R323, R337, 13_groups_stamps R357, R358, R361,
R362, R367, 14_system R385, R391). -/

namespace Sys2Proof.Machine

/-! ## Per-context and device registers -/

/-- Numbers of the per-context and device CSRs (R45). -/
def contextCsrs : List Nat :=
  [0x100, 0x101, 0x102, 0x103, 0x104, 0x105, 0x106, 0x107, 0x108, 0x200, 0x300, 0x301, 0x302, 0x303, 0x304]

/-- A per-context CSR. -/
def Ctx.csr (c : Ctx) : Nat → BitVec 64
  | 0x100 => c.seed
  | 0x101 => c.stepv
  | 0x102 => c.decaytab
  | 0x103 => c.sgeps
  | 0x104 => c.txmon
  | 0x105 => c.txpol
  | 0x106 => c.fmtchk
  | 0x107 => c.detctl
  | 0x108 => c.detq
  | 0x200 => c.trapbase
  | 0x300 => c.world
  | 0x301 => c.asid
  | 0x302 => c.ptbase
  | 0x303 => c.migctl
  | _ => 0

/-- Set a per-context CSR. -/
def Ctx.setCsr (c : Ctx) (n : Nat) (x : BitVec 64) : Ctx :=
  match n with
  | 0x100 => { c with seed := x }
  | 0x101 => { c with stepv := x }
  | 0x102 => { c with decaytab := x }
  | 0x103 => { c with sgeps := x }
  | 0x104 => { c with txmon := x }
  | 0x105 => { c with txpol := x }
  | 0x106 => { c with fmtchk := x }
  | 0x107 => { c with detctl := x }
  | 0x108 => { c with detq := x }
  | 0x200 => { c with trapbase := x }
  | 0x300 => { c with world := x }
  | 0x301 => { c with asid := x }
  | 0x302 => { c with ptbase := x }
  | 0x303 => { c with migctl := x }
  | _ => c

/-- A per-context or device CSR as it stands. -/
def State.csr (s : State) (cx n : Nat) : BitVec 64 := if n = 0x304 then s.hub.regiontab else (s.ctxD cx).csr n

/-- Set a per-context or device CSR. The context's deterministic waves read the new value from the next round on (R401). -/
def State.setCsr (s : State) (cx n : Nat) (x : BitVec 64) : State :=
  if n = 0x304 then s.updHub fun h => { h with regiontab := x } else s.updCtx cx fun c => c.setCsr n x

/-- The context's CSRs, as a release round finds them. -/
def State.csrTable (s : State) (cx : Nat) : Tab (BitVec 64) := contextCsrs.map fun n => (n, s.csr cx n)

/-- The context's deterministic waves read its CSRs as they stand, until the next round (R401, R378). -/
def State.readCsrs (s : State) (cx : Nat) : State := s.updCtx cx fun c => { c with roundCsrs := s.csrTable cx }

/-- A per-context or device CSR as a workgroup reads it (R401). -/
def State.csrFor (s : State) (g n : Nat) : BitVec 64 :=
  let cx := s.ctxOf g
  if s.isDet g then (s.ctxD cx).roundCsrs.getD n 0 else s.csr cx n

/-! ## Writing -/

/-- Bits of a CSR that a write changes: its RW fields. -/
def csrMask : Nat → BitVec 64
  | 0x040 => 0xFF
  | 0x041 => 0xF
  | 0x042 => 0x1F
  | 0x100 => 0xFFFFFFFF
  | 0x101 => 0xFFFFFFFFFFFFFFFF
  | 0x102 => 0x00FFFFFFFFFFFC01
  | 0x103 => 0xFFFFFFFF
  | 0x104 => 0x3FFFF1FFF
  | 0x105 => 0x00FFFFFFFFFFF0F3
  | 0x106 => 1
  | 0x107 => 1
  | 0x108 => 0xFFFFFFFF
  | 0x200 => 0x00FFFFFFFFFFFFE1
  | 0x201 => 0xFF
  | 0x202 => 0xFFFFFFFFFFFFFFFF
  | 0x203 => 0xFFFFFFFFFFFFFFFF
  | 0x204 => 0xFFFFFFFFFFFFFFFF
  | 0x300 => 1
  | 0x301 => 0xFFF
  | 0x302 => 0x000FFFFFFFFF8001
  | 0x303 => 0xFFFF001F
  | 0x304 => 0x000FFFFFFFFFFC01
  | _ => 0

/-- A write merged into a CSR (R401): the other fields keep their value. -/
def csrMerge (n : Nat) (old x : BitVec 64) : BitVec 64 := (old &&& ~~~csrMask n) ||| (x &&& csrMask n)

/-- A value that the CSR's own rule forbids (R62, R273, R337, R357): QUANT = 0, POL = 3, an EPS that is negative, -0 or not
finite. -/
def csrForbids (n : Nat) (x : BitVec 64) : Bool :=
  match n with
  | 0x040 => x &&& 0xFF == 0
  | 0x103 => x.getLsbD 31 || x.extractLsb' 23 8 == 255
  | 0x105 => x &&& 3 == 3
  | 0x108 => x &&& 0xFFFFFFFF == 0
  | _ => false

/-! ## Reading as a wave -/

/-- `RUNG` (R264). -/
def State.rungCsr (s : State) (g : Nat) : BitVec 2 :=
  match s.hdrOf g with
  | none => 0
  | some h => if h.txn then (s.wgD (s.txHome g)).tx.rung else h.rung

/-- `CORE` (R15, R26). -/
def State.coreCsr (s : State) (g : Nat) : Nat := if s.isDet g then (s.wgD g).lin % 1024 else (s.wgD g).core

/-- `NCORES` (R16, R26). -/
def State.ncoresCsr (s : State) (g : Nat) : Nat :=
  if s.isDet g then 1024 else 240 * popcount (s.ctxD (s.ctxOf g)).dies.toNat

/-- `SIB` (R358). -/
def Wg.sibCsr (w : Wg) : Nat := match w.sib with | some x => x.index % 64 + 64 | none => 0

/-- `CYCLE` (R11, R26): in deterministic mode the wave's retired-instruction count. -/
def State.cycleCsr (s : State) (w : Wave) : BitVec 64 :=
  if s.isDet w.wg then w.icount else Config.cycle (s.coreOf w) s.clk

/-- A CSR as a wave reads it, but for `STRAND` (R45). -/
def State.readCsr (s : State) (w : Wave) (n : Nat) : BitVec 64 :=
  let g := s.wgD w.wg
  let sh := (s.gridOf w.wg).shape
  let nat := BitVec.ofNat 64
  match n with
  | 0x001 => nat w.idx
  | 0x002 => g.x.zeroExtend 64
  | 0x003 => g.y.zeroExtend 64
  | 0x004 => g.z.zeroExtend 64
  | 0x005 => nat sh.1
  | 0x006 => nat sh.2.1
  | 0x007 => nat sh.2.2
  | 0x008 => nat (s.coreCsr w.wg)
  | 0x009 => nat (s.ncoresCsr w.wg)
  | 0x00A => nat g.sibCsr
  | 0x00B => (s.rungCsr w.wg).zeroExtend 64
  | 0x00C => s.cycleCsr w
  | 0x00D => w.icount
  | 0x00E => nat (s.regFree (s.coreOf w))
  | 0x00F => nat w.paths.length
  | 0x040 => w.quantum.zeroExtend 64
  | 0x041 => w.fpctl.zeroExtend 64
  | 0x042 => w.fpflags.zeroExtend 64
  | 0x201 => w.trapcause.zeroExtend 64
  | 0x202 => w.trappc
  | 0x203 => w.trapaddr
  | 0x204 => w.trapinfo
  | 0x205 => w.trapstat.zeroExtend 64
  | 0x206 => w.priv.zeroExtend 64
  | n => s.csrFor w.wg n

/-- Write a per-wave CSR; the read-only ones are left alone (R385). -/
def Wave.setCsr (w : Wave) (n : Nat) (x : BitVec 64) : Wave :=
  match n with
  | 0x040 => { w with quantum := x.extractLsb' 0 8 }
  | 0x041 => { w with fpctl := x.extractLsb' 0 4 }
  | 0x042 => { w with fpflags := x.extractLsb' 0 5 }
  | 0x201 => { w with trapcause := x.extractLsb' 0 8 }
  | 0x202 => { w with trappc := x }
  | 0x203 => { w with trapaddr := x }
  | 0x204 => { w with trapinfo := x }
  | _ => w

/-! ## Access checks (R46) -/

/-- A per-context or device CSR. -/
def sharedCsr (n : Nat) : Bool := contextCsrs.contains n

/-- The level that may read a CSR (R45). -/
def csrReadLevel (n : Nat) : Nat := if n < 0x200 then 0 else if n < 0x300 then 1 else 2

/-- The level that may write a CSR (R45). -/
def csrWriteLevel (n : Nat) : Nat := if n = 0x107 then 1 else csrReadLevel n

/-- The check of a CSR access (R46): the number exists, is writable for a write, and the level suffices. -/
def csrCheck (priv : BitVec 2) (n : BitVec 12) (wr : Bool) : Option Trap :=
  if !csrAssigned n || (wr && n.toNat < 0x010) then some (badField .imm)
  else if priv.toNat < (if wr then csrWriteLevel n.toNat else csrReadLevel n.toNat) then some (trapOf .privilege)
  else none

end Sys2Proof.Machine
end

