-- ==== Sys2Proof/Machine/Operands.lean ====
section
/-! DEFINITION. Machine/Operands.lean: every operand form (02_encoding R30 to R34, R44) and the frames of the instructions
that read per-strand operands and write one result. -/

namespace Sys2Proof.Machine

/-- The type is 64 bits wide (R43). -/
def is64 (t : Ty) : Bool := t == .s64 || t == .z64

/-- The result of the type is sign-extended into an s register (R32). -/
def isSigned (t : Ty) : Bool := t == .s8 || t == .s16 || t == .s32 || t == .i8 || t == .i4

/-- The exact bit pattern of a small integer in a binary format with `m` fraction bits and bias `b`, `w` bits wide (R33). -/
def smallToFp (w m b : Nat) (k : Int) : Nat :=
  let n := k.natAbs
  if n = 0 then 0
  else
    let e := log2 n
    (if k < 0 then 2 ^ (w - 1) else 0) + (e + b) * 2 ^ m + (n * 2 ^ m / 2 ^ e - 2 ^ m)

/-- The inline immediate of a value operand (R33), in the low bits. -/
def immVal (t : Ty) (k : BitVec 7) : BitVec 64 :=
  match t with
  | .f32 => BitVec.ofNat 64 (smallToFp 32 23 127 k.toInt)
  | .f16 => BitVec.ofNat 64 (smallToFp 16 10 15 k.toInt)
  | .bf16 => BitVec.ofNat 64 (smallToFp 16 7 127 k.toInt)
  | _ => k.signExtend 64

/-- IMM32 of a value operand (R33): sign-extended for signed types, zero-extended otherwise. -/
def imm32Val (t : Ty) (x : BitVec 32) : BitVec 64 := if t == .s64 then x.signExtend 64 else x.zeroExtend 64

/-- A 64-bit source read by strand `i`: a pair, an s register, a latch, or an immediate, sign-extended. -/
def rd64 (w : Wave) (i : Nat) : Src → BitVec 64
  | .v n => (w.strand i).v64 n.toNat
  | .s n => w.sreg n.toNat
  | .latch j => (w.strand i).latch j
  | .imm k => k.signExtend 64
  | .imm32 x => x.signExtend 64

/-- A 32-bit integer source read by strand `i`, whatever the instruction's type: counts, selectors, indexes (R33). -/
def rd32 (w : Wave) (i : Nat) : Src → BitVec 32
  | .v n => (w.strand i).v32 n.toNat
  | .s n => (w.sreg n.toNat).extractLsb' 0 32
  | .latch j => ((w.strand i).latch j).extractLsb' 0 32
  | .imm k => k.signExtend 32
  | .imm32 x => x

/-- A source of the instruction's element type read by strand `i` (R30 to R33): the low 32 bits, or 64 for a 64-bit type. -/
def rdTy (t : Ty) (w : Wave) (i : Nat) : Src → BitVec 64
  | .v n => if is64 t then (w.strand i).v64 n.toNat else ((w.strand i).v32 n.toNat).zeroExtend 64
  | .s n => if is64 t then w.sreg n.toNat else ((w.sreg n.toNat).extractLsb' 0 32).zeroExtend 64
  | .latch j =>
    if is64 t then (w.strand i).latch j else (((w.strand i).latch j).extractLsb' 0 32).zeroExtend 64
  | .imm k => if is64 t then immVal t k else ((immVal t k).extractLsb' 0 32).zeroExtend 64
  | .imm32 x => imm32Val t x

/-- A source that only the whole wave can name: an s register or an immediate (R34). -/
def rdU (w : Wave) (x : Src) : BitVec 64 := rd64 w 0 x

/-- Retire with a result for the enabled strands and no other effect. -/
def dataNext (s : State) (c : Issue) (e : BitVec 32) (h : Hd) (d : Dst) (w64 sgn : Bool) (f : Nat → BitVec 64) : Ans :=
  s.done c fun w => w.retireData c e h.nwb d w64 sgn f

/-- One source and a result of the instruction's type. -/
def dataUn (o : Un) (s : State) (f : BitVec 64 → BitVec 64) : Out :=
  perform s o.h [o.a] fun c w e =>
    dataNext s c e o.h o.d (is64 o.t) (isSigned o.t) fun i => f (rdTy o.t w i o.a)

/-- Two sources and a result of the instruction's type. -/
def dataBin (o : Bin) (s : State) (f : BitVec 64 → BitVec 64 → BitVec 64) : Out :=
  perform s o.h [o.a, o.b] fun c w e =>
    dataNext s c e o.h o.d (is64 o.t) (isSigned o.t) fun i => f (rdTy o.t w i o.a) (rdTy o.t w i o.b)

/-- Two sources, the second a 32-bit integer whatever the type (R33). -/
def dataBinN (o : Bin) (s : State) (f : BitVec 64 → BitVec 32 → BitVec 64) : Out :=
  perform s o.h [o.a, o.b] fun c w e =>
    dataNext s c e o.h o.d (is64 o.t) (isSigned o.t) fun i => f (rdTy o.t w i o.a) (rd32 w i o.b)

/-- Three sources and a result of the instruction's type. -/
def dataTri (o : Tri) (s : State) (f : BitVec 64 → BitVec 64 → BitVec 64 → BitVec 64) : Out :=
  perform s o.h [o.a, o.b, o.c] fun c w e =>
    dataNext s c e o.h o.d (is64 o.t) (isSigned o.t) fun i => f (rdTy o.t w i o.a) (rdTy o.t w i o.b) (rdTy o.t w i o.c)

/-- A predicate result (R90, R103): the enabled strands' predicate `p` gets `f`. -/
def predBin (o : Cmp) (s : State) (f : BitVec 64 → BitVec 64 → Bool) : Out :=
  perform s o.h [o.a, o.b] fun c w e =>
    s.done c fun w' => w'.retireWith c e fun i st => st.setP o.p (f (rdTy o.t w i o.a) (rdTy o.t w i o.b))

end Sys2Proof.Machine
end

