-- ==== Sys2Proof/Machine/Flags.lean ====
section
/-! DEFINITION. Machine/Flags.lean: the floating-point environment and flags (04_arithmetic R99 to R102): reading a format's
values exactly, rounding an exact value once, and every flag that rounding raises. -/

namespace Sys2Proof.Machine

/-- A binary format with infinities: fraction bits and exponent bits (.f32, .f16, .bf16). -/
structure Fmt where
  m : Nat
  x : Nat
  deriving DecidableEq, Repr

/-- FP32. -/
def fmt32 : Fmt := { m := 23, x := 8 }
/-- FP16. -/
def fmt16 : Fmt := { m := 10, x := 5 }
/-- BF16. -/
def fmtB : Fmt := { m := 7, x := 8 }

/-- The format of a type of the floating-point class (R103). -/
def fmtOf (t : Ty) : Fmt :=
  match t with
  | .f16 => fmt16
  | .bf16 => fmtB
  | _ => fmt32

/-- The exponent bias. -/
def Fmt.bias (f : Fmt) : Nat := 2 ^ (f.x - 1) - 1
/-- The exponent of the smallest normal value. -/
def Fmt.emin (f : Fmt) : Int := 1 - (f.bias : Int)
/-- The pattern of +Inf. -/
def Fmt.infBits (f : Fmt) : Nat := (2 ^ f.x - 1) * 2 ^ f.m
/-- The sign bit. -/
def Fmt.signBit (f : Fmt) : Nat := 2 ^ (f.m + f.x)
/-- The canonical NaN (R102). -/
def Fmt.nan (f : Fmt) : Nat := f.infBits + 2 ^ (f.m - 1)
/-- A signed pattern. -/
def Fmt.withSign (f : Fmt) (neg : Bool) (b : Nat) : Nat := if neg then f.signBit + b else b

/-- An exact value: a NaN (signalling or quiet), an infinity, or ±n·2^e with n = 0 for a zero. -/
inductive FVal where
  | nan (signalling : Bool)
  | inf (neg : Bool)
  | fin (neg : Bool) (n : Nat) (e : Int)
  deriving DecidableEq, Repr

/-- Read a pattern (R102); a subnormal is a zero of its sign under DAZ (R99). -/
def Fmt.read (f : Fmt) (daz : Bool) (b : Nat) : FVal :=
  let neg := b.testBit (f.m + f.x)
  let ex := field b f.m f.x
  let fr := field b 0 f.m
  if ex = 2 ^ f.x - 1 then (if fr = 0 then .inf neg else .nan (!fr.testBit (f.m - 1)))
  else if ex = 0 then .fin neg (if daz then 0 else fr) (f.emin - (f.m : Int))
  else .fin neg (2 ^ f.m + fr) ((ex : Int) - (f.bias : Int) - (f.m : Int))

/-- Rounding modes (R99 RM). -/
inductive Mode where
  | near | zero | up | down
  deriving DecidableEq, Repr

/-- The mode of an RM code of FPCTL (R99). -/
def modeOfCode (c : Nat) : Mode :=
  match c % 4 with
  | 0 => .near
  | 1 => .zero
  | 2 => .up
  | _ => .down

/-- The mode an instruction selects (R101). -/
def modeOf (rm : Rm) (fpctl : BitVec 4) : Mode :=
  match rm with
  | .dyn => modeOfCode fpctl.toNat
  | .rn => .near
  | .rz => .zero
  | .ru => .up
  | .rd => .down

/-! ## Flags (R100) -/

/-- No flag. -/
def noFlag : BitVec 5 := 0
/-- Invalid operation. -/
def flNV : BitVec 5 := 1
/-- Division by zero. -/
def flDZ : BitVec 5 := 2
/-- Overflow. -/
def flOF : BitVec 5 := 4
/-- Underflow. -/
def flUF : BitVec 5 := 8
/-- Inexact. -/
def flNX : BitVec 5 := 16

/-- Flags when a condition holds. -/
def flIf (b : Bool) (f : BitVec 5) : BitVec 5 := if b then f else noFlag

/-- A result pattern and the flags it raises. -/
abbrev FRes := Nat × BitVec 5

/-- The environment an operation runs in: mode, DAZ, FTZ. -/
structure FEnv where
  mode : Mode
  daz  : Bool
  ftz  : Bool
  deriving DecidableEq, Repr

/-- The environment of an instruction of a wave (R99, R101). -/
def Wave.fenv (w : Wave) (rm : Rm) : FEnv :=
  { mode := modeOf rm w.fpctl, daz := w.fpctl.getLsbD 2, ftz := w.fpctl.getLsbD 3 }

/-- The environment of the operations that round to nearest even and use no FPCTL (R230, R296). -/
def plainEnv : FEnv := { mode := .near, daz := false, ftz := false }

/-- Whether truncation of a positive magnitude is followed by adding one unit: `odd` the last kept bit, `cmp` how the lost part
compares with half a unit, `lost` whether it is nonzero. -/
def roundsUp (mode : Mode) (neg odd lost : Bool) (cmp : Ordering) : Bool :=
  match mode with
  | .near => match cmp with
    | .lt => false
    | .eq => odd
    | .gt => true
  | .zero => false
  | .up => lost && !neg
  | .down => lost && neg

/-- Round (n + s)·2^e to a multiple of 2^q, where s is 0, or in (0, 1) when `sticky`: the multiple and whether anything was
lost. -/
def roundAt (mode : Mode) (neg : Bool) (n : Nat) (e : Int) (sticky : Bool) (q : Int) : Nat × Bool :=
  if q ≤ e then
    let k := n * 2 ^ (e - q).toNat
    (if roundsUp mode neg (k % 2 == 1) sticky .lt then k + 1 else k, sticky)
  else
    let d := (q - e).toNat
    let k := n / 2 ^ d
    let r := n % 2 ^ d
    let half := 2 ^ (d - 1)
    let lost := r != 0 || sticky
    let cmp := if r < half then .lt else if r == half && !sticky then .eq else .gt
    (if roundsUp mode neg (k % 2 == 1) lost cmp then k + 1 else k, lost)

/-- What an overflow gives (R102). -/
def Fmt.overflow (f : Fmt) (mode : Mode) (neg : Bool) : Nat :=
  let inf := match mode with
    | .near => true
    | .zero => false
    | .up => !neg
    | .down => neg
  f.withSign neg (if inf then f.infBits else f.infBits - 1)

/-- Round the exact value ±(n + s)·2^e once to the format, with the flags of R102; `n` is not 0, and where `sticky` is set n
has more bits than the format. DESIGN CHOICE (log 26): a tiny inexact result raises NX beside UF also without FTZ. -/
def Fmt.round (f : Fmt) (v : FEnv) (neg : Bool) (n : Nat) (e : Int) (sticky : Bool) : FRes :=
  let top := (log2 n : Int) + e
  let free := roundAt v.mode neg n e sticky (top - (f.m : Int))
  let tiny := decide ((if free.1 = 2 ^ (f.m + 1) then top + 1 else top) < f.emin)
  let q := max (top - (f.m : Int)) (f.emin - (f.m : Int))
  let r := roundAt v.mode neg n e sticky q
  let b := (q - (f.emin - (f.m : Int))).toNat * 2 ^ f.m + r.1
  if tiny && v.ftz then (f.withSign neg 0, flUF ||| flNX)
  else if f.infBits ≤ b then (f.overflow v.mode neg, flOF ||| flNX)
  else (f.withSign neg b, flIf r.2 (flIf tiny flUF ||| flNX))

/-- The sign of an exact zero sum of terms that do not share a sign (R102). -/
def zeroNeg (mode : Mode) : Bool := mode == .down

/-- Round an exact signed integer times 2^e; `zneg` is the sign of a zero. -/
def Fmt.roundInt (f : Fmt) (v : FEnv) (x : Int) (e : Int) (zneg : Bool) : FRes :=
  if x = 0 then (f.withSign zneg 0, noFlag) else f.round v (x < 0) x.natAbs e false

/-- Invalid: the canonical NaN with NV. -/
def Fmt.invalid (f : Fmt) : FRes := (f.nan, flNV)

/-! ## Exact sums -/

/-- A finite term of an exact sum. -/
structure Term where
  neg : Bool
  n   : Nat
  e   : Int
  deriving DecidableEq, Repr

/-- The smallest exponent of the terms. -/
def minExp : List Term → Int
  | [] => 0
  | [t] => t.e
  | t :: r => min t.e (minExp r)

/-- The exact sum of terms, in units of 2^minExp. -/
def exactSum (l : List Term) : Int :=
  let q := minExp l
  l.foldl (fun a t => a + (if t.neg then -1 else 1) * ((t.n * 2 ^ (t.e - q).toNat : Nat) : Int)) 0

/-- The sign of a sum that is exactly zero: the common sign of its terms, else by the mode (R102). -/
def zeroSign (mode : Mode) (l : List Term) : Bool :=
  if l.all (·.neg) then true else if l.all (fun t => !t.neg) then false else zeroNeg mode

/-- Round the exact sum of finite terms once. -/
def Fmt.roundSum (f : Fmt) (v : FEnv) (l : List Term) : FRes := f.roundInt v (exactSum l) (minExp l) (zeroSign v.mode l)

/-- The value is a NaN. -/
def FVal.isNan : FVal → Bool
  | .nan _ => true
  | _ => false
/-- The value is a signalling NaN. -/
def FVal.isSig : FVal → Bool
  | .nan s => s
  | _ => false
/-- The value is an infinity. -/
def FVal.isInf : FVal → Bool
  | .inf _ => true
  | _ => false
/-- The value is a zero. -/
def FVal.isZero : FVal → Bool
  | .fin _ n _ => n == 0
  | _ => false
/-- The sign. -/
def FVal.neg : FVal → Bool
  | .nan _ => false
  | .inf n => n
  | .fin n _ _ => n

/-- An exact product; an infinity times zero is not one. -/
def FVal.mul (a b : FVal) : FVal :=
  match a, b with
  | .fin na ma ea, .fin nb mb eb => .fin (na != nb) (ma * mb) (ea + eb)
  | .nan s, .nan t => .nan (s || t)
  | .nan s, _ => .nan s
  | _, .nan s => .nan s
  | a, b => .inf (a.neg != b.neg)

/-- An infinity times a zero (R104). -/
def mulInvalid (a b : FVal) : Bool := (a.isInf && b.isZero) || (a.isZero && b.isInf)

/-- Round the sum of exact values once, with the special cases of R104; `bad`: an operand product is infinity times zero.
DESIGN CHOICE (log 26): a quiet NaN term comes before infinity minus infinity, and raises no NV. -/
def Fmt.sum (f : Fmt) (v : FEnv) (bad : Bool) (sig : Bool) (l : List FVal) : FRes :=
  let infs := l.filter FVal.isInf
  if bad then f.invalid
  else if l.any FVal.isNan then (f.nan, flIf sig flNV)
  else match infs with
    | x :: r => if r.all (fun y => y.neg == x.neg) then (f.withSign x.neg f.infBits, flIf sig flNV) else f.invalid
    | [] => f.roundSum v (l.filterMap fun x => match x with
        | .fin n m e => some { neg := n, n := m, e := e }
        | _ => none)

end Sys2Proof.Machine
end

