-- ==== Sys2Proof/Machine/FloatFns.lean ====
section
/-! DEFINITION. Machine/FloatFns.lean: the exact functions of 04_arithmetic R109 and R110 as a magnitude (n + s)·2^e with s
in [0, 1): division and square root exactly, the transcendental ones from a series with 384 binary places
(notes/assumptions/9.md, UNVERIFIED). -/

namespace Sys2Proof.Machine

/-- A magnitude (n + s)·2^e: n, e, and whether s is not zero. -/
abbrev Approx := Nat × Int × Bool

/-- Integer square root. -/
def isqrt (n : Nat) : Nat :=
  (List.range (log2 n / 2 + 1)).foldr (fun i r => if (r + 2 ^ i) * (r + 2 ^ i) ≤ n then r + 2 ^ i else r) 0

/-- a·2^ea divided by b·2^eb, to 80 places more than b has. -/
def divApprox (a : Nat) (ea : Int) (b : Nat) (eb : Int) : Approx :=
  let k := log2 b + 80
  let x := a * 2 ^ k
  (x / b, ea - eb - (k : Int), x % b != 0)

/-- The square root of n·2^e. -/
def sqrtApprox (n : Nat) (e : Int) : Approx :=
  let x := if e % 2 = 0 then (n, e) else (2 * n, e - 1)
  let y := x.1 * 2 ^ 128
  let r := isqrt y
  (r, x.2 / 2 - 64, r * r != y)

/-- One over the square root of n·2^e. -/
def rsqrtApprox (n : Nat) (e : Int) : Approx :=
  let x := if e % 2 = 0 then (n, e) else (2 * n, e - 1)
  let k := log2 x.1 + 80
  let r := isqrt (2 ^ (2 * k) / x.1)
  (r, -(x.2 / 2) - (k : Int), r * r * x.1 != 2 ^ (2 * k))

/-- Binary places of the series. -/
def places : Nat := 384
/-- ln 2 to that many places. -/
def ln2Fix : Nat := 27311389503436327984859642001965014295881604093268141717219425985154158335678826923825841039545353940567474963094288
/-- pi to that many places. -/
def piFix : Nat := 123785053203292407819553701039137184435442376711719744927844101526111311422332618694237111830548352286187237239491692

/-- n·2^e to that many places, cut off. -/
def toFix (n : Nat) (e : Int) : Nat :=
  let d := e + (places : Int)
  if 0 ≤ d then n * 2 ^ d.toNat else n / 2 ^ (-d).toNat

/-- The exponential series of y in [0, 1) from term `k` on. -/
def expSeries (y : Nat) : Nat → Nat → Nat → Nat
  | 0, _, _ => 0
  | fuel + 1, k, term => term + expSeries y fuel (k + 1) (term * y / 2 ^ places / (k + 1))

/-- The series of the inverse hyperbolic tangent from power `k` on. -/
def atanhSeries (z2 : Nat) : Nat → Nat → Nat → Nat
  | 0, _, _ => 0
  | fuel + 1, k, pow => pow / k + atanhSeries z2 fuel (k + 2) (pow * z2 / 2 ^ places)

/-- The alternating series of sine and cosine from power `k` on. -/
def trigSeries (y2 : Nat) : Nat → Nat → Nat → Int
  | 0, _, _ => 0
  | fuel + 1, k, term => (term : Int) - trigSeries y2 fuel (k + 2) (term * y2 / 2 ^ places / ((k + 1) * (k + 2)))

/-- 2^x for x = ±n·2^e. -/
def exp2Approx (neg : Bool) (n : Nat) (e : Int) : Approx :=
  if 4096 ≤ toFix n e / 2 ^ places then (1, if neg then -4096 else 4096, false)
  else
    let x : Int := if neg then -(toFix n e : Int) else (toFix n e : Int)
    let i := x / (2 ^ places : Nat)
    let f := (x % (2 ^ places : Nat)).toNat
    if f = 0 then (1, i, false)
    else (expSeries (f * ln2Fix / 2 ^ places) 90 0 (2 ^ places), i - (places : Int), true)

/-- log2 of n·2^e, n not 0: its sign, and the magnitude. -/
def log2Approx (n : Nat) (e : Int) : Bool × Approx :=
  let l := log2 n
  let i : Int := (l : Int) + e
  if n = 2 ^ l then (i < 0, i.natAbs, 0, false)
  else
    let z := (n - 2 ^ l) * 2 ^ places / (n + 2 ^ l)
    let y := 2 * atanhSeries (z * z / 2 ^ places) 130 1 z * 2 ^ places / ln2Fix
    let x : Int := i * (2 ^ places : Nat) + (y : Int)
    if x < 0 then (true, x.natAbs - 1, -(places : Int), true) else (false, x.natAbs, -(places : Int), true)

/-- Sine (`cosine` false) or cosine of n·2^e, n not 0 and the value at most 65,536: sign and magnitude. -/
def trigApprox (cosine : Bool) (n : Nat) (e : Int) : Bool × Approx :=
  if (log2 n : Int) + e < -20 then
    -- x - x^3/6 < sin x < x and 1 - x^2/2 < cos x < 1: closer than any format resolves
    if cosine then (false, 2 ^ 64 - 1, -64, true) else (false, n * 2 ^ 64 - 1, e - 64, true)
  else
    let x := toFix n e
    let half := piFix / 2
    let q := x / half + (if cosine then 1 else 0)
    let r := x % half
    let y2 := r * r / 2 ^ places
    let v := if q % 2 == 1 then trigSeries y2 60 0 (2 ^ places) else trigSeries y2 60 1 r
    (decide (2 ≤ q % 4), v.natAbs, -(places : Int), true)

end Sys2Proof.Machine
end

