-- ==== Sys2Proof/Machine/Integer.lean ====
section
/-! DEFINITION. Machine/Integer.lean: the integer instructions (04_arithmetic R86 to R98). -/

namespace Sys2Proof.Machine

/-- Width of a type in bits (R43); the integer class uses codes 0x00 to 0x07. -/
def tyBits : Ty → Nat
  | .s8 | .z8 | .e4m3 | .e5m2 | .e8m0 | .i8 | .q8 => 8
  | .s16 | .z16 | .f16 | .bf16 => 16
  | .s32 | .z32 | .f32 => 32
  | .s64 | .z64 => 64
  | .e2m1 | .i4 | .q4 => 4

/-- A signed integer type. -/
def tySigned : Ty → Bool
  | .s8 | .s16 | .s32 | .s64 | .i8 | .i4 => true
  | _ => false

/-- The low w bits of an operand as an unsigned pattern. -/
def rdPat (t : Ty) (x : BitVec 64) : Nat := x.toNat % 2 ^ tyBits t

/-- rd(x): the operand's low w bits as a signed integer for .s types, as an unsigned one otherwise. -/
def rdInt (t : Ty) (x : BitVec 64) : Int :=
  if tySigned t then signedOf (tyBits t) x.toNat else (rdPat t x : Int)

/-- wr(d, r) of R87: r<w-1:0>, extended to 32 bits (by sign for .s types) when w is 8 or 16. -/
def wrInt (t : Ty) (r : Int) : BitVec 64 :=
  let n := wrapTo (tyBits t) r
  if tyBits t < 32 && tySigned t then BitVec.ofNat 64 (wrapTo 32 (signedOf (tyBits t) n)) else BitVec.ofNat 64 n

/-- The clamp of `.sat` (R91). -/
def satInt (t : Ty) (sat : Bool) (r : Int) : Int :=
  let w := tyBits t
  if !sat then r
  else if tySigned t then max (-(2 ^ (w - 1) : Nat) : Int) (min r ((2 ^ (w - 1) : Nat) - 1 : Int))
  else max 0 (min r ((2 ^ w : Nat) - 1 : Int))

/-- `IADD` (R91). -/
def execIadd (sat : Bool) (o : Bin) (s : State) : Out :=
  dataBin o s fun a b => wrInt o.t (satInt o.t sat (rdInt o.t a + rdInt o.t b))
/-- `ISUB` (R91). -/
def execIsub (sat : Bool) (o : Bin) (s : State) : Out :=
  dataBin o s fun a b => wrInt o.t (satInt o.t sat (rdInt o.t a - rdInt o.t b))
/-- `IMUL` (R91). -/
def execImul (o : Bin) (s : State) : Out := dataBin o s fun a b => wrInt o.t (rdInt o.t a * rdInt o.t b)
/-- `IMAD` (R91). -/
def execImad (o : Tri) (s : State) : Out :=
  dataTri o s fun a b c => wrInt o.t (rdInt o.t a * rdInt o.t b + rdInt o.t c)
/-- `IMULH` (R91): the high half of the 2w-bit product. -/
def execImulh (o : Bin) (s : State) : Out :=
  dataBin o s fun a b => wrInt o.t ((rdInt o.t a * rdInt o.t b) / (2 ^ tyBits o.t : Nat))
/-- `IMIN` (R91). -/
def execImin (o : Bin) (s : State) : Out := dataBin o s fun a b => wrInt o.t (min (rdInt o.t a) (rdInt o.t b))
/-- `IMAX` (R91). -/
def execImax (o : Bin) (s : State) : Out := dataBin o s fun a b => wrInt o.t (max (rdInt o.t a) (rdInt o.t b))
/-- `IABS` (R91). -/
def execIabs (sat : Bool) (o : Un) (s : State) : Out :=
  dataUn o s fun a => wrInt o.t (satInt o.t sat ((rdInt o.t a).natAbs : Int))

/-! ## Bits and shifts (R92) -/

/-- `AND` (R92). -/
def execAnd (o : Bin) (s : State) : Out := dataBin o s fun a b => wrInt o.t ((a &&& b).toNat : Int)
/-- `OR` (R92). -/
def execOr (o : Bin) (s : State) : Out := dataBin o s fun a b => wrInt o.t ((a ||| b).toNat : Int)
/-- `XOR` (R92). -/
def execXor (o : Bin) (s : State) : Out := dataBin o s fun a b => wrInt o.t ((a ^^^ b).toNat : Int)
/-- `NOT` (R92). -/
def execNot (o : Un) (s : State) : Out := dataUn o s fun a => wrInt o.t ((~~~a).toNat : Int)

/-- Left shift of a w-bit pattern by an unsigned count (R92). -/
def shlBits (w x k : Nat) : Nat := if w ≤ k then 0 else x * 2 ^ k
/-- Right shift with zero fill (R92). -/
def shrBits (w x k : Nat) : Nat := if w ≤ k then 0 else x / 2 ^ k
/-- Right shift with the top bit copied in (R92). -/
def sarBits (w x k : Nat) : Nat :=
  if w ≤ k then (if x.testBit (w - 1) then 2 ^ w - 1 else 0)
  else wrapTo w (signedOf w x / (2 ^ k : Nat))
/-- Left rotation (R92). -/
def rotBits (w x k : Nat) : Nat := let j := k % w; x * 2 ^ j % 2 ^ w + x / 2 ^ (w - j)

/-- `SHL` (R92). -/
def execShl (o : Bin) (s : State) : Out :=
  dataBinN o s fun a k => wrInt o.t (shlBits (tyBits o.t) (rdPat o.t a) k.toNat : Int)
/-- `SHR` (R92). -/
def execShr (o : Bin) (s : State) : Out :=
  dataBinN o s fun a k => wrInt o.t (shrBits (tyBits o.t) (rdPat o.t a) k.toNat : Int)
/-- `SAR` (R92). -/
def execSar (o : Bin) (s : State) : Out :=
  dataBinN o s fun a k => wrInt o.t (sarBits (tyBits o.t) (rdPat o.t a) k.toNat : Int)
/-- `ROT` (R92). -/
def execRot (o : Bin) (s : State) : Out :=
  dataBinN o s fun a k => wrInt o.t (rotBits (tyBits o.t) (rdPat o.t a) k.toNat : Int)

/-- The bits of a w-bit pattern in reverse order (R92 BREV, R97). -/
def revBits (w x : Nat) : Nat :=
  (List.range w).foldl (fun n i => if x.testBit (w - 1 - i) then n + 2 ^ i else n) 0
/-- Number of zeros above the highest one; w for zero (R92). -/
def clzBits (w x : Nat) : Nat := if x = 0 then w else w - 1 - log2 x
/-- Number of zeros below the lowest one; w for zero (R92). -/
def ctzBits (w x : Nat) : Nat := ((List.range w).find? fun i => x.testBit i).getD w

/-- `POPC`, `CLZ`, `CTZ`: a 32-bit result whatever the type (R92). -/
def dataCount (o : Un) (s : State) (f : Nat → Nat → Nat) : Out :=
  perform s o.h [o.a] fun c w e =>
    dataNext s c e o.h o.d false (isSigned o.t) fun i =>
      BitVec.ofNat 64 (f (tyBits o.t) (rdPat o.t (rdTy o.t w i o.a)))

/-- `POPC` (R92). -/
def execPopc (o : Un) (s : State) : Out := dataCount o s fun _ x => popcount x
/-- `CLZ` (R92). -/
def execClz (o : Un) (s : State) : Out := dataCount o s clzBits
/-- `CTZ` (R92). -/
def execCtz (o : Un) (s : State) : Out := dataCount o s ctzBits
/-- `BREV` (R92). -/
def execBrev (o : Un) (s : State) : Out := dataUn o s fun a => wrInt o.t (revBits (tyBits o.t) (rdPat o.t a) : Int)

/-! ## Fields (R93) -/

/-- The field that `BFX` extracts (R93). -/
def bfxField (t : Ty) (a : BitVec 64) (spec : BitVec 32) : Int :=
  let pos := (spec.extractLsb' 0 8).toNat
  let len := (spec.extractLsb' 8 8).toNat
  let f := wrapTo len (rdInt t a / (2 ^ pos : Nat))
  if tySigned t && 0 < len then signedOf len f else (f : Int)

/-- What `BFI` writes (R93). -/
def bfiValue (t : Ty) (a : BitVec 64) (spec : BitVec 32) (c : BitVec 64) : Nat :=
  let w := tyBits t
  let pos := (spec.extractLsb' 0 8).toNat
  let len := (spec.extractLsb' 8 8).toNat
  let m := ((2 ^ len - 1) * 2 ^ pos) % 2 ^ w
  let x := rdPat t a
  (x - (x &&& m)) ||| ((rdPat t c * 2 ^ pos) &&& m)

/-- `BFX` (R93). -/
def execBfx (o : Bin) (s : State) : Out := dataBinN o s fun a spec => wrInt o.t (bfxField o.t a spec)
/-- `BFI` (R93). -/
def execBfi (o : Tri) (s : State) : Out :=
  perform s o.h [o.a, o.b, o.c] fun c w e =>
    dataNext s c e o.h o.d (is64 o.t) (isSigned o.t) fun i =>
      wrInt o.t (bfiValue o.t (rdTy o.t w i o.a) (rd32 w i o.b) (rdTy o.t w i o.c) : Int)

/-! ## Choosing, comparing, moving (R94, R95) -/

/-- `SEL` (R94). -/
def execSel (o : Bin) (pc : BitVec 3) (neg : Bool) (s : State) : Out :=
  perform s o.h [o.a, o.b] fun c w e =>
    dataNext s c e o.h o.d (is64 o.t) (isSigned o.t) fun i =>
      let x := if ((w.strand i).pred.getLsbD pc.toNat) != neg then rdTy o.t w i o.a else rdTy o.t w i o.b
      wrInt o.t (rdInt o.t x)

/-- The conditions of `ICMP` (R90, R94). -/
def iccHolds (cc : Icc) (a b : Int) : Bool :=
  match cc with
  | .eq => a == b
  | .ne => a != b
  | .lt => a < b
  | .le => a ≤ b
  | .gt => b < a
  | .ge => b ≤ a

/-- `ICMP` (R94). -/
def execIcmp (cc : Icc) (o : Cmp) (s : State) : Out :=
  predBin o s fun a b => iccHolds cc (rdInt o.t a) (rdInt o.t b)

/-- `MOV` (R95). -/
def execMov (o : Un) (s : State) : Out := dataUn o s fun a => wrInt o.t (rdInt o.t a)

/-- What `MOVI` writes (R95); `old` is the destination's value, which `.hi` reads. -/
def moviValue (t : Ty) (x : BitVec 32) (hi : Bool) (old : BitVec 64) : BitVec 64 :=
  if hi then x ++ old.extractLsb' 0 32
  else if t == .s64 then x.signExtend 64
  else if t == .z64 then x.zeroExtend 64
  else wrInt t (rdInt t (x.zeroExtend 64))

/-- `MOVI` (R95). -/
def execMovi (h : Hd) (t : Ty) (d : Dst) (x : BitVec 32) (hi : Bool) (s : State) : Out :=
  perform s h [] fun c w e =>
    dataNext s c e h d (is64 t) (isSigned t) fun i =>
      moviValue t x hi (if d.s then w.sreg d.n.toNat else (w.strand i).v64 d.n.toNat)

/-- `LEA` (R95). -/
def execLea (sh : BitVec 3) (o : Bin) (s : State) : Out :=
  perform s o.h [o.a, o.b] fun c w e =>
    dataNext s c e o.h o.d true false fun i =>
      let idx := rd32 w i o.b
      rd64 w i o.a + (if o.t == .s32 then idx.signExtend 64 else idx.zeroExtend 64) * BitVec.ofNat 64 (2 ^ sh.toNat)

/-- `IEXT` (R95). -/
def execIext (o : Un) (s : State) : Out :=
  perform s o.h [o.a] fun c w e =>
    dataNext s c e o.h o.d true false fun i => BitVec.ofNat 64 (wrapTo 64 (rdInt o.t (rdTy o.t w i o.a)))

/-! ## Across strands, bytes, predicates (R96 to R98) -/

/-- The strand that `SHFL` reads (R96), before the test that it is enabled. -/
def shflFrom (m : ShflMode) (i : Nat) (b : BitVec 32) : Int :=
  match m with
  | .idx => (b.toNat : Int)
  | .up => (i : Int) - (b.toNat : Int)
  | .down => (i : Int) + (b.toNat : Int)
  | .xor => ((i ^^^ b.toNat : Nat) : Int)

/-- `SHFL` (R96): a strand that reads outside the enabled ones keeps its own value. -/
def execShfl (mode : ShflMode) (o : Bin) (s : State) : Out :=
  perform s o.h [o.a, o.b] fun c w e =>
    dataNext s c e o.h o.d (is64 o.t) (isSigned o.t) fun i =>
      let j := shflFrom mode i (rd32 w i o.b)
      if 0 ≤ j && j ≤ 31 && e.getLsbD j.toNat then rdTy o.t w j.toNat o.a else rdTy o.t w i o.a

/-- One byte of `PRMT` (R97): pick, reverse, spread, zero. -/
def prmtByte (x : Nat) (k : Nat) : Nat :=
  let b := field x (8 * field k 0 3) 8
  let b := if k.testBit 4 then revBits 8 b else b
  let b := if k.testBit 5 then (if b.testBit 7 then 255 else 0) else b
  if k.testBit 3 then 0 else b

/-- `PRMT` (R97). -/
def execPrmt (o : Tri) (s : State) : Out :=
  perform s o.h [o.a, o.b, o.c] fun c w e =>
    dataNext s c e o.h o.d false false fun i =>
      let x := (rd32 w i o.c).toNat * 2 ^ 32 + (rd32 w i o.a).toNat
      let sel := (rd32 w i o.b).toNat
      BitVec.ofNat 64 ((List.range 4).foldl (fun n k => n + prmtByte x (field sel (8 * k) 8) * 2 ^ (8 * k)) 0)

/-- `PCMB` (R98). -/
def execPcmb (h : Hd) (lut : BitVec 4) (d a b : BitVec 3) (s : State) : Out :=
  perform s h [] fun c w e =>
    s.done c fun _ => w.retireWith c e fun _ st =>
      st.setP d (lut.getLsbD (2 * (st.pred.getLsbD a.toNat).toNat + (st.pred.getLsbD b.toNat).toNat))

end Sys2Proof.Machine
end

