-- ==== Sys2Proof/Machine/Float.lean ====
section
/-! DEFINITION. Machine/Float.lean: the floating-point instructions (04_arithmetic R103 to R114). -/

namespace Sys2Proof.Machine

/-- OR the flags of the enabled strands into the wave's sticky flags (R100). -/
def flagsOf (e : BitVec 32) (f : Nat → BitVec 5) : BitVec 5 := (slotsOf e).foldl (fun a i => a ||| f i) noFlag

/-- Retire with a result and flags for the enabled strands. -/
def fpNext (s : State) (c : Issue) (e : BitVec 32) (h : Hd) (d : Dst) (f : Nat → FRes) : Ans :=
  s.done c fun w =>
    let fl := if d.s && e != 0 then (f ((slotsOf e).headD 0)).2 else flagsOf e fun i => (f i).2
    let w' := w.retireData c e h.nwb d false false fun i => BitVec.ofNat 64 (f i).1
    { w' with fpflags := w'.fpflags ||| fl }

/-- One floating-point source. -/
def fpUn (rm : Rm) (o : Un) (s : State) (f : Fmt → FEnv → FVal → FRes) : Out :=
  perform s o.h [o.a] fun c w e =>
    let v := w.fenv rm
    let m := fmtOf o.t
    fpNext s c e o.h o.d fun i => f m v (m.read v.daz (rdTy o.t w i o.a).toNat)

/-- Two floating-point sources. -/
def fpBin (rm : Rm) (o : Bin) (s : State) (f : Fmt → FEnv → FVal → FVal → FRes) : Out :=
  perform s o.h [o.a, o.b] fun c w e =>
    let v := w.fenv rm
    let m := fmtOf o.t
    fpNext s c e o.h o.d fun i =>
      f m v (m.read v.daz (rdTy o.t w i o.a).toNat) (m.read v.daz (rdTy o.t w i o.b).toNat)

/-- The value with the other sign. -/
def FVal.negate : FVal → FVal
  | .nan s => .nan s
  | .inf n => .inf (!n)
  | .fin n m e => .fin (!n) m e

/-- round(a + b) (R104). -/
def fadd (m : Fmt) (v : FEnv) (a b : FVal) : FRes := m.sum v false (a.isSig || b.isSig) [a, b]
/-- round(a - b) (R104). -/
def fsub (m : Fmt) (v : FEnv) (a b : FVal) : FRes := fadd m v a b.negate
/-- round(a * b) (R104). -/
def fmul (m : Fmt) (v : FEnv) (a b : FVal) : FRes := m.sum v (mulInvalid a b) (a.isSig || b.isSig) [a.mul b]
/-- round(a * b + c) (R104). -/
def ffma (m : Fmt) (v : FEnv) (a b x : FVal) : FRes :=
  m.sum v (mulInvalid a b) (a.isSig || b.isSig || x.isSig) [a.mul b, x]

/-- `FADD` (R104). -/
def execFadd (rm : Rm) (o : Bin) (s : State) : Out := fpBin rm o s fadd
/-- `FSUB` (R104). -/
def execFsub (rm : Rm) (o : Bin) (s : State) : Out := fpBin rm o s fsub
/-- `FMUL` (R104). -/
def execFmul (rm : Rm) (o : Bin) (s : State) : Out := fpBin rm o s fmul
/-- `FFMA` (R104). -/
def execFfma (rm : Rm) (o : Tri) (s : State) : Out :=
  perform s o.h [o.a, o.b, o.c] fun c w e =>
    let v := w.fenv rm
    let m := fmtOf o.t
    let rd := fun i x => m.read v.daz (rdTy o.t w i x).toNat
    fpNext s c e o.h o.d fun i => ffma m v (rd i o.a) (rd i o.b) (rd i o.c)

/-- The exact three-term sum of `FDOT2`, rounded once to FP32 (R104). -/
def fdot2 (m : Fmt) (v : FEnv) (a b : Nat) (x : FVal) : FRes :=
  let lo := fun y => m.read v.daz (field y 0 16)
  let hi := fun y => m.read v.daz (field y 16 16)
  let bad := mulInvalid (lo a) (lo b) || mulInvalid (hi a) (hi b)
  let sig := (lo a).isSig || (lo b).isSig || (hi a).isSig || (hi b).isSig || x.isSig
  fmt32.sum v bad sig [x, (lo a).mul (lo b), (hi a).mul (hi b)]

/-- `FDOT2` (R104): a and b hold two elements of T, c and d are .f32. -/
def execFdot2 (rm : Rm) (o : Tri) (s : State) : Out :=
  perform s o.h [o.a, o.b, o.c] fun c w e =>
    let v := w.fenv rm
    fpNext s c e o.h o.d fun i =>
      fdot2 (fmtOf o.t) v (rd32 w i o.a).toNat (rd32 w i o.b).toNat (fmt32.read v.daz (rdTy .f32 w i o.c).toNat)

/-- Whether a < b of two values that are not NaN, with -0 below +0 when `zeros` (R105), equal to it otherwise. -/
def fless (zeros : Bool) (a b : FVal) : Bool :=
  match a, b with
  | .inf n, .inf k => n && !k
  | .inf n, _ => n
  | _, .inf k => !k
  | .fin n x e, .fin k y f =>
    if x == 0 && y == 0 then zeros && n && !k
    else exactSum [{ neg := n, n := x, e := e }, { neg := !k, n := y, e := f }] < 0
  | _, _ => false

/-- The pattern of a value that was read from this format. -/
def Fmt.show (f : Fmt) : FVal → Nat
  | .nan _ => f.nan
  | .inf n => f.withSign n f.infBits
  | .fin n x e => (f.roundInt plainEnv (if n then -(x : Int) else (x : Int)) e n).1

/-- `FMIN` and `FMAX` (R105). -/
def fminmax (mx : Bool) (m : Fmt) (a b : FVal) : FRes :=
  let fl := flIf (a.isSig || b.isSig) flNV
  if a.isNan && b.isNan then (m.nan, fl)
  else if a.isNan then (m.show b, fl)
  else if b.isNan then (m.show a, fl)
  else (m.show (if fless true a b != mx then a else b), fl)

/-- `FMIN` (R105). -/
def execFmin (o : Bin) (s : State) : Out := fpBin .dyn o s fun m _ a b => fminmax false m a b
/-- `FMAX` (R105). -/
def execFmax (o : Bin) (s : State) : Out := fpBin .dyn o s fun m _ a b => fminmax true m a b

/-- The conditions of `FCMP` and the NV they raise (R106). -/
def fcmp (cc : Fcc) (a b : FVal) : Bool × BitVec 5 :=
  let un := a.isNan || b.isNan
  let sig := flIf (a.isSig || b.isSig) flNV
  let lt := fless false a b
  let gt := fless false b a
  match cc with
  | .eq => (!un && !lt && !gt, sig)
  | .ne => (un || lt || gt, sig)
  | .lt => (!un && lt, flIf un flNV)
  | .le => (!un && !gt, flIf un flNV)
  | .gt => (!un && gt, flIf un flNV)
  | .ge => (!un && !lt, flIf un flNV)
  | .un => (un, sig)
  | .ord => (!un, sig)

/-- `FCMP` (R106). -/
def execFcmp (cc : Fcc) (o : Cmp) (s : State) : Out :=
  perform s o.h [o.a, o.b] fun c w e =>
    let v := w.fenv .dyn
    let m := fmtOf o.t
    let r := fun i => fcmp cc (m.read v.daz (rdTy o.t w i o.a).toNat) (m.read v.daz (rdTy o.t w i o.b).toNat)
    s.done c fun _ =>
      let w' := w.retireWith c e fun i st => st.setP o.p (r i).1
      { w' with fpflags := w'.fpflags ||| flagsOf e fun i => (r i).2 }

/-- The class bit of a pattern (R107). -/
def fclass (m : Fmt) (b : Nat) : Nat :=
  match m.read false b with
  | .nan sg => if sg then 8 else 9
  | .inf n => if n then 0 else 7
  | .fin n x _ =>
    if x = 0 then (if n then 3 else 4)
    else if x < 2 ^ m.m then (if n then 2 else 5)
    else if n then 1 else 6

/-- `FCLASS` (R107): the raw input, no flag. -/
def execFclass (o : Un) (s : State) : Out :=
  perform s o.h [o.a] fun c w e =>
    dataNext s c e o.h o.d false false fun i => BitVec.ofNat 64 (2 ^ fclass (fmtOf o.t) (rdTy o.t w i o.a).toNat)

/-- `FRND` (R108). -/
def frnd (m : Fmt) (v : FEnv) (a : FVal) : FRes :=
  match a with
  | .nan sg => (m.nan, flIf sg flNV)
  | .inf n => (m.withSign n m.infBits, noFlag)
  | .fin n x e => (m.roundInt plainEnv (let r : Int := (roundAt v.mode n x e false 0).1; if n then -r else r) 0 n |>.1, noFlag)

/-- Round a function's magnitude. -/
def Fmt.roundApprox (m : Fmt) (v : FEnv) (neg : Bool) (a : Approx) : FRes :=
  if a.1 = 0 then (m.withSign neg 0, noFlag) else m.round v neg a.1 a.2.1 a.2.2

/-- `FRCP` (R109). -/
def frcp (m : Fmt) (v : FEnv) (a : FVal) : FRes :=
  match a with
  | .nan sg => (m.nan, flIf sg flNV)
  | .inf n => (m.withSign n 0, noFlag)
  | .fin n x e => if x = 0 then (m.withSign n m.infBits, flDZ) else m.roundApprox v n (divApprox 1 0 x e)

/-- `FRSQ` (R109). -/
def frsq (m : Fmt) (v : FEnv) (a : FVal) : FRes :=
  match a with
  | .nan sg => (m.nan, flIf sg flNV)
  | .inf n => if n then m.invalid else (0, noFlag)
  | .fin n x e =>
    if x = 0 then (m.withSign n m.infBits, flDZ) else if n then m.invalid else m.roundApprox v false (rsqrtApprox x e)

/-- `FSQRT` (R109). -/
def fsqrt (m : Fmt) (v : FEnv) (a : FVal) : FRes :=
  match a with
  | .nan sg => (m.nan, flIf sg flNV)
  | .inf n => if n then m.invalid else (m.infBits, noFlag)
  | .fin n x e =>
    if x = 0 then (m.withSign n 0, noFlag) else if n then m.invalid else m.roundApprox v false (sqrtApprox x e)

/-- `FEXP2` (R109). -/
def fexp2 (m : Fmt) (v : FEnv) (a : FVal) : FRes :=
  match a with
  | .nan sg => (m.nan, flIf sg flNV)
  | .inf n => (if n then 0 else m.infBits, noFlag)
  | .fin n x e => m.roundApprox v false (if x = 0 then (1, 0, false) else exp2Approx n x e)

/-- `FLOG2` (R109). -/
def flog2 (m : Fmt) (v : FEnv) (a : FVal) : FRes :=
  match a with
  | .nan sg => (m.nan, flIf sg flNV)
  | .inf n => if n then m.invalid else (m.infBits, noFlag)
  | .fin n x e =>
    if x = 0 then (m.withSign true m.infBits, flDZ)
    else if n then m.invalid
    else let r := log2Approx x e; if r.2.1 = 0 then (0, noFlag) else m.roundApprox v r.1 r.2

/-- `FSIN` and `FCOS` (R110): rounded toward zero; beyond 65,536 the canonical NaN with NV. -/
def ftrig (cosine : Bool) (m : Fmt) (v : FEnv) (a : FVal) : FRes :=
  match a with
  | .nan sg => (m.nan, flIf sg flNV)
  | .inf _ => m.invalid
  | .fin n x e =>
    if x = 0 then (if cosine then (m.roundInt plainEnv 1 0 false).1 else m.withSign n 0, noFlag)
    else if (exactSum [{ neg := false, n := x, e := e }, { neg := true, n := 65536, e := 0 }]) > 0 then m.invalid
    else
      let r := trigApprox cosine x e
      m.roundApprox { v with mode := .zero } (r.1 != (n && !cosine)) r.2

/-- `FRND` (R108). -/
def execFrnd (rm : Rm) (o : Un) (s : State) : Out := fpUn rm o s frnd
/-- `FRCP` (R109). -/
def execFrcp (rm : Rm) (o : Un) (s : State) : Out := fpUn rm o s frcp
/-- `FRSQ` (R109). -/
def execFrsq (rm : Rm) (o : Un) (s : State) : Out := fpUn rm o s frsq
/-- `FSQRT` (R109). -/
def execFsqrt (rm : Rm) (o : Un) (s : State) : Out := fpUn rm o s fsqrt
/-- `FEXP2` (R109). -/
def execFexp2 (rm : Rm) (o : Un) (s : State) : Out := fpUn rm o s fexp2
/-- `FLOG2` (R109). -/
def execFlog2 (rm : Rm) (o : Un) (s : State) : Out := fpUn rm o s flog2
/-- `FSIN` (R110). -/
def execFsin (o : Un) (s : State) : Out := fpUn .rz o s (ftrig false)
/-- `FCOS` (R110). -/
def execFcos (o : Un) (s : State) : Out := fpUn .rz o s (ftrig true)

/-! ## Welford statistics (R111 to R113) -/

/-- A value under computation with the flags raised so far. -/
abbrev FAcc := Nat × BitVec 5

/-- One rne operation of R111 on two FP32 patterns. -/
def rneOp (v : FEnv) (f : Fmt → FEnv → FVal → FVal → FRes) (a b : FAcc) : FAcc :=
  let r := f fmt32 v (fmt32.read v.daz a.1) (fmt32.read v.daz b.1)
  (r.1, a.2 ||| b.2 ||| r.2)

/-- round(a / b): the division of R112 and R113. -/
def fdiv (m : Fmt) (v : FEnv) (a b : FVal) : FRes :=
  let neg := a.neg != b.neg
  match a, b with
  | .fin _ x e, .fin _ y f =>
    if y = 0 then (if x = 0 then m.invalid else (m.withSign neg m.infBits, flDZ))
    else if x = 0 then (m.withSign neg 0, noFlag)
    else
      let d := divApprox (x * 2 ^ 80) (e - 80) y f
      m.roundApprox v neg d
  | .inf _, .inf _ => m.invalid
  | .inf _, .fin _ _ _ => (m.withSign neg m.infBits, noFlag)
  | .fin _ _ _, .inf _ => (m.withSign neg 0, noFlag)
  | a, b => (m.nan, flIf (a.isSig || b.isSig) flNV)

/-- The environment of R111: nearest even whatever FPCTL.RM, with its DAZ and FTZ. -/
def Wave.welfEnv (w : Wave) : FEnv := w.fenv .rn

/-- A triple of v registers (R111). -/
def Strand.triple (st : Strand) (n : Nat) : Nat × Nat × Nat :=
  ((st.v32 n).toNat, (st.v32 (n + 1)).toNat, (st.v32 (n + 2)).toNat)

/-- Write a triple. -/
def Strand.setTriple (st : Strand) (n : Nat) (x : Nat × Nat × Nat) : Strand :=
  ((st.setV n (BitVec.ofNat 32 x.1)).setV (n + 1) (BitVec.ofNat 32 x.2.1)).setV (n + 2) (BitVec.ofNat 32 x.2.2)

/-- One Welford step (R112): the new triple and the flags. -/
def welfStep (v : FEnv) (t : Nat × Nat × Nat) (x : Nat) : (Nat × Nat × Nat) × BitVec 5 :=
  let n : FAcc := (t.1, 0)
  let m : FAcc := (t.2.1, 0)
  let q : FAcc := (t.2.2, 0)
  let y : FAcc := (x, 0)
  let n1 := rneOp v fadd n (0x3F800000, 0)
  let dl := rneOp v fsub y m
  let m1 := rneOp v fadd m (rneOp v fdiv dl n1)
  let d2 := rneOp v fsub y m1
  let q1 := rneOp v fadd q (rneOp v fmul dl d2)
  ((n1.1, m1.1, q1.1), n1.2 ||| m1.2 ||| d2.2 ||| q1.2)

/-- The Chan merge of two triples (R113). -/
def welfMerge (v : FEnv) (a b : Nat × Nat × Nat) : (Nat × Nat × Nat) × BitVec 5 :=
  if (fmt32.read v.daz a.1).isZero then (b, noFlag)
  else if (fmt32.read v.daz b.1).isZero then (a, noFlag)
  else
    let na : FAcc := (a.1, 0)
    let nb : FAcc := (b.1, 0)
    let n := rneOp v fadd na nb
    let dl := rneOp v fsub (b.2.1, 0) (a.2.1, 0)
    let f := rneOp v fdiv nb n
    let m := rneOp v fadd (a.2.1, 0) (rneOp v fmul dl f)
    let q := rneOp v fadd (rneOp v fadd (a.2.2, 0) (b.2.2, 0))
      (rneOp v fmul (rneOp v fmul (rneOp v fmul dl dl) na) f)
    ((n.1, m.1, q.1), n.2 ||| m.2 ||| q.2)

/-- `FWELF` (R112): the triple, and no latch value. -/
def execFwelf (h : Hd) (d a : BitVec 8) (x : Src) (s : State) : Out :=
  perform s h [x] fun c w e =>
    let r := fun i => welfStep w.welfEnv ((w.strand i).triple a.toNat) (rdTy .f32 w i x).toNat
    s.done c fun _ =>
      let w' := w.retireWith c e fun i st => st.setTriple d.toNat (r i).1
      { w' with fpflags := w'.fpflags ||| flagsOf e fun i => (r i).2 }

/-- `FWMERGE` (R113): in the B96 form the second triple is (1.0, y, +0) (R111). -/
def execFwmerge (h : Hd) (d a : BitVec 8) (b : Src) (s : State) : Out :=
  perform s h [] fun c w e =>
    let second := fun i => match b with
      | .imm32 y => (0x3F800000, y.toNat, 0)
      | .v n => (w.strand i).triple n.toNat
      | _ => (0, 0, 0)
    let r := fun i => welfMerge w.welfEnv ((w.strand i).triple a.toNat) (second i)
    s.done c fun _ =>
      let w' := w.retireWith c e fun i st => st.setTriple d.toNat (r i).1
      { w' with fpflags := w'.fpflags ||| flagsOf e fun i => (r i).2 }

/-! ## Wave reductions (R114) -/

/-- The identity of a reduction: -0, +Inf, -Inf. -/
def redwId (op : RedwOp) : Nat :=
  match op with
  | .add => 0x80000000
  | .min => 0x7F800000
  | .max => 0xFF800000

/-- One combination of the tree. -/
def redwCombine (op : RedwOp) (v : FEnv) (a b : FAcc) : FAcc :=
  match op with
  | .add => rneOp v fadd a b
  | .min => rneOp v (fun m _ x y => fminmax false m x y) a b
  | .max => rneOp v (fun m _ x y => fminmax true m x y) a b

/-- Combine neighbours: one level of the tree. -/
def pairUp {α : Type} (f : α → α → α) : List α → List α
  | a :: b :: r => f a b :: pairUp f r
  | l => l

/-- The tree over 32 slots (R114): distances 1, 2, 4, 8, 16. -/
def treeOf {α : Type} (f : α → α → α) (d : α) (l : List α) : α :=
  (pairUp f (pairUp f (pairUp f (pairUp f (pairUp f l))))).headD d

/-- `FREDW` (R114). -/
def execFredw (op : RedwOp) (o : Un) (s : State) : Out :=
  perform s o.h [o.a] fun c w e =>
    let v := w.welfEnv
    let leaf := fun i => if e.getLsbD i then ((rdTy .f32 w i o.a).toNat, noFlag) else (redwId op, noFlag)
    let r := treeOf (redwCombine op v) (redwId op, noFlag) ((List.range 32).map leaf)
    fpNext s c e o.h o.d fun _ => r

end Sys2Proof.Machine
end

