-- ==== Sys2Proof/Machine/Hub.lean ====
section
/-! DEFINITION. Machine/Hub.lean: the management space (15_host R404 to R408, R411, R412): its registers, ownership, doorbells
and error records, as the two ports and level-2 code reach them. -/

namespace Sys2Proof.Machine

/-- A port's record. -/
def Hub.port (h : Hub) (p : Bool) : Port := if p then h.p1 else h.p0
/-- Change a port's record. -/
def Hub.setPort (h : Hub) (p : Bool) (x : Port) : Hub := if p then { h with p1 := x } else { h with p0 := x }
/-- Who accesses: a port, or level-2 code (none), whose writes count as the owner's (R405). -/
def Hub.mayWrite (h : Hub) (who : Option Bool) : Bool :=
  match who with
  | none => true
  | some p => h.owner == some p

/-- Code of MG_OWNER (R406). -/
def Hub.ownerCode (h : Hub) : Nat := match h.owner with | none => 0 | some false => 1 | some true => 2

/-- MG_ID (R406). -/
def Hub.mgId (h : Hub) : Nat := 0x7400 + (h.steps.headD 0).toNat * 2 ^ 16
/-- MG_BOOTST (R406). -/
def Hub.mgBootst (h : Hub) : Nat := h.bootState.toNat + h.bootReason.toNat * 2 ^ 8
/-- MG_CMD (R406). -/
def Hub.mgCmd (h : Hub) : Nat :=
  h.cmdOp.toNat + h.cmdCtx.toNat * 2 ^ 8 + h.busy.toNat * 2 ^ 14 + h.cmdErr.toNat * 2 ^ 15 + h.estat.toNat * 2 ^ 16
/-- MG_PWR (R406). -/
def Hub.mgPwr (h : Hub) : Nat := h.avg.toNat + h.limit.toNat * 2 ^ 16 + h.throttle.toNat * 2 ^ 32

/-- The 64-bit register at an aligned offset below 0x68, as it reads (R405, R406). -/
def Hub.reg (h : Hub) (who : Option Bool) (off : Nat) : Nat :=
  match off with
  | 0x00 => h.mgId
  | 0x08 => h.mgBootst
  | 0x10 => h.ownerCode + (match who with | some p => (h.owner == some p).toNat * 4 | none => 0)
  | 0x28 => h.mgCmd
  | 0x30 => h.arg0.toNat
  | 0x38 => h.arg1.toNat
  | 0x40 => h.arg2.toNat
  | 0x48 => h.arg3.toNat
  | 0x50 => h.mgPwr
  | 0x58 => (h.port (who.getD false)).winbase.toNat
  | 0x60 => if who == none then h.p1.winbase.toNat else 0
  | _ => 0

/-- State code of a context in its error record (R412). -/
def CtxSt.code : CtxSt → Nat
  | .free => 0 | .switchedOut => 1 | .running => 2 | .aborted => 3 | .leaving => 2

/-- The 64 bytes of a context's error record (R412), as a number. -/
def Ctx.errRecord (c : Ctx) : Nat :=
  let e := c.err
  e.cause.toNat + c.st.code * 2 ^ 8 + e.faults.toNat * 2 ^ 16 + e.source.toNat * 2 ^ 48 + e.fcause.toNat * 2 ^ 56 +
  e.trappc.toNat * 2 ^ 64 + e.forced.toNat * 2 ^ 128 + e.uncorr.toNat * 2 ^ 192 + e.uncAddr.toNat * 2 ^ 256 +
  e.halt.toNat * 2 ^ 320 + e.haltPc.toNat * 2 ^ 384 +
  (e.core.toNat + e.wave.toNat * 2 ^ 10 + e.bells.toNat * 2 ^ 15) * 2 ^ 448

/-- A byte of the management space as it reads (R405); an access the table does not allow reads zero. -/
def State.mgByte (s : State) (who : Option Bool) (off : Nat) : BitVec 8 :=
  if off < 0x68 then BitVec.ofNat 8 (s.hub.reg who (off / 8 * 8) / 2 ^ (8 * (off % 8)))
  else if 0x20000 ≤ off && off < 0x21000 then
    BitVec.ofNat 8 ((s.ctxD ((off - 0x20000) / 64)).errRecord / 2 ^ (8 * (off % 64)))
  else if 0x30000 ≤ off && off < 0x30200 then memGet s.hub.report (off - 0x30000)
  else if 0x30200 ≤ off && off < 0x30C00 then memGet s.hub.identity (off - 0x30200)
  else 0

/-- A doorbell write (R408): a valid producer count is taken, any other value is ignored and counted; a free context
records nothing. -/
def State.ringDoorbell (s : State) (c q : Nat) (p : BitVec 32) : State :=
  let x := s.ctxD c
  if x.st == .free then s
  else
    let k := x.queues.getD q {}
    if k.isSet && (p - k.cidx).toNat ≤ k.cap && (p - k.pidx).toNat ≤ k.cap then
      s.updCtx c fun x => { x with queues := x.queues.set q { k with pidx := p } }
    else s.updErr c fun e => { e with bells := if e.bells == 0xFF then e.bells else e.bells + 1 }

/-- A claim (R407): judged when no port owns the device. -/
def State.claim (s : State) (p : Bool) : State :=
  if s.hub.owner == none then s.updHub fun h => { h with owner := some p } else s

/-- A write of MG_HANDOVER by the owner (R407); `target` is the TARGET field. -/
def State.handover (s : State) (target : Nat) : State :=
  match target with
  | 0 => s.updHub fun h => { h with owner := none }
  | 1 => if s.hub.owner == none then s else s.updHub fun h => { h with owner := some false }
  | 2 => if s.hub.owner == none then s else s.updHub fun h => { h with owner := some true }
  | _ => s

/-- The 8-byte value a register has after some of its bytes are written. -/
def mergeBytes (old : Nat) (bs : List (Option (BitVec 8))) : Nat :=
  (List.range 8).foldl (fun n i =>
    let b := match bs.getD i none with
      | some x => x.toNat
      | none => old / 2 ^ (8 * i) % 256
    n + b * 2 ^ (8 * i)) 0

/-- A command is written into MG_CMD (R411): BUSY is set, and the command waits to act. -/
def Hub.issueCommand (h : Hub) (x : Nat) : Hub :=
  let op := BitVec.ofNat 8 x
  let cx := BitVec.ofNat 6 (x / 256)
  { h with
    cmdOp := op, cmdCtx := cx, busy := true, cmdErr := false, estat := 0,
    command := some { op := op, ctx := cx.toNat } }

/-- Write to an aligned register of the management space (R405 to R408): the bytes that are written, by position. A write
the table does not allow is dropped. While no port owns the device, a port can write MG_CLAIM only (R407). -/
def State.mgWriteReg (s : State) (who : Option Bool) (off : Nat) (bs : List (Option (BitVec 8))) : State :=
  let h := s.hub
  let x := mergeBytes (h.reg who off) bs
  let may := h.mayWrite who
  let arg := fun (f : Hub → Hub) => if may && !h.busy then s.updHub f else s
  let win := BitVec.ofNat 64 x &&& 0x3FFC0000000
  if off == 0x18 then (match who with | some p => s.claim p | none => s)
  else if off == 0x20 then (if may then s.handover (x % 4) else s)
  else if off == 0x28 then arg fun h => h.issueCommand x
  else if off == 0x30 then arg fun h => { h with arg0 := BitVec.ofNat 64 x }
  else if off == 0x38 then arg fun h => { h with arg1 := BitVec.ofNat 64 x }
  else if off == 0x40 then arg fun h => { h with arg2 := BitVec.ofNat 64 x }
  else if off == 0x48 then arg fun h => { h with arg3 := BitVec.ofNat 64 x }
  else if off == 0x58 then
    if who == none || h.owner != none then
      let p := who.getD false
      s.updHub fun h => h.setPort p { h.port p with winbase := win }
    else s
  else if off == 0x60 then
    if who == none then s.updHub fun h => h.setPort true { h.p1 with winbase := win } else s
  else if 0x10000 ≤ off && off < 0x18000 then
    if may && (bs.take 4).all (·.isSome) then
      s.ringDoorbell ((off - 0x10000) / 512) ((off - 0x10000) / 8 % 64) (BitVec.ofNat 32 (mergeBytes 0 bs))
    else s
  else if 0x1000000 ≤ off && off < 0x2000000 then
    if may && h.bootState != 3 then
      let img := (List.range 8).foldl (fun m i => match bs.getD i none with
        | some b => memSet m (off - 0x1000000 + i) b
        | none => m) h.image
      s.updHub fun h => { h with image := img }
    else s
  else s

/-- Write bytes into the management space, register by register in ascending order. -/
def State.mgWrite (s : State) (who : Option Bool) (off : Nat) (bytes : List (BitVec 8)) : State :=
  let n := bytes.length
  let first := off / 8
  let last := (off + n - 1) / 8
  if n = 0 then s
  else (List.range (last + 1 - first)).foldl (fun s k =>
    let a := (first + k) * 8
    s.mgWriteReg who a ((List.range 8).map fun i =>
      if off ≤ a + i && a + i < off + n then bytes[a + i - off]? else none)) s

end Sys2Proof.Machine
end

