-- ==== Sys2Proof/Machine/Memory.lean ====
section
/-! DEFINITION. Machine/Memory.lean: physical memory and its caches (06_memory R147, R154 to R156, R161, 07_ordering R189,
R194), translation, permission and worlds (06_memory R148 to R153, 14_system R394 to R397), and what a workgroup sees and
writes through versions and staged stores (06_memory R175, R176, 12_tasks R330, R331, R339). -/

namespace Sys2Proof.Machine

/-! ## Physical addresses (R147, R19) -/

/-- The apertures of R147. -/
inductive Aperture where
  | cached | direct | window
  deriving DecidableEq, Repr

/-- What a physical address reaches. -/
inductive Place where
  /-- A cell of either tier, through an aperture. -/
  | cell (c : Nat) (a : Aperture)
  /-- Memory of the host on a port. -/
  | host (port : Bool)
  /-- The device register space, at an offset. -/
  | regs (off : Nat)
  /-- Reserved: reads return zero, writes are dropped. -/
  | nowhere
  deriving DecidableEq, Repr

/-- A cell number that R19 gives to a tier. -/
def isCell (c : Nat) : Bool := c < 0x0C000000000 || (0x10000000000 ≤ c && c < 0x40000000000)

/-- The home die of a cell (R19, R147). -/
def homeDie (c : Nat) : Nat := if c < 0x0C000000000 then c / 0x03000000000 else c / 4096 % 4

/-- The map of R147. -/
def place (pa : Nat) : Place :=
  let at_ := fun a => if isCell (pa % 2 ^ 42) then Place.cell (pa % 2 ^ 42) a else .nowhere
  match pa / 2 ^ 42 with
  | 0 => at_ .cached
  | 1 => at_ .direct
  | 2 => at_ .window
  | _ =>
    if pa / 2 ^ 48 == 8 then .host false
    else if pa / 2 ^ 48 == 9 then .host true
    else if 0xF000000000000 ≤ pa && pa < 0xF000002000000 then .regs (pa - 0xF000000000000)
    else .nowhere

/-- The port carries accesses to its host (R147). -/
def Port.carries (p : Port) : Bool := p.link && p.master

/-! ## The L2s and the memory cells (R155, R156) -/

/-- A byte of a copy. -/
def L2Line.byte (x : L2Line) (off : Nat) : BitVec 8 := (x.bytes.get? off).getD (x.base.getD off 0)

/-- The copy with a byte no longer dirty: it keeps its value. -/
def L2Line.settle (x : L2Line) (off : Nat) : L2Line :=
  match x.bytes.get? off with
  | none => x
  | some b => { x with base := x.base.set off b, bytes := x.bytes.del off }

/-- The copy with every byte clean. -/
def L2Line.clean (x : L2Line) : L2Line :=
  { x with base := (List.range 64).map fun k => x.byte k, bytes := [] }

/-- The copy of a line in a die. -/
def Memory.l2Copy (m : Memory) (line die : Nat) : Option L2Line := m.l2.find? fun x => x.line == line && x.die == die

/-- A byte through the direct aperture (R156): from the home die's copy, or from memory. -/
def Memory.directByte (m : Memory) (c : Nat) : BitVec 8 :=
  match m.l2Copy (c / 64) (homeDie c) with
  | some x => x.byte (c % 64)
  | none => memGet m.cells c

/-- A byte that no copy of the reading die serves (R155): from the copy that holds it dirty, or from memory. -/
def Memory.missByte (m : Memory) (c : Nat) : BitVec 8 :=
  (((m.l2.filter (·.line == c / 64)).findSome? fun x => x.bytes.get? (c % 64))).getD (memGet m.cells c)

/-- A byte through the cached aperture from a die (R155). -/
def Memory.cachedByte (m : Memory) (c die : Nat) : BitVec 8 :=
  match m.l2Copy (c / 64) die with
  | some x => x.byte (c % 64)
  | none => m.missByte c

/-- A line as a die without a copy obtains it. -/
def Memory.missLine (m : Memory) (line : Nat) : List (BitVec 8) := (List.range 64).map fun k => m.missByte (64 * line + k)

/-- Read a byte at a physical address from a die (R147, R155, R156). -/
def State.readByte (s : State) (die pa : Nat) : BitVec 8 :=
  match place pa with
  | .cell c .cached => s.mem.cachedByte c die
  | .cell c .direct => s.mem.directByte c
  | .cell c .window => memGet s.mem.cells c
  | .host p => if (s.hub.port p).carries then memGet s.mem.cells pa else 0xFF
  | .regs off => s.mgByte none off
  | .nowhere => 0

/-- Read bytes at a physical address. -/
def State.readBytes (s : State) (die pa n : Nat) : List (BitVec 8) := (List.range n).map fun i => s.readByte die (pa + i)

/-- A read of a die obtains a shared copy of the line (R155). -/
def Memory.l2Fill (m : Memory) (die pa : Nat) : Memory :=
  match place pa with
  | .cell c .cached =>
    if (m.l2Copy (c / 64) die).isSome then m
    else { m with l2 := m.l2 ++ [{ line := c / 64, die := die, owner := 0, base := m.missLine (c / 64) }] }
  | _ => m

/-- The copy that a die writes: its own, or the line as it obtains it. -/
def Memory.l2Own (m : Memory) (line die : Nat) (asid : BitVec 12) : L2Line :=
  { ((m.l2Copy line die).getD { line := line, die := die, owner := asid, base := m.missLine line }) with owner := asid }

/-- A die's copy of a line with what the other copies hold dirty (R155). -/
def Memory.l2Whole (m : Memory) (line die : Nat) (asid : BitVec 12) : L2Line :=
  let x := m.l2Own line die asid
  let others := m.l2.filter fun y => y.line == line && y.die != die
  { x with bytes := others.foldl (fun (t : Tab (BitVec 8)) y => t.setAll y.bytes) x.bytes }

/-- A die takes a line exclusively: the other copies are invalidated (R155, R292). -/
def Memory.l2Take (m : Memory) (line die : Nat) (asid : BitVec 12) : Memory :=
  { m with l2 := (m.l2.filter fun y => y.line != line) ++ [m.l2Whole line die asid] }

/-- Write a byte of a cell through the cached aperture (R155): the die takes the line exclusively. -/
def Memory.cachedWrite (m : Memory) (c die : Nat) (asid : BitVec 12) (b : BitVec 8) : Memory :=
  let x := m.l2Whole (c / 64) die asid
  { m with l2 := (m.l2.filter fun y => y.line != c / 64) ++ [{ x with bytes := x.bytes.set (c % 64) b }] }

/-- No copy of a line keeps a byte dirty that is written beside it, through another aperture: what it holds is no longer
written back (R183, R189). -/
def Memory.settle (m : Memory) (c : Nat) : Memory :=
  { m with l2 := m.l2.map fun x => if x.line == c / 64 then x.settle (c % 64) else x }

/-- Write a byte of a cell through the direct aperture, into the home die's copy (R156). -/
def Memory.directWrite (m : Memory) (c : Nat) (asid : BitVec 12) (b : BitVec 8) : Memory :=
  let line := c / 64
  let x := m.l2Own line (homeDie c) asid
  let m := m.settle c
  { m with
    l2 := (m.l2.filter fun y => !(y.line == line && y.die == homeDie c)) ++ [{ x with bytes := x.bytes.set (c % 64) b }] }

/-- Write a byte of a cell through the host window, in memory (R156). -/
def Memory.windowWrite (m : Memory) (c : Nat) (b : BitVec 8) : Memory :=
  let m := m.settle c
  { m with cells := memSet m.cells c b }

/-- Write a byte at a physical address from a die, for an ASID; writes into the register space are whole words elsewhere. -/
def Memory.writeByte (m : Memory) (h : Hub) (die : Nat) (asid : BitVec 12) (pa : Nat) (b : BitVec 8) : Memory :=
  match place pa with
  | .cell c .cached => m.cachedWrite c die asid b
  | .cell c .direct => m.directWrite c asid b
  | .cell c .window => m.windowWrite c b
  | .host p => if (h.port p).carries then { m with cells := memSet m.cells pa b } else m
  | .regs _ => m
  | .nowhere => m

/-- The cell that a physical address reaches. -/
def cellOf (pa : Nat) : Option Nat := match place pa with | .cell c _ => some c | _ => none

/-- A write of 32 aligned bytes or more clears the poison of the sectors it covers (R161). -/
def Memory.clearPoison (m : Memory) (pa n : Nat) : Memory :=
  match cellOf pa with
  | none => m
  | some c => { m with poison := m.poison.filter fun x => !(c ≤ 32 * x && 32 * x + 32 ≤ c + n) }

/-- The granules of a page that migrates which a write of `n` bytes at a cell touches (R159). -/
def Migration.granules (x : Migration) (c n : Nat) : List Nat :=
  let lo := max c x.src
  let hi := min (c + n) (x.src + x.size)
  if lo < hi then (List.range ((hi - 1 - x.src) / 4096 + 1 - (lo - x.src) / 4096)).map fun k => (lo - x.src) / 4096 + k else []

/-- A write to a page that migrates marks its granules (R159). -/
def Memory.markDirty (m : Memory) (pa n : Nat) : Memory :=
  match cellOf pa with
  | none => m
  | some c => { m with migs := m.migs.mapVals fun _ x =>
      { x with dirty := x.dirty ++ (x.granules c n).filter fun k => !x.dirty.contains k } }

/-- Write bytes at a physical address. -/
def State.writeBytes (s : State) (die : Nat) (asid : BitVec 12) (pa : Nat) (bs : List (BitVec 8)) : State :=
  match place pa with
  | .regs off => s.mgWrite none off bs
  | _ =>
    let m := ((List.range bs.length).zip bs).foldl (fun m x => m.writeByte s.hub die asid (pa + x.1) x.2) s.mem
    { s with mem := (m.clearPoison pa bs.length).markDirty pa bs.length }

/-- A byte of the range lies in a poisoned sector (R161). -/
def State.poisoned (s : State) (pa n : Nat) : Bool :=
  match cellOf pa with
  | none => false
  | some c => s.mem.poison.any fun x => c < 32 * x + 32 && 32 * x < c + n

/-- Writes to the page are stalled for a migration (R159 step 2). -/
def State.stalledAt (s : State) (pa : Nat) : Bool :=
  match cellOf pa with
  | none => false
  | some c => s.mem.migs.any fun e => e.2.stalled && e.2.src ≤ c && c < e.2.src + e.2.size

/-- Write what copies of a line hold dirty back to memory; they stay valid (R173, R194). An error found in it is charged to
the line's last writer (R161). -/
def State.writeBackOf (s : State) (line : Nat) (p : L2Line → Bool) : State :=
  let cs := s.mem.l2.filter fun x => x.line == line && p x && !x.bytes.isEmpty
  let cells := cs.foldl (fun m x => x.bytes.foldl (fun m e => memSet m (line * 64 + e.1) e.2) m) s.mem.cells
  let bad := s.mem.poison.filter fun x => x / 2 == line
  let l2 := s.mem.l2.map fun x => if x.line == line && p x then x.clean else x
  let s := { s with mem := { s.mem with cells := cells, l2 := l2 } }
  cs.foldl (fun s x => bad.foldl (fun s b =>
    { s with ctxs := s.ctxs.mapVals fun _ c =>
        if c.st != .free && BitVec.ofNat 12 c.asidNow.toNat == x.owner then
          { c with err := { c.err with uncorr := c.err.uncorr + 1, uncAddr := BitVec.ofNat 64 (b * 32) } }
        else c }) s) s

/-- Write every dirty copy of a line back. -/
def State.writeBack (s : State) (line : Nat) : State := s.writeBackOf line fun _ => true

/-- Drop copies of a line. -/
def State.l2Drop (s : State) (line : Nat) (p : L2Line → Bool) : State :=
  s.updMem fun m => { m with l2 := m.l2.filter fun x => !(x.line == line && p x) }

/-- A die's L2 evicts a line (R155, R161): what is dirty is written back. -/
def State.l2Evict (s : State) (die line : Nat) : State :=
  (s.writeBackOf line fun x => x.die == die).l2Drop line fun x => x.die == die

/-- The home die's copy of a line holds what memory does. -/
def State.l2Renew (s : State) (line : Nat) : State :=
  s.updMem fun m => { m with l2 := m.l2.map fun x =>
    if x.line == line then { x with base := (List.range 64).map fun k => memGet m.cells (64 * line + k) } else x }

/-- A line goes home (R194): what is dirty is written back, the other dies lose their copies and the home die holds what
memory does. -/
def State.aliasL2 (s : State) (line : Nat) : State :=
  ((s.writeBack line).l2Drop line fun x => x.die != homeDie (64 * line)).l2Renew line

/-- Write every dirty line back. -/
def State.writeBackAll (s : State) : State := ((s.mem.l2.map (·.line)).eraseDups).foldl State.writeBack s

/-! ## The L1 and the instruction cache (R154, R65) -/

/-- Drop a line from a core's L1. -/
def State.l1Drop (s : State) (core line : Nat) : State :=
  s.updMem fun m => { m with l1 := m.l1.filter fun x => !(x.core == core && x.line == line) }
/-- Drop a core's whole L1. -/
def State.l1DropAll (s : State) (core : Nat) : State :=
  s.updMem fun m => { m with l1 := m.l1.filter fun x => x.core != core }
/-- Drop a line from every L1. -/
def State.l1DropLine (s : State) (line : Nat) : State := s.updMem fun m => { m with l1 := m.l1.filter fun x => x.line != line }

/-- A cached-aperture line that a core's L1 or instruction cache holds. -/
def findLine (l : List CoreLine) (core line : Nat) : Option (List (BitVec 8)) :=
  (l.find? fun x => x.core == core && x.line == line).map (·.bytes)

/-- Room for one more line of a core: of 768 lines, its 48 KiB, the one filled first goes (R154, log 10). -/
def l1Room (l : List CoreLine) (core : Nat) : List CoreLine :=
  let mine := l.filter fun x => x.core == core
  match mine with
  | [] => l
  | x :: _ => if mine.length < 768 then l else l.erase x

/-- Put a line into a core's L1 (R154: the cached aperture only). -/
def State.l1Fill (s : State) (core pa : Nat) : State :=
  match place pa with
  | .cell _ .cached =>
    if (findLine s.mem.l1 core (pa / 64)).isSome then s
    else
      let bs := s.readBytes (dieOf core) (pa / 64 * 64) 64
      s.updMem fun m => { m with l1 := l1Room m.l1 core ++ [{ core := core, line := pa / 64, bytes := bs }] }
  | _ => s

/-- Read as an LS load of a core does: a plain load may be served by the L1 (R154, R184). -/
def State.lsBytes (s : State) (core pa n : Nat) (plain : Bool) : List (BitVec 8) :=
  match plain, findLine s.mem.l1 core (pa / 64) with
  | true, some l => (l.drop (pa % 64)).take n
  | _, _ => s.readBytes (dieOf core) pa n

/-! ## Worlds (R394 to R397) -/

/-- A logical cluster is secure. -/
def State.secCluster (s : State) (c : Nat) : Bool := match s.hub.cfg with | some r => r.secCl.contains c | none => false
/-- A cluster's copy engine is secure. -/
def State.secCopy (s : State) (c : Nat) : Bool := match s.hub.cfg with | some r => r.secCp.contains c | none => false
/-- A cluster's atomic service unit is secure. -/
def State.secAsu (s : State) (c : Nat) : Bool := match s.hub.cfg with | some r => r.secAsu.contains c | none => false
/-- The scale-out engine is secure. -/
def State.secXo (s : State) : Bool := match s.hub.cfg with | some r => r.secXo | none => false
/-- The management block is secure. -/
def State.secMg (s : State) : Bool := match s.hub.cfg with | some r => r.secMg | none => false

/-- An entry of the region table (R396), where it is valid. -/
def regionEntry (bs : List (BitVec 8)) : Option (Nat × Nat × Bool) :=
  let lo := ofBytes (bs.take 8)
  let hi := ofBytes (bs.drop 8)
  if lo % 2 == 1 && field lo 2 10 == 0 && lo / 2 ^ 52 == 0 && field hi 0 12 == 0 && hi / 2 ^ 52 == 0 then
    some (field lo 12 40 * 4096, field hi 12 40 * 4096 + 4095, lo.testBit 1)
  else none

/-- The region table in force (R396, R391). -/
def State.regionTable (s : State) : List (Nat × Nat × Bool) :=
  let r := s.hub.regionsNow.toNat
  if r % 2 == 0 then []
  else (List.range 64).filterMap fun i => regionEntry (s.readBytes 0 (field r 10 42 * 1024 + 16 * i) 16)

/-- What a physical address reaches is secure (R396). -/
def State.securePa (s : State) (t : List (Nat × Nat × Bool)) (pa : Nat) : Bool :=
  match place pa with
  | .cell c _ => match t.find? fun e => e.1 ≤ c && c ≤ e.2.1 with | some e => e.2.2 | none => false
  | .regs _ => s.secMg
  | _ => false

/-! ## Translation (R148 to R153) -/

/-- A failed check: the cause and the subcode of R165. -/
structure Flt where
  cause : Cause
  sub   : Nat
  deriving DecidableEq, Repr

/-- Who accesses: the context, the level (R152), the die whose L2 serves it, the core or cluster whose TLBs it uses, and
whether its block is secure (R395). -/
structure Who where
  ctx     : Nat
  priv    : BitVec 2
  die     : Nat
  core    : Option Nat := none
  cluster : Option Nat := none
  sec     : Bool
  deriving DecidableEq, Repr

/-- What an access needs of its leaf (R152, R173). -/
inductive Need where
  | load | store | fetch | loadOrFetch | loadStore
  deriving DecidableEq, Repr

/-- The permission check of R152, without the level. -/
def Need.missing (n : Need) (pte : Nat) : Option Nat :=
  match n with
  | .load => if pte.testBit 6 then none else some 3
  | .store => if pte.testBit 7 then none else some 4
  | .fetch => if pte.testBit 8 then none else some 5
  | .loadStore => if !pte.testBit 6 then some 3 else if pte.testBit 7 then none else some 4
  | .loadOrFetch => if pte.testBit 6 || pte.testBit 8 then none else some 3

/-- Bits of the page sizes, by SIZE (R150). -/
def pageBits : List Nat := [12, 14, 16, 18, 21, 23, 25, 27, 30, 34]
/-- The levels of R149 from the root: index position and width. -/
def levelBits : List (Nat × Nat) := [(44, 12), (34, 10), (21, 13), (12, 9)]
/-- SIZE codes a level allows (R149). -/
def leafSizes (level : Nat) : List Nat := match level with | 2 => [9] | 1 => [4, 5, 6, 7, 8] | 0 => [0, 1, 2, 3] | _ => []
/-- Bits of the table that a pointer of a level names: the alignment of R149. -/
def tableBits (level : Nat) : Nat := match level with | 3 => 13 | 2 => 16 | _ => 12

/-- A valid entry is malformed (R151). -/
def malformed (level pte : Nat) : Bool :=
  let size := field pte 2 4
  let addr := field pte 12 40 * 4096
  pte / 2 ^ 52 != 0 ||
  if pte.testBit 1 then !(leafSizes level).contains size || addr % 2 ^ pageBits.getD size 0 != 0
  else level == 0 || size != 0 || addr % 2 ^ tableBits level != 0

/-- A walk from a table on (R151): the leaf entry. `sec`: the walk's reads are secure (R395). -/
def State.walkFrom (s : State) (die : Nat) (sec : Bool) (t : List (Nat × Nat × Bool)) (va : Nat) :
    List (Nat × Nat) → Nat → Except Flt Nat
  | [], _ => .error ⟨.translation, 1⟩
  | (lo, n) :: rest, table =>
    let ea := table + 8 * field va lo n
    let pte := ofBytes (s.readBytes die ea 8)
    if !sec && s.securePa t ea then .error ⟨.worldViolation, 0xA⟩
    else if !pte.testBit 0 then .error ⟨.translation, 0⟩
    else if malformed rest.length pte then .error ⟨.translation, 1⟩
    else if pte.testBit 1 then .ok pte
    else s.walkFrom die sec t va rest (field pte 12 40 * 4096)

/-- A walk (R151); with PTBASE.V clear every translation faults (R391). -/
def State.walk (s : State) (a : Who) (t : List (Nat × Nat × Bool)) (va : Nat) : Except Flt Nat :=
  let c := s.ctxD a.ctx
  if !c.ptbaseNow.getLsbD 0 then .error ⟨.translation, 0⟩
  else s.walkFrom a.die (c.worldNow.getLsbD 0 && a.sec) t va levelBits (field c.ptbaseNow.toNat 15 37 * 2 ^ 15)

/-- The bits of a leaf's page. -/
def leafBits (pte : Nat) : Nat := pageBits.getD (field pte 2 4) 12

/-- The TLB entry that serves an access (R153). -/
def State.tlbHit (s : State) (a : Who) (va : Nat) : Option TlbEntry :=
  s.mem.tlb.find? fun e =>
    e.asid == s.asidOf a.ctx && e.va ≤ va && va < e.va + e.size &&
    (match e.core with | some k => a.core == some k | none => a.cluster == some e.cluster)

/-- The leaf of an address and the region table it is judged by: from a TLB, or from a fresh walk. -/
def State.leafOf (s : State) (a : Who) (va : Nat) : Except Flt (Nat × List (Nat × Nat × Bool)) :=
  match s.tlbHit a va with
  | some e => .ok (e.pte.toNat, e.secure)
  | none =>
    let t := s.regionTable
    match s.walk a t va with
    | .error f => .error f
    | .ok pte => .ok (pte, t)

/-- The physical address of a leaf (R151). -/
def leafPa (pte va : Nat) : Nat := field pte 12 40 * 4096 + va % 2 ^ leafBits pte

/-- Range, translation, permission and world of an access (R148, R151, R152, R397), in the order of R166; alignment is
checked before it. -/
def State.translate (s : State) (a : Who) (n : Need) (va : BitVec 64) : Except Flt Nat :=
  if va.toNat / 2 ^ 56 != 0 then .error ⟨.translation, 2⟩
  else match s.leafOf a va.toNat with
  | .error f => .error f
  | .ok (pte, t) =>
    let pa := leafPa pte va.toNat
    let secure := (s.ctxD a.ctx).worldNow.getLsbD 0 && a.sec && !pte.testBit 10
    if a.priv == 0 && !pte.testBit 9 then .error ⟨.permission, 6⟩
    else match n.missing pte with
    | some k => .error ⟨.permission, k⟩
    | none =>
      if a.priv != 2 && (match place pa with | .regs _ => true | _ => false) then .error ⟨.permission, 8⟩
      else if !secure && s.securePa t pa then .error ⟨.worldViolation, 0xA⟩
      else .ok pa

/-- The order of R166 for one aligned access: range, alignment, then the rest. -/
def State.checkAt (s : State) (a : Who) (n : Need) (align : Nat) (va : BitVec 64) : Except Flt Nat :=
  if va.toNat / 2 ^ 56 != 0 then .error ⟨.translation, 2⟩
  else if va.toNat % align != 0 then .error ⟨.misaligned, 0⟩
  else s.translate a n va

/-- Information of a fault of the memory class (R165). -/
def fltInfo (f : Flt) (slot elem : Nat) : BitVec 64 := BitVec.ofNat 64 (slot + elem * 2 ^ 5 + f.sub * 2 ^ 8)

/-- The trap of a failed check (R165). -/
def fltTrap (f : Flt) (va : BitVec 64) (slot elem : Nat) : Trap := { cause := f.cause, addr := va, info := fltInfo f slot elem }

/-- A wave's LS accesses, at the level it issues at (R152). -/
def State.whoLs (s : State) (w : Wave) : Who :=
  let core := s.coreOf w
  { ctx := s.ctxOf w.wg, priv := w.priv, die := dieOf core, core := some core, cluster := some (clusterOf core),
    sec := s.secCluster (clusterOf core) }

/-- The accesses of a cluster's copy engine. -/
def State.whoCp (s : State) (cx cluster : Nat) (priv : BitVec 2) : Who :=
  { ctx := cx, priv := priv, die := dieOfCluster cluster, cluster := some cluster, sec := s.secCopy cluster }

/-- The accesses of a cluster's matrix engine. -/
def State.whoMx (s : State) (cx cluster : Nat) (priv : BitVec 2) : Who :=
  { ctx := cx, priv := priv, die := dieOfCluster cluster, cluster := some cluster, sec := s.secCluster cluster }

/-- The accesses of the scale-out engine. -/
def State.whoXo (s : State) (cx : Nat) (priv : BitVec 2) : Who := { ctx := cx, priv := priv, die := 0, sec := s.secXo }

/-- Accesses that the device makes for a context outside any wave, on none of the paths of R178: at level 0 (R152), and
non-secure (R395). -/
def State.whoHub (_s : State) (cx : Nat) : Who := { ctx := cx, priv := 0, die := 0, sec := false }

/-- Read a range of virtual addresses, a piece within an aligned 32-byte sector at a time; the first failure ends it, with
its address. -/
def State.readVa (s : State) (a : Who) : Nat → BitVec 64 → Nat → Except (Flt × BitVec 64) (List (BitVec 8))
  | 0, _, _ => .ok []
  | fuel + 1, va, n =>
    if n = 0 then .ok []
    else
      let k := min n (32 - va.toNat % 32)
      match s.translate a .load va with
      | .error f => .error (f, va)
      | .ok pa => match s.readVa a fuel (va + BitVec.ofNat 64 k) (n - k) with
        | .error e => .error e
        | .ok r => .ok (s.readBytes a.die pa k ++ r)

/-- Read a range (fuel enough for any). -/
def State.readRange (s : State) (a : Who) (va : BitVec 64) (n : Nat) : Except (Flt × BitVec 64) (List (BitVec 8)) :=
  s.readVa a (n + 1) va n

/-- Count a faulting access that the device made for a context outside any wave (R412). -/
def State.countFault (s : State) (cx source : Nat) (c : Cause) : State :=
  s.updErr cx fun e =>
    { e with
      faults := if e.faults == 0xFFFFFFFF then e.faults else e.faults + 1
      source := BitVec.ofNat 8 source
      fcause := BitVec.ofNat 8 c.code }

/-! ## Regions (R202) -/

/-- Row and column of an address in a region: byte (r, c) lies at BASE + r * PITCH + c modulo 2^64. -/
def Region.locate (r : Region) (va : BitVec 64) : Option (Nat × Nat) :=
  let d := (va - r.base).toNat
  let p := r.pitch.toNat
  if r.rows ≤ 1 || p = 0 then (if d < r.rowBytes && 0 < r.rows then some (0, d) else none)
  else (List.range (r.rows * p / 2 ^ 64 + 1)).findSome? fun k =>
    let x := d + k * 2 ^ 64
    if x / p < r.rows && x % p < r.rowBytes then some (x / p, x % p) else none

/-- The region may be written (mode write or read-write). -/
def Region.writable (r : Region) : Bool := r.mode != .read

/-- Row width of the tile of a region: ROWBYTES rounded up to a multiple of 32 (R331). -/
def Region.width (r : Region) : Nat := (r.rowBytes + 31) / 32 * 32

/-- The region lies within the limits of a version or staged tile (R331, R332). -/
def Region.fitsTile (r : Region) : Bool := r.rows ≤ 4095 && r.width ≤ 32768 && r.rows * r.width ≤ 2 ^ 20

/-- Lowest and highest byte of a region (R330), without wrapping. -/
def Region.extent (r : Region) : Nat × Nat :=
  (r.base.toNat, r.base.toNat + (r.rows - 1) * (if r.rows ≤ 1 then 0 else r.pitch.toNat) + r.rowBytes - 1)

/-- Two regions conflict when their extents overlap (R330). -/
def Region.meets (a b : Region) : Bool := a.extent.1 ≤ b.extent.2 && b.extent.1 ≤ a.extent.2

/-! ## What a workgroup sees and writes (R175, R176, R330, R331) -/

/-- The declared write regions of the open attempt hold every byte of an access (R175, R262). -/
def State.declared (s : State) (w : Wave) (va : BitVec 64) (n : Nat) : Bool :=
  (List.range n).all fun i =>
    (s.wgD (s.txHome w.wg)).tx.writes.any fun r => (r.locate (va + BitVec.ofNat 64 i)).isSome

/-- The renamed region of a task that holds an address (R331). -/
def Dep.renamed (d : Dep) (va : BitVec 64) : Option Region :=
  (d.regions.find? fun e => e.2.writable && e.2.fitsTile && (e.2.locate va).isSome).map (·.2)

/-- The dependence entry of a workgroup. -/
def State.depOf (s : State) (g : Nat) : Option Dep :=
  match (s.wgD g).task with
  | none => none
  | some d => s.deps.get? d

/-- A workgroup's stores to an address go to its task's version (R331). -/
def State.renames (s : State) (g : Nat) (va : BitVec 64) : Bool := ((s.depOf g).bind fun d => d.renamed va).isSome

/-- Newest version byte of an earlier task of the context that has retired and not drained (R330). -/
def State.olderByte (s : State) (d : Dep) (va : BitVec 64) : Option (BitVec 8) :=
  let ds := (s.deps.vals.filter fun e =>
    e.ctx == d.ctx && e.order < d.order && (e.st == .retired || e.st == .draining) && !e.noVer && !e.sib &&
      (e.ver.get? va.toNat).isSome)
  (ds.foldl (fun (best : Option Dep) e => match best with
    | none => some e
    | some b => if b.order < e.order then some e else some b) none).bind fun e => (e.ver.get? va.toNat).map (·.1)

/-- What lies over memory at an address for a workgroup: its own staged stores, the last in release order (R176, R339), its
versions (R175, R331), the staged contents of a renamed rw region (R330), and for a task the versions it reads (R330). `none`: nothing; `some none`: a byte the manual leaves open, of a write region that
the task has not written (R330). -/
def State.overlay (s : State) (g : Nat) (va : BitVec 64) : Option (Option (BitVec 8)) :=
  let hs := s.halves g
  let mine := (hs.flatMap fun h => (s.wgD h).staged).filter fun x => x.va == va
  let last := mine.foldl (fun (m : Option Staged) x => match m with
    | none => some x
    | some y => if y.wave ≤ x.wave then some x else some y) none
  match last with
  | some b => some (some b.byte)
  | none =>
    match hs.findSome? fun h => (s.wgD h).ver.get? va.toNat with
    | some b => some (some b.1)
    | none =>
      match s.depOf g with
      | none => none
      | some d =>
        match d.regions.find? fun e => (e.2.locate va).isSome with
        | none => none
        | some (h, r) =>
          if s.txPending g || !r.writable || !r.fitsTile then (s.olderByte d va).map some
          else if r.mode == .write then some none
          else match d.tiles.find? (·.1 == h), r.locate va with
            | some (_, t), some (i, j) => some ((s.tileD t).bytes.get? (i * (s.tileD t).width + j))
            | _, _ => (s.olderByte d va).map some

/-- Bytes as a workgroup reads them, over what memory gives; `f` is the number of the first free value. -/
def State.seen (s : State) (g : Nat) (va : BitVec 64) (bs : List (BitVec 8)) (f : Nat) : List (BitVec 8) :=
  ((List.range bs.length).zip bs).map fun x =>
    match s.overlay g (va + BitVec.ofNat 64 x.1) with
    | none => x.2
    | some (some b) => b
    | some none => (Config.freeWord (f + x.1)).extractLsb' 0 8

/-- Write a byte into a workgroup's versions, and into the version tile of its task's region (R331). -/
def State.verWrite (s : State) (g : Nat) (priv : BitVec 2) (va : BitVec 64) (b : BitVec 8) : State :=
  let s := s.updWg g fun w => { w with ver := w.ver.set va.toNat (b, priv) }
  match s.depOf g with
  | none => s
  | some d => d.tiles.foldl (fun s e =>
      match (d.regions.find? (·.1 == e.1)).bind fun r => r.2.locate va with
      | none => s
      | some (i, j) => s.updTile e.2 fun t => { t with bytes := t.bytes.set (i * t.width + j) b }) s

/-- What a fill or a drain wrote into the first `rows` rows and `cols` columns of a version tile, the task has written: the
region's bytes there belong to the version (R330, R331, R332). -/
def State.claimVersion (s : State) (g t rows cols : Nat) (priv : BitVec 2) : State :=
  match (s.depOf g).bind fun d => (d.tiles.find? (·.2 == t)).bind fun e => d.regions.find? (·.1 == e.1) with
  | none => s
  | some (_, r) =>
    let x := s.tileD t
    let bytes := (List.range (min rows r.rows)).flatMap fun i => (List.range (min cols r.rowBytes)).filterMap fun j =>
      (x.bytes.get? (i * x.width + j)).map fun b => ((r.base + BitVec.ofInt 64 (i * r.pitch + j)).toNat, (b, priv))
    s.updWg g fun w => { w with ver := Tab.setAll w.ver bytes }

/-- Where a byte that a workgroup writes goes: into its versions (inside an attempt, or in a renamed region of its task),
into the round's staged stores (deterministic mode), or to memory. -/
def State.putByte (s : State) (u seq : Nat) (priv : BitVec 2) (asid : BitVec 12) (att det : Bool) (pa : Nat) (va : BitVec 64)
    (b : BitVec 8) : State :=
  let w := s.waveD u
  if att then s.verWrite (s.txHome w.wg) priv va b
  else if s.renames w.wg va then s.verWrite w.wg priv va b
  else if det then
    s.updWg w.wg fun g =>
      { g with staged := g.staged ++ [{ wave := w.idx, seq := seq, va := va, pa := pa, byte := b, priv := priv }] }
  else s.writeBytes (dieOf (s.wgD w.wg).core) asid pa [b]

/-- A store of a wave: aligned, checked bytes at an address (R169, R175, R176). `direct`: it is performed at a staging
point of the round, and so not staged (R339). -/
def State.storeBytes (s : State) (u : Nat) (direct : Bool) (pa : Nat) (va : BitVec 64) (bs : List (BitVec 8)) : State :=
  let w := s.waveD u
  let att := s.inAttempt w
  let det := s.isDet w.wg && !direct
  let ren := (List.range bs.length).any fun k => s.renames w.wg (va + BitVec.ofNat 64 k)
  let asid := s.asidOf (s.ctxOf w.wg)
  let s := if !att && !det && !ren then s.writeBytes (dieOf (s.coreOf w)) asid pa bs
    else ((List.range bs.length).zip bs).foldl (fun s x =>
      s.putByte u w.icount.toNat w.priv asid att det (pa + x.1) (va + BitVec.ofNat 64 x.1) x.2) s
  s.l1Drop (s.coreOf w) (pa / 64)

/-- A migration stalls writes (R159 step 2). -/
def State.stalling (s : State) : Bool := s.mem.migs.any fun e => e.2.stalled

/-- Write bytes at virtual addresses outside any wave, per aligned 32-byte sector (R185): a sector that fails its check is
not written, and the fault is handed to `fail`; the L1s of `cores` lose the lines (R154). The bytes are given by address, rising, with the level they are checked
at. -/
def State.publish (s : State) (a : Who) (cores : List Nat) (bs : Tab (BitVec 8 × BitVec 2))
    (fail : State → Cause → State) : State :=
  let sectors := ((bs.map fun e => e.1 / 32).eraseDups)
  sectors.foldl (fun s k =>
    let mine := bs.filter fun e => e.1 / 32 == k
    match mine with
    | [] => s
    | (_, _, lev) :: _ =>
      match s.translate { a with priv := lev } .store (BitVec.ofNat 64 (k * 32)) with
      | .error f => fail s f.cause
      | .ok pa =>
        let s := cores.foldl (fun s c => s.l1Drop c (pa / 64)) s
        let t := mine.foldl (fun s e => s.writeBytes a.die (s.asidOf a.ctx) (pa + e.1 % 32) [e.2.1]) s
        if mine.length = 32 then t.updMem fun m => m.clearPoison pa 32 else t) s

end Sys2Proof.Machine
end

