-- ==== Sys2Proof/Machine/Scoreboard.lean ====
section
/-! DEFINITION. Machine/Scoreboard.lean: the scoreboard (03_control R59): which registers and latches an instruction uses, which
ones wait for loads in flight and for replies of the atomic service units, and when an instruction stalls for them. -/

namespace Sys2Proof

/-! ## What an instruction uses -/

/-- What an instruction reads or writes: a window register, a uniform register, a latch. -/
inductive Reg where
  | v (n : Nat)
  | s (n : Nat)
  | l (n : Nat)
  deriving DecidableEq, Repr

/-- `n` window registers from `k` on. -/
def vRegs (k : BitVec 8) (n : Nat) : List Reg := (List.range n).map fun j => .v (k.toNat + j)

/-- The registers of a source: a pair when it is 64 bits wide. -/
def Src.regs (x : Src) (wide : Bool) : List Reg :=
  match x with
  | .v n => vRegs n (if wide then 2 else 1)
  | .s n => [.s n.toNat]
  | .latch i => [.l i.toNat]
  | _ => []

/-- The registers of a destination. -/
def Dst.regs (d : Dst) (wide : Bool) : List Reg := if d.s then [.s d.n.toNat] else vRegs d.n (if wide then 2 else 1)

/-- Registers of one, two and three sources of a type and a destination. -/
def Un.regs (o : Un) : List Reg := o.d.regs true ++ Src.regs o.a (Machine.is64 o.t)
/-- Two sources. -/
def Bin.regs (o : Bin) : List Reg := o.d.regs (Machine.is64 o.t) ++ Src.regs o.a (Machine.is64 o.t) ++ Src.regs o.b (Machine.is64 o.t)
/-- Three sources. -/
def Tri.regs (o : Tri) : List Reg :=
  o.d.regs (Machine.is64 o.t) ++ Src.regs o.a (Machine.is64 o.t) ++ Src.regs o.b (Machine.is64 o.t) ++ Src.regs o.c (Machine.is64 o.t)
/-- A conversion. -/
def Conv.regs (o : Conv) : List Reg := o.d.regs (Machine.is64 o.t) ++ Src.regs o.a (Machine.is64 o.st)

/-- Registers that the data of a memory instruction take: of a load the destination, of a store the source. -/
def Mem.dataRegs (m : Mem) : List Reg :=
  match m.m with
  | .wide x _ =>
    if m.d.s then (List.range (x.bytes / 8)).map fun j => .s (m.d.n.toNat + j) else vRegs m.d.n (x.bytes / 4)
  | .acc a _ => if m.h.nwb then [] else m.d.regs (a == .z64)

/-- A memory instruction; `wide`: its address register is 64 bits wide. -/
def Mem.regs (m : Mem) (wide : Bool) : List Reg := m.dataRegs ++ Src.regs m.a wide ++ Src.regs m.c false

/-- A gather or a scatter. -/
def Gath.regs (m : Gath) : List Reg := vRegs m.d (m.n1.toNat + 1) ++ vRegs m.c (m.n1.toNat + 1) ++ Src.regs m.a true

/-- The registers and latches that an instruction reads or writes, for those that go on past outstanding results of other
registers; none for those that the model lets wait until every result of the path has arrived (log 7). -/
def Instr.regs : Instr → Option (List Reg)
  | .nop _ | .bra _ _ | .yield _ | .pcmb _ _ _ _ _ => some []
  | .brx _ a | .ret _ a => some (Src.regs a true)
  | .call _ d _ => some (d.regs true)
  | .loop _ d _ | .paths _ d _ => some (d.regs false)
  | .sfork _ d a b => some (d.regs false ++ Src.regs a false ++ Src.regs b true)
  | .vote _ o => some (match o with
    | .ballot d _ _ => d.regs false
    | .eq _ a w64 => Src.regs a w64
    | _ => [])
  | .iadd _ o | .isub _ o | .imul o | .imulh o | .imin o | .imax o | .and o | .or o | .xor o | .shl o | .shr o | .sar o | .rot o
  | .bfx o | .sel o _ _ | .shfl _ o => some o.regs
  | .lea _ o => some (o.d.regs true ++ Src.regs o.a true ++ Src.regs o.b false)
  | .imad o | .bfi o | .prmt o => some o.regs
  | .iabs _ o | .not o | .popc o | .clz o | .ctz o | .brev o | .mov o | .iext o => some o.regs
  | .movi _ t d _ _ => some (d.regs (Machine.is64 t))
  | .icmp _ o | .fcmp _ o => some (Src.regs o.a (Machine.is64 o.t) ++ Src.regs o.b (Machine.is64 o.t))
  | .fadd _ o | .fsub _ o | .fmul _ o | .fmin o | .fmax o => some o.regs
  | .ffma _ o | .fdot2 _ o => some o.regs
  | .fclass o | .frnd _ o | .frcp _ o | .frsq _ o | .fsqrt _ o | .fexp2 _ o | .flog2 _ o | .fsin o | .fcos o | .fredw _ o =>
    some o.regs
  | .fwelf _ d a x => some (vRegs d 3 ++ vRegs a 3 ++ Src.regs x false)
  | .fwmerge _ d a b => some (vRegs d 3 ++ vRegs a 3 ++ (match b with | .v n => vRegs n 3 | x => Src.regs x false))
  | .cvt o | .cvtfi o | .cvtif o => some o.regs
  | .qpack _ _ _ _ _ d a => some (vRegs d 16 ++ vRegs a 24)
  | .qpackRows _ _ _ d a e => some (vRegs d 6 ++ vRegs a 24 ++ Src.regs e false)
  | .qunpack _ _ _ d a => some (vRegs d 24 ++ vRegs a 16)
  | .qunpackRows _ _ d a e r => some (vRegs d 24 ++ vRegs a 6 ++ Src.regs e false ++ Src.regs r false)
  | .qscale o => some o.regs
  | .qrow o => some o.regs
  | .qamax _ _ d a n => some (vRegs d 1 ++ vRegs a n.toNat)
  | .qhdr _ d o => some (vRegs d 16 ++ (match o with | .hdr _ a => Src.regs a false | .zero _ => []))
  | .qesc _ _ d a b => some (vRegs d 16 ++ Src.regs a false ++ Src.regs b false)
  | .ld m | .st m => some (m.regs true)
  | .ldu m | .ldl m | .stl m | .ldk m => some (m.regs (match m.a with | .s _ => true | _ => false))
  | .gather m | .scatter m => some m.regs
  | _ => none

/-- An access of the load-store path that may follow outstanding plain loads. -/
def Instr.accesses : Instr → Bool
  | .ld _ | .st _ | .ldu _ | .ldl _ | .stl _ | .ldk _ | .gather _ | .scatter _ => true
  | _ => false

end Sys2Proof

namespace Sys2Proof.Machine

/-! ## What is awaited -/

/-- Registers that a load in flight will write. -/
def Load.dest (l : Load) : List Reg :=
  match l.i with
  | .ld m | .ldu m | .ldk m => m.dataRegs
  | .gather m => vRegs m.d (m.n1.toNat + 1)
  | _ => []

/-- The load writes a latch. -/
def Load.latches (l : Load) : Bool :=
  match l.i with
  | .ld m | .ldu m | .ldk m => (match m.m with | .acc _ _ => true | .wide _ _ => false)
  | _ => false

/-- The load acquires: later accesses of its strands come after it (R182). -/
def Load.acquires (l : Load) : Bool :=
  match l.i with
  | .ld m | .ldu m | .ldk m => (match m.m with | .acc _ (.sync _) => true | .acc _ .remote => true | _ => false)
  | _ => false

/-- The latches that wait for values, by how far they have been shifted. -/
def Wave.lateLatches (w : Wave) (mask : BitVec 32) (ages : Tab Nat) : List Reg :=
  (slotsOf mask).map fun i => .l ((w.strand i).pushes - ages.getD i 0)

/-- Results that strands of a path wait for: what loads in flight and requests of units will write. A uniform register is
awaited by every path of the wave. -/
def State.awaited (s : State) (u : Nat) (mask : BitVec 32) : List Reg :=
  let w := s.waveD u
  let seen := fun (m : BitVec 32) (r : Reg) => match r with | .s _ => true | _ => m &&& mask != 0
  let ls := (s.loads.vals.filter (·.wave == u)).flatMap fun l =>
    l.dest.filter (seen l.mask) ++ if l.latches then w.lateLatches (l.mask &&& mask) l.ages else []
  let rs := (s.reqs.vals.filter fun r => r.wave == u && !r.precise).flatMap fun r => match r.d with
    | none => []
    | some d => (if r.nwb then [] else d.regs r.w64).filter (seen r.slots) ++ w.lateLatches (r.slots &&& mask) r.ages
  ls ++ rs

/-- Strands of the mask have loads in flight, or requests whose values have not come back. -/
def State.outstanding (s : State) (u : Nat) (mask : BitVec 32) : Bool :=
  s.loads.vals.any (fun l => l.wave == u && l.mask &&& mask != 0) ||
  s.reqs.vals.any fun r => r.wave == u && !r.precise && r.d.isSome && r.slots &&& mask != 0

/-- Accesses of the strands must wait for an acquiring load or a unit's value (R182, log 7). -/
def State.accessHeld (s : State) (u : Nat) (mask : BitVec 32) : Bool :=
  s.loads.vals.any (fun l => l.wave == u && l.mask &&& mask != 0 && l.acquires) ||
  s.reqs.vals.any fun r => r.wave == u && !r.precise && r.d.isSome && r.slots &&& mask != 0

/-- The scoreboard stalls a path at an instruction (R59): an operand or a destination of it is not yet available, or it is one
that waits for every outstanding result. -/
def State.stalls (s : State) (u : Nat) (mask : BitVec 32) (i : Instr) : Bool :=
  let late := s.awaited u mask
  match i.regs with
  | none => s.outstanding u mask || late.any fun r => match r with | .s _ => true | _ => false
  | some rs => rs.any late.contains || (i.accesses && s.accessHeld u mask)

end Sys2Proof.Machine
end

