-- ==== Sys2Proof/Machine/Issue.lean ====
section
/-! DEFINITION. Machine/Issue.lean: what happens before an instruction's meaning: lanes, path choice, turns and merging (03_control
R54, R55, R58 to R61), the fetch of a window (R65, 02_encoding R29), and decoding with its traps (02_encoding R40, R41). -/

namespace Sys2Proof.Machine

/-! ## Paths and turns -/

/-- The path can issue, or try its instruction again (R60, R61). -/
def Path.ready (p : Path) : Bool :=
  match p.wait with
  | .none | .retry _ => true
  | _ => false

/-- The path may be issued at this time: not stopped by a trap that another path is handling (R382). -/
def Wave.mayIssue (w : Wave) (p : Path) : Bool := !(w.priv == 1 && w.stopped.contains p.born)

/-- The path may merge at an issue decision (R55): it is not in the blocking set and stands at its next instruction. -/
def Path.mergeable (p : Path) : Bool :=
  match p.wait with
  | .none | .retry false | .icache | .staged => true
  | _ => false

/-- A latch of the path is live in its fetch window (R59). -/
def Wave.latchLive (w : Wave) (p : Path) : Bool := (slotsOf p.mask).any fun i => 0 < (w.strand i).latN

/-- Merge into the path being selected every path at its address (R55), but not while a latch of it is live (R66): the oldest
keeps identity, place and turn count. -/
def Wave.merge (w : Wave) (b : Nat) : Wave × Nat :=
  match w.path? b with
  | none => (w, b)
  | some p =>
    if !p.mergeable || w.latchLive p then (w, b)
    else
      let ps := w.paths.filter fun q => q.mergeable && w.mayIssue q && w.pathPc q == w.pathPc p
      let keep := ps.foldl (fun k q => min k q.born) b
      let mask := ps.foldl (fun m q => m ||| q.mask) 0
      let gone := fun (q : Path) => q.born != keep && ps.any (·.born == q.born)
      let paths := (w.paths.filter fun q => !gone q).map fun q =>
        if q.born == keep then { p with born := q.born, mask := mask, turn := q.turn } else q
      ({ w with paths := paths, turnOf := w.turnOf.map fun t => if t == b then keep else t }, keep)

/-- The quantum of the turn has been used up at a boundary (R60, R62). -/
def Wave.turnExpired (w : Wave) : Bool :=
  match w.turnOf.bind w.path? with
  | none => false
  | some p => !w.turnOver && p.edge == .window && w.turnQ.toNat ≤ p.turn

/-- The turn is kept by its path (R59, R60): it has not ended, and the path issues, or stalls where a stall keeps the turn. -/
def Wave.keepsTurn (w : Wave) (p : Path) (det : Bool) : Bool :=
  !w.turnOver && !w.turnExpired &&
  match p.wait with
  | .none | .retry _ => true
  | .icache => det
  | _ => false

/-- The paths in the order in which turns go round, beginning after a path. -/
def turnOrder (ps : List Path) (after : Option Nat) : List Path :=
  match after with
  | none => ps
  | some b =>
    if ps.any (·.born == b) then
      let i := (ps.takeWhile fun p => p.born != b).length + 1
      ps.drop i ++ ps.take i
    else ps

/-- The path that issues now, and whether its turn begins. `go`: the wave's next staging point is performed (R339). -/
def Wave.choose (w : Wave) (det go : Bool) : Option (Path × Bool) :=
  if go then
    ((w.paths.filter fun p => p.wait == .staged && w.mayIssue p).foldl (fun (best : Option Path) p => match best with
      | none => some p
      | some q => if p.tried < q.tried then some p else some q) none).map fun p => (p, false)
  else
    let kept := (w.turnOf.bind w.path?).bind fun p =>
      if w.mayIssue p && w.keepsTurn p det then some p else none
    match kept with
    | some p => if p.ready then some (p, false) else none
    | none => ((turnOrder w.paths w.turnOf).find? fun p => p.ready && w.mayIssue p).map fun p => (p, true)

/-- Begin a turn (R60, R62). A turn that begins with a merge into an older path counts from zero too (log 21). -/
def Wave.beginTurn (w : Wave) (b : Nat) : Wave :=
  { w.updPath b fun p => { p with turn := 0 } with turnOf := some b, turnOver := false, turnQ := w.quantum }

/-! ## Fetch and decode -/

/-- The line of the window at a physical address is in the core's instruction cache (R65). -/
def State.icacheHas (s : State) (core pa : Nat) : Bool := (findLine s.mem.icache core (pa / 64)).isSome

/-- Bytes of instruction memory as fetch sees them: from the instruction cache, else through the die's L2 (R65). -/
def State.fetchBytes (s : State) (core pa n : Nat) : List (BitVec 8) :=
  match findLine s.mem.icache core (pa / 64) with
  | some l => (l.drop (pa % 64)).take n
  | none => s.readBytes (dieOf core) pa n

/-- Two lines share one of the 64 sets of a core's instruction cache: bits 11:6 of the address (R65). -/
def sameSet (core line : Nat) (x : CoreLine) : Bool := x.core == core && x.line % 64 == line % 64

/-- Fill a line of the instruction cache (R65): a full set of eight gives up its least recently used line. -/
def State.icacheFill (s : State) (core pa : Nat) : State :=
  if s.icacheHas core pa then s
  else
    let s := s.updMem fun m => m.l2Fill (dieOf core) pa
    let bs := s.readBytes (dieOf core) (pa / 64 * 64) 64
    s.updMem fun m =>
      let kept := match m.icache.filter (sameSet core (pa / 64)) with
        | old :: rest => if rest.length < 7 then m.icache else m.icache.erase old
        | [] => m.icache
      { m with icache := kept ++ [{ core := core, line := pa / 64, bytes := bs }]
               ifetch := m.ifetch.filter (· != (core, pa / 64)) }

/-- A prefetched line arrives (R65). -/
def State.prefetched (s : State) (core line : Nat) : State :=
  if s.mem.ifetch.contains (core, line) then
    let t := s.icacheFill core (line * 64)
    t.updMem fun m => { m with ifetch := m.ifetch.filter (· != (core, line)) }
  else s

/-- A path enters the window at a physical address (R65): the line becomes the most recently used, and the next sequential
line, when its fetch translates, is prefetched. -/
def State.enterWindow (s : State) (who : Who) (core : Nat) (pc : BitVec 64) (pa : Nat) : State :=
  let next := BitVec.ofNat 64 (pc.toNat / 64 * 64 + 64)
  let more := match s.translate who .fetch next with
    | .ok q => if s.icacheHas core q || s.mem.ifetch.contains (core, q / 64) then [] else [(core, q / 64)]
    | .error _ => []
  s.updMem fun m =>
    let mine := fun (x : CoreLine) => x.core == core && x.line == pa / 64
    { m with icache := (m.icache.filter fun x => !mine x) ++ m.icache.filter mine, ifetch := m.ifetch ++ more }

/-- The start of the window of an address (R29). -/
def windowOf (a : BitVec 64) : BitVec 64 := a &&& ~~~31#64

/-- The fall-through address of a word (R76). -/
def fallThrough (a : BitVec 64) (len : Nat) : BitVec 64 :=
  let t := a + BitVec.ofNat 64 len
  if t.toNat % 32 == 28 then t + 4 else t

/-- The trap of a word that does not decode (R40, R41). -/
def decodeTrap (e : DecodeError) : Trap :=
  match e with
  | .illegalOpcode f => { cause := .illegalOpcode, info := BitVec.ofNat 64 f.num }
  | .illegalOperand f => badField f

/-- What the window at a path's program counter gives: a trap, or a word and its length (LEN 11 has none). -/
inductive Fetched where
  | trap (t : Trap) (len : Nat) (noLen : Bool)
  | word (i : Instr) (len : Nat)
  deriving DecidableEq, Repr

/-- Read the word at an address of a window whose bytes from there on are given (R29, R40 steps 1 to 6). -/
def fetchWord (c : DecCtx) (pc : BitVec 64) (bs : List (BitVec 8)) : Fetched :=
  let b := bs.headD 0
  let noLen := b &&& 3 == 3
  let len := wordBytes b
  if !noLen && 32 < pc.toNat % 32 + len then .trap (trapOf .straddle) len false
  else match decode c bs with
    | .error e => .trap (decodeTrap e) len noLen
    | .ok i => .word i len

/-- What decoding depends on (R37, R245, R247): the window size, whether the workgroup is a pair, whether the
wave is in an attempt, and whether it is in the odd half. -/
def State.decCtx (s : State) (w : Wave) : DecCtx :=
  let g := s.wgD w.wg
  { win := w.win, pair := g.pair.isSome, tx := s.inAttempt w, odd := g.pair.isSome && g.lin % 2 == 1 }

/-- The issuing path's next window misses in the instruction cache (R60, R61). -/
def State.missAt (s : State) (u b : Nat) (det : Bool) : State :=
  s.updWave u fun w =>
    let w := w.updPath b fun p => { p with wait := .icache }
    if det then w else w.endTurn

/-! ## Issue -/

/-- What the issue of a wave comes to, before the meaning: the state has moved on, or it stands ready for an
instruction. -/
inductive Fetch where
  | done (s : State)
  /-- The path has to wait at its instruction. -/
  | stall (s : State)
  | run (s : State) (i : Instr)
  deriving DecidableEq, Repr

/-- The path enters a fetch window when it issues next (R29, R65). -/
def Path.enters (p : Path) (pc : BitVec 64) : Bool :=
  p.wait == .none && (p.edge == .window || atWindow pc || p.buf.isEmpty)

/-- Run the word at a path's program counter, whose window's bytes are given: it traps, stalls, or is handed to its meaning. -/
def State.runWord (s : State) (c : Issue) (buf : List (BitVec 8)) : Fetch :=
  match fetchWord (s.decCtx (s.waveD c.wave)) c.pc (buf.drop (c.pc.toNat % 32)) with
  | .trap t len noLen => .done (s.takeTrap { c with next := fallThrough c.pc len, noLen := noLen } t .precise)
  | .word i len =>
    let c := { c with next := fallThrough c.pc len }
    if s.stalls c.wave c.mask i then .stall (s.waitAt c false) else .run { s with cur := some c, clk := s.clk + 1 } i

/-- Fetch for a path that issues (R29, R65, R40): at the entry of a window its translation and its line are needed; within it
the path runs the bytes that it found there. -/
def State.fetchPath (s : State) (u b : Nat) (go late : Bool) : Fetch :=
  let w := s.waveD u
  let p := (w.path? b).getD blankPath
  let core := s.coreOf w
  let pc := w.pathPc p
  let cur : Issue := { wave := u, path := b, mask := p.mask, pc := pc, next := pc, go := go, late := late }
  if !p.enters pc then s.runWord cur p.buf
  else
    let who := s.whoLs w
    match s.translate who .fetch (windowOf pc) with
    | .error f => .done (s.takeTrap cur { cause := f.cause, addr := windowOf pc
                                          info := fltInfo f ((slotsOf p.mask).headD 0) 0 } .precise)
    | .ok pa =>
      if !s.icacheHas core pa then .done (s.missAt u b (s.isDet w.wg))
      else
        let buf := s.fetchBytes core pa 32
        let s := (s.enterWindow who core pc pa).updWave u fun w => w.updPath b fun p => { p with buf := buf }
        s.runWord cur buf

/-- The wave takes part in its release round now (R338, R339), or is not in deterministic mode. -/
def State.inRound (s : State) (w : Wave) (go : Bool) : Bool :=
  let left := w.roundN < (s.gridOf w.wg).lat.detq.toNat
  if s.isDet w.wg then go || ((s.ctxD (s.ctxOf w.wg)).roundOpen && (s.wgD w.wg).live && !w.partEnd && left) else true

/-- The wave can issue: it runs, its workgroup has started, and its context's round lets it. -/
def State.canIssue (s : State) (u : Nat) (go : Bool) : Bool :=
  let w := s.waveD u
  w.st == .running && (s.wgD w.wg).st == .running && s.inRound w go && (w.choose (s.isDet w.wg) go).isSome

/-! ## Lanes (R18, R58) -/

/-- A path that has tried its instruction since anything changed. -/
def State.stuck (s : State) (p : Path) : Bool := (match p.wait with | .retry _ => true | _ => false) && p.tried == s.tick

/-- The wave can do nothing until something else changes: none of its paths can issue, or each that can has tried. -/
def State.waveIdle (s : State) (u : Nat) : Bool :=
  let w := s.waveD u
  let det := s.isDet w.wg
  !s.canIssue u false ||
  match w.choose det false with
  | none => true
  | some (p, _) =>
    s.stuck p && (w.keepsTurn p det || w.paths.all fun q => !(q.ready && w.mayIssue q) || s.stuck q)

/-- The waves bound to a lane, in the order in which it passes among them (R58): residency order, or in deterministic mode by
workgroup index and wave index. A lane that also serves a wave of the other mode keeps residency order (log 21). -/
def State.laneWaves (s : State) (core lane : Nat) : List Nat :=
  let ws := (s.wavesOn core).filter fun e => e.2.resident && e.2.lane == lane
  let det := ws.all fun e => s.isDet e.2.wg
  (sortBy (fun e => if det then ((s.wgD e.2.wg).lin, e.2.idx) else (e.2.seat, e.1)) ws).map (·.1)

/-- The lane stays with a wave (R58, R59): its path turn goes on, be it that the path is stalled where a stall keeps the turn. -/
def State.keepsLane (s : State) (u : Nat) : Bool :=
  let w := s.waveD u
  w.st == .running && (s.wgD w.wg).st == .running && s.inRound w false &&
  match w.turnOf.bind w.path? with
  | some p => w.mayIssue p && w.keepsTurn p (s.isDet w.wg)
  | none => false

/-- The members of a list in turn, beginning after one. -/
def afterIn (l : List Nat) (h : Option Nat) : List Nat :=
  match h with
  | none => l
  | some x => if l.contains x then (l.dropWhile (· != x)).drop 1 ++ l.takeWhile (· != x) ++ [x] else l

/-- The number of a wave's lane. -/
def State.laneOf (s : State) (u : Nat) : Nat := s.coreOf (s.waveD u) * 32 + (s.waveD u).lane

/-- The wave that a lane issues for now (R58): the one whose turn goes on, else the next that has a path able to issue. -/
def State.laneTurn (s : State) (core lane : Nat) : Option Nat :=
  let ws := s.laneWaves core lane
  let held := s.lanes.get? (core * 32 + lane)
  match held.filter fun h => ws.contains h && s.keepsLane h with
  | some h => some h
  | none => (afterIn ws held).find? fun v => !s.waveIdle v

/-- The wave has its lane. -/
def State.hasLane (s : State) (u : Nat) : Bool := s.laneTurn (s.coreOf (s.waveD u)) (s.waveD u).lane == some u

/-- One issue of a wave that can issue and has its lane: the path is chosen, merges and turns are settled (R55, R60), and its
word is fetched. -/
def State.issue (s : State) (u : Nat) (go late : Bool) : Fetch :=
  if !s.canIssue u go || !(go || s.hasLane u) then .done s
  else
    let w := s.waveD u
    match w.choose (s.isDet w.wg) go with
    | none => .done s
    | some (p, begins) =>
      let (w, b) := w.merge p.born
      let w := if begins then w.beginTurn b else w
      let s := { s with lanes := if go then s.lanes else s.lanes.set (s.laneOf u) u }
      let s := s.updWave u fun _ => { w with lastTurn := s.tick + s.clk }
      let q := (w.path? b).getD blankPath
      if q.ready || go then s.fetchPath u b go late else .done s

end Sys2Proof.Machine
end

