-- ==== Sys2Proof/Machine/MemOps.lean ====
section
/-! DEFINITION. Machine/MemOps.lean: the memory class (06_memory R163 to R176) and the ordering class (07_ordering R191 to
R195), and the arrival of load data. -/

namespace Sys2Proof

/-- The access type sign-extends (R163). -/
def Acc.sgn : Acc → Bool
  | .s8 => true | .s16 => true | .s32 => true | _ => false

/-- A load that the L1 may serve (R154, R184). -/
def MemTy.plain : MemTy → Bool
  | .acc _ .plain => true
  | .wide _ fresh => !fresh
  | _ => false

/-- Cluster scope or wider. -/
def Scope.wide (s : Scope) : Bool := s == .cl || s == .die || s == .dev || s == .sys

/-- The load drops the whole L1 after its read: an acquire at .cl or wider, or .acq.remote (R168). -/
def MemTy.acquires : MemTy → Bool
  | .acc _ (.sync s) => s.wide
  | .acc _ .remote => true
  | _ => false

/-- Does the memory type write one register or pair, and so a latch (R164)? -/
def MemTy.w64? : MemTy → Option Bool
  | .acc a _ => some (a == .z64)
  | .wide _ _ => none

/-- The scope of a release store. -/
def MemTy.scope? : MemTy → Option Scope
  | .acc _ (.sync s) => some s
  | _ => none

/-- The kind acquires. -/
def FenceKind.acqs (k : FenceKind) : Bool := k != .rel
/-- The kind releases. -/
def FenceKind.rels (k : FenceKind) : Bool := k != .acq

end Sys2Proof

namespace Sys2Proof.Machine

/-! ## Access types and addresses -/

/-- Bytes that a memory instruction accesses per strand. -/
def memBytes : MemTy → Nat
  | .acc a _ => a.bytes
  | .wide w _ => w.bytes

/-- The value of loaded bytes: extended to 32 bits, or 64 for .z64 (R168). -/
def extendAcc (a : Acc) (bs : List (BitVec 8)) : BitVec 64 :=
  let x := BitVec.ofNat 64 (ofBytes bs)
  match a with
  | .s8 => (sext64 8 x).extractLsb' 0 32 |>.zeroExtend 64
  | .s16 => (sext64 16 x).extractLsb' 0 32 |>.zeroExtend 64
  | _ => x

/-- The scaled index and the displacement (R44). -/
def memDisp (w : Wave) (i : Nat) (scale : BitVec 2) (c : Src) (off : Option (BitVec 32)) : BitVec 64 :=
  (rd32 w i c).signExtend 64 * BitVec.ofNat 64 (2 ^ scale.toNat) + (off.getD 0).signExtend 64

/-- The effective address of a strand (R44, R148). -/
def memAddr (w : Wave) (i : Nat) (scale : BitVec 2) (a c : Src) (off : Option (BitVec 32)) : BitVec 64 :=
  rd64 w i a + memDisp w i scale c off

/-- The local-store offset of a strand, without wrapping (R170). -/
def localAddr (w : Wave) (i : Nat) (m : Mem) : Int :=
  ((rd32 w i m.a).toNat : Int) + (rd32 w i m.c).toInt * (2 ^ m.scale.toNat : Nat) + (m.off.getD 0).toInt

/-! ## Checks (R166) -/

/-- Check the accesses of the slots in order; the first failure decides. Each access is an element number and its address,
or none for a hole. -/
def checkElems (slot : Nat) (chk : BitVec 64 → Except Flt Nat) :
    List (Nat × Option (BitVec 64)) → Except Trap (List (Option (BitVec 64 × Nat)))
  | [] => .ok []
  | (_, none) :: r => match checkElems slot chk r with
    | .error t => .error t
    | .ok l => .ok (none :: l)
  | (k, some va) :: r => match chk va with
    | .error f => .error (fltTrap f va slot k)
    | .ok pa => match checkElems slot chk r with
      | .error t => .error t
      | .ok l => .ok (some (va, pa) :: l)

/-- Check every slot's accesses, ascending. -/
def checkSlots (chk : BitVec 64 → Except Flt Nat) (f : Nat → List (Nat × Option (BitVec 64))) :
    List Nat → Except Trap (List (Nat × List (Option (BitVec 64 × Nat))))
  | [] => .ok []
  | i :: r => match checkElems i chk (f i) with
    | .error t => .error t
    | .ok l => match checkSlots chk f r with
      | .error t => .error t
      | .ok m => .ok ((i, l) :: m)

/-- One access. -/
def oneAt (va : BitVec 64) : List (Nat × Option (BitVec 64)) := [(0, some va)]

/-- The check of a wave's store to `n` bytes: R166, and inside an attempt the declared regions last (R175). -/
def State.checkStore (s : State) (w : Wave) (n : Nat) (va : BitVec 64) : Except Flt Nat :=
  match s.checkAt (s.whoLs w) .store n va with
  | .error f => .error f
  | .ok pa =>
    if s.inAttempt w && !((match place pa with | .cell _ .cached => true | _ => false) && s.declared w va n) then
      .error ⟨.txUndeclaredStore, 0⟩
    else .ok pa

/-! ## Loads -/

/-- Latch shift of a load (R38): every enabled strand's new l0 waits for the data, the others keep their value. -/
def Wave.shiftFor (w : Wave) (c : Issue) (e : BitVec 32) (nwb : Bool) (d : Dst) (w64 : Bool) : Wave :=
  (w.retire c fun i st =>
    if e.getLsbD i || (d.s && e != 0) then st.push 0 else st.push (keptLatch w nwb d w64 st)).shiftOut w c.mask nwb d w64

/-- Per slot of a mask, the count of latch values (R38). -/
def Wave.ages (w : Wave) (mask : BitVec 32) : Tab Nat := (slotsOf mask).map fun i => (i, (w.strand i).pushes)

/-- Issue a load (R59, R158): it retires, and the access stands in the queue of loads. Its path goes on until it needs the
data. -/
def State.issueLoad (s : State) (c : Issue) (l : Load) (f : Wave → Wave) : State :=
  let (k, s) := s.newUid
  let s := s.put c f
  { s with loads := s.loads.set k { l with ages := (s.waveD c.wave).ages l.mask } }

/-- The load of an issue: who it is for and what it reads. -/
def State.mkLoad (s : State) (c : Issue) (w : Wave) (i : Instr) (mask : BitVec 32)
    (el : List (Nat × List (Option (BitVec 64 × Nat)))) : Load :=
  { wave := c.wave, wg := w.wg, ctx := s.ctxOf w.wg, i := i, ages := [], elems := el, mask := mask, priv := w.priv, pc := c.pc }

/-- Issue a load instruction of one access per strand, or of one access for the path when it is uniform. -/
def loadAns (s : State) (c : Issue) (w : Wave) (e : BitVec 32) (i : Instr) (m : Mem) (uniform : Bool)
    (ea : Nat → BitVec 64) : Ans :=
  let retired := fun (w : Wave) => match m.m.w64? with
    | some w64 => w.shiftFor c e m.h.nwb m.d w64
    | none => w.retire c fun _ st => st
  if e == 0 then s.done c retired
  else
    let who := s.whoLs w
    let slots := if uniform then [(slotsOf e).headD 0] else slotsOf e
    andThen (checkSlots (s.checkAt who .load (memBytes m.m)) (fun j => oneAt (ea j)) slots) fun el =>
      .next (s.issueLoad c (s.mkLoad c w i (if m.d.s then c.mask else e) el) retired)

/-- `LD` (R168). -/
def execLd (m : Mem) (s : State) : Out :=
  perform s m.h [m.a, m.c] fun c w e =>
    guardTrap (if e == 0 then none else s.txTrap w true true)
      (loadAns s c w e (.ld m) m m.d.s fun i => memAddr w i m.scale m.a m.c m.off)

/-- `LDU` (R168): one address for the path. -/
def execLdu (m : Mem) (s : State) : Out :=
  perform s m.h [] fun c w e =>
    guardTrap (if e == 0 then none else s.txTrap w true true)
      (loadAns s c w e (.ldu m) m true fun i => memAddr w i m.scale m.a m.c m.off)

/-- The address of the running kernel's header (R168). -/
def State.headerAt (s : State) (w : Wave) : BitVec 64 := (s.gridOf w.wg).lrec.kernel

/-- `LDK` (R168): relative to the kernel's header. -/
def execLdk (m : Mem) (s : State) : Out :=
  perform s m.h [m.a, m.c] fun c w e =>
    guardTrap (if e == 0 then none else s.txTrap w true true)
      (loadAns s c w e (.ldk m) m m.d.s fun i =>
        s.headerAt w + (rd32 w i m.a).signExtend 64 + memDisp w i m.scale m.c m.off)

/-- The elements of a gather or scatter strand (R171): index 0x8000_0000 makes a hole. -/
def gathElems (w : Wave) (i : Nat) (m : Gath) : List (Nat × Option (BitVec 64)) :=
  (List.range (m.n1.toNat + 1)).map fun k =>
    let x := (w.strand i).v32 (m.c.toNat + k)
    (k, if x == 0x80000000 then none
      else some (rd64 w i m.a + x.signExtend 64 * BitVec.ofNat 64 (2 ^ m.scale.toNat) + (m.off.getD 0).signExtend 64))

/-- `GATHER` (R171). -/
def execGather (m : Gath) (s : State) : Out :=
  perform s m.h [m.a] fun c w e =>
    let retired := fun (w : Wave) => w.retire c fun _ st => st
    if e == 0 then s.done c retired
    else guardTrap (s.txTrap w true true)
      (andThen (checkSlots (s.checkAt (s.whoLs w) .load m.acc.bytes) (fun i => gathElems w i m) (slotsOf e)) fun el =>
        .next (s.issueLoad c (s.mkLoad c w (.gather m) e el) retired))

/-- Bytes that one access of a load reads, after the invalidations of R154 and R168; the L1 is filled by plain loads. -/
def State.landBytes (s : State) (l : Load) (pa n : Nat) (va : BitVec 64) (plain : Bool) : List (BitVec 8) × State :=
  let core := (s.wgD l.wg).core
  let s := if plain then s else s.l1Drop core (pa / 64)
  let s := s.updMem fun m => m.l2Fill (dieOf core) pa
  let bs := s.seen l.wg va (s.lsBytes core pa n plain) s.free
  let s := if plain then s.l1Fill core pa else s
  (bs, if (s.wgD l.wg).task.isSome then s.drew n else s)

/-- Read the accesses of one slot in order; a hole reads nothing. -/
def State.landElems (s : State) (l : Load) (n : Nat) (plain : Bool) :
    List (Option (BitVec 64 × Nat)) → List (List (BitVec 8)) × State
  | [] => ([], s)
  | none :: r => let x := s.landElems l n plain r; ([] :: x.1, x.2)
  | some (va, pa) :: r =>
    let b := s.landBytes l pa n va plain
    let x := b.2.landElems l n plain r
    (b.1 :: x.1, x.2)

/-- Write what a wide access read into a run of v registers (R164). -/
def Strand.setWide (st : Strand) (d : Nat) (bs : List (BitVec 8)) : Strand :=
  (List.range (bs.length / 4)).foldl (fun st j => st.setV (d + j) (BitVec.ofNat 32 (ofBytes ((bs.drop (4 * j)).take 4)))) st

/-- The destination of a wide uniform load of class s (R168): 8 bytes in each register. -/
def Wave.setSRun (w : Wave) (d : Nat) (bs : List (BitVec 8)) : Wave :=
  (List.range (bs.length / 8)).foldl (fun w j => w.setS (d + j) (BitVec.ofNat 64 (ofBytes ((bs.drop (8 * j)).take 8)))) w

/-- A loaded value goes to the destination and to the latch that waits for it (R38, R168). `of`: the bytes of a strand. -/
def Wave.land (w : Wave) (mask : BitVec 32) (ages : Tab Nat) (m : Mem) (of : Nat → List (BitVec 8)) : Wave :=
  let d := m.d.n.toNat
  match m.m with
  | .wide _ _ =>
    if m.d.s then w.setSRun d (of 0) else w.updStrands mask fun i st => st.setWide d (of i)
  | .acc a _ =>
    let w64 := a == .z64
    let x := fun i => extendAcc a (of i)
    let w := w.updStrands mask fun i st =>
      let st := if m.h.nwb || m.d.s then st else st.setD w64 d (x i)
      st.landLatch (ages.getD i st.pushes) (latchVal w64 (x i))
    if m.d.s && !m.h.nwb then w.setS d (sVal w64 a.sgn (x 0)) else w

/-- The elements of a gather go to their registers; a hole gives zero (R171). -/
def Strand.landGather (st : Strand) (m : Gath) (bs : List (List (BitVec 8))) : Strand :=
  ((List.range bs.length).zip bs).foldl (fun st x =>
    st.setV (m.d.toNat + x.1) ((extendAcc m.acc x.2).extractLsb' 0 32)) st

/-- The accesses of a load, as a list. -/
def Load.all (l : Load) : List (Nat × Nat × BitVec 64 × Nat) :=
  l.elems.flatMap fun x => ((List.range x.2.length).zip x.2).filterMap fun y => y.2.map fun z => (x.1, y.1, z.1, z.2)

/-- The issue that stands for a path of a wave that holds one of the slots. -/
def Wave.issueOf (w : Wave) (u : Nat) (mask : BitVec 32) : Option Issue :=
  (w.paths.find? fun p => p.mask &&& mask != 0).map fun p =>
    { wave := u, path := p.born, mask := p.mask, pc := w.pathPc p, next := w.pathPc p }

/-- Bytes per access of a load instruction, whether it is plain, whether it acquires. -/
def loadShape : Instr → Nat × Bool × Bool
  | .ld m => (memBytes m.m, m.m.plain, m.m.acquires)
  | .ldu m => (memBytes m.m, m.m.plain, m.m.acquires)
  | .ldk m => (memBytes m.m, m.m.plain, m.m.acquires)
  | .gather m => (m.acc.bytes, !m.fresh, false)
  | _ => (8, false, false)

/-- The data of a plain load class arrives (R168, R171): the accesses are performed in order, and written. -/
def State.landLoad (s : State) (l : Load) : State :=
  let (n, plain, acq) := loadShape l.i
  let r := l.elems.foldl (fun (acc : Tab (List (List (BitVec 8))) × State) x =>
    let y := acc.2.landElems l n plain x.2
    (acc.1.set x.1 y.1, y.2)) ([], s)
  let s := if acq then r.2.l1DropAll (r.2.wgD l.wg).core else r.2
  let first := ((r.1.map (·.2)).headD []).headD []
  let of := fun (uniform : Bool) (i : Nat) => if uniform then first else (r.1.getD i []).headD []
  s.updWave l.wave fun w => match l.i with
    | .ld m => w.land l.mask l.ages m (of m.d.s)
    | .ldu m => w.land l.mask l.ages m (of true)
    | .ldk m => w.land l.mask l.ages m (of m.d.s)
    | .gather m => w.updStrands l.mask fun i st => st.landGather m (r.1.getD i [])
    | _ => w

/-- A load meets poison (R161): the first access in order that reads a poisoned sector. -/
def State.loadPoison (s : State) (l : Load) : Option (Nat × Nat × BitVec 64) :=
  (l.all.find? fun x => s.poisoned x.2.2.2 (loadShape l.i).1).map fun x => (x.1, x.2.1, x.2.2.1)

/-! ## Stores and requests -/

/-- The logical cluster whose unit owns the line of a cell (R292). -/
def asuOf (c : Nat) : Nat := 60 * homeDie c + field c 6 18 % 60

/-- The cell of an address that a unit serves: cached or direct aperture (R292, R293). -/
def asuCell (pa : Nat) : Option Nat :=
  match place pa with
  | .cell c .cached => some c
  | .cell c .direct => some c
  | _ => none

/-- Add a request; it is older than every later one. -/
def State.addReq (s : State) (r : AsuReq) : Nat × State :=
  let (k, s) := s.newUid
  (k, { s with reqs := s.reqs.set k { r with seq := k } })

/-- The request that an issue makes: `slots` make it, and take the result. -/
def State.mkReq (s : State) (c : Issue) (w : Wave) (slots : BitVec 32) (op : AsuOp) (va : BitVec 64) (pa : Nat) : AsuReq :=
  { asu := asuOf ((asuCell pa).getD 0), wave := c.wave, wg := w.wg, ctx := s.ctxOf w.wg, path := c.path, slots := slots,
    op := op, va := va, pa := pa, priv := w.priv, pc := c.pc, next := c.next }

/-- A request is a plain store that has issued (R7). -/
def AsuReq.stores (r : AsuReq) : Bool := match r.op with | .write _ => true | _ => false

/-- LS writes of the wave's strands that have not been performed: atomics, and plain stores that have issued. -/
def State.posted (s : State) (u : Nat) (mask : BitVec 32) : Bool :=
  s.reqs.any fun r => r.2.wave == u && r.2.slots &&& mask != 0 && r.2.reply.isNone

/-- LS reads of the wave's strands that have not been performed: those of atomics (R192). -/
def State.postedReads (s : State) (u : Nat) (mask : BitVec 32) : Bool :=
  s.reqs.any fun r => r.2.wave == u && r.2.slots &&& mask != 0 && r.2.reply.isNone && !r.2.stores

/-- The line of memory that an address reaches, whatever the aperture (R292, R294). -/
def lineKey (pa : Nat) : Nat := match cellOf pa with | some c => c / 64 | none => pa / 64 + 2 ^ 60

/-- A request not performed, older than a number, of a wave and on a line. -/
def State.olderReq (s : State) (u k line : Nat) : Bool :=
  s.reqs.any fun r => r.1 < k && r.2.wave == u && r.2.reply.isNone && lineKey r.2.pa == line

/-- A load in flight, older than a number, of a wave and on a line. -/
def State.olderLoad (s : State) (u k line : Nat) : Bool :=
  s.loads.any fun l => l.1 < k && l.2.wave == u && l.2.all.any fun x => lineKey x.2.2.2 == line

/-- Accesses of the wave's strands to the lines of these that come first in program order (R167, R182): a store waits for
them. -/
def State.orderedBefore (s : State) (u : Nat) (el : List (Nat × List (Option (BitVec 64 × Nat)))) : Bool :=
  el.any fun x => x.2.any fun y => match y with
    | some z => s.olderReq u s.fresh (lineKey z.2) || s.olderLoad u s.fresh (lineKey z.2)
    | none => false

/-- The data of a store of a strand (R169): the low bytes of the register, pair or run. -/
def storeData (w : Wave) (i : Nat) (m : Mem) : List (BitVec 8) :=
  let d := m.d.n.toNat
  match m.m with
  | .wide x _ => (List.range (x.bytes / 4)).flatMap fun j => toBytes 4 ((w.strand i).v32 (d + j)).toNat
  | .acc a _ =>
    let v := if m.d.s then w.sreg d else if a == .z64 then (w.strand i).v64 d else ((w.strand i).v32 d).zeroExtend 64
    toBytes a.bytes v.toNat

/-- Perform the stores of an issue in slot, then element order (R167). -/
def State.storeAll (s : State) (u : Nat) (direct : Bool) (el : List (Nat × List (Option (BitVec 64 × Nat))))
    (data : Nat → Nat → List (BitVec 8)) : State :=
  el.foldl (fun s x => ((List.range x.2.length).zip x.2).foldl (fun s y => match y.2 with
    | none => s
    | some (va, pa) => s.storeBytes u direct pa va (data x.1 y.1)) s) s

/-- A page of the accesses is stalled for a migration (R159). -/
def State.anyStalled (s : State) (el : List (Nat × List (Option (BitVec 64 × Nat)))) : Bool :=
  el.any fun x => x.2.any fun y => match y with | some z => s.stalledAt z.2 | none => false

/-- A store of the wave goes to memory, and neither to versions nor to the stores held for the round. -/
def State.storesPlainly (s : State) (w : Wave) (va : BitVec 64) (n : Nat) : Bool :=
  !s.inAttempt w && !s.isDet w.wg && !(List.range n).any fun k => s.renames w.wg (va + BitVec.ofNat 64 k)

/-- Carry out the stores of an issue: at once, or, where `late` and all of them go to memory, posted to be performed later
(R7, R183, log 7). -/
def State.storeOrPost (s : State) (c : Issue) (w : Wave) (direct : Bool)
    (el : List (Nat × List (Option (BitVec 64 × Nat)))) (data : Nat → Nat → List (BitVec 8)) : State :=
  let each := el.flatMap fun x => ((List.range x.2.length).zip x.2).filterMap fun y => y.2.map fun z => (x.1, y.1, z)
  if c.late && !direct && each.all fun x => s.storesPlainly w x.2.2.1 (data x.1 x.2.1).length then
    each.foldl (fun s x =>
      (s.addReq (s.mkReq c w (slotBit x.1) (.write (data x.1 x.2.1)) x.2.2.1 x.2.2.2)).2) s
  else s.storeAll c.wave direct el data

/-- Perform a store that has issued (R169): memory is written and the own core's L1 loses the line (R154). -/
def State.storeOut (s : State) (r : AsuReq) : State :=
  match r.op with
  | .write bs =>
    let core := (s.wgD r.wg).core
    (s.writeBytes (dieOf core) (s.asidOf r.ctx) r.pa bs).l1Drop core (r.pa / 64)
  | _ => s

/-- The instruction is a staging point of the round and is not yet to be performed (R340). -/
def State.stages (s : State) (c : Issue) (w : Wave) : Bool := s.isDet w.wg && !c.go

/-- `ST` (R169). A release at .cl or wider is a staging point (R340), performed straight to memory. -/
def execSt (m : Mem) (s : State) : Out :=
  perform s m.h [m.a, m.c] fun c w e =>
    if e == 0 then s.done c fun w => w.retire c fun _ st => st
    else
      let wideRel := match m.m.scope? with | some x => x.wide | none => false
      guardTrap (s.txTrap w false true)
        (andThen (checkSlots (s.checkStore w (memBytes m.m)) (fun i => oneAt (memAddr w i m.scale m.a m.c m.off)) (slotsOf e))
          fun el =>
            if wideRel && s.stages c w then .stage
            else if s.anyStalled el || s.orderedBefore c.wave el || (m.m.scope?.isSome && s.posted c.wave c.mask) then .wait false
            else .next ((s.storeOrPost c w m.m.scope?.isSome el fun i _ => storeData w i m).put c fun w => w.retire c fun _ st => st))

/-- `SCATTER` (R171). -/
def execScatter (m : Gath) (s : State) : Out :=
  perform s m.h [m.a] fun c w e =>
    if e == 0 then s.done c fun w => w.retire c fun _ st => st
    else guardTrap (s.txTrap w false true)
      (andThen (checkSlots (s.checkStore w m.acc.bytes) (fun i => gathElems w i m) (slotsOf e)) fun el =>
        if s.anyStalled el || s.orderedBefore c.wave el then .wait false
        else
          let data := fun i k => toBytes m.acc.bytes ((w.strand i).v32 (m.d.toNat + k)).toNat
          .next ((s.storeOrPost c w false el data).put c fun w => w.retire c fun _ st => st))

/-! ## Local store (R170) -/

/-- LOCAL of the workgroup's kernel (R50). -/
def State.localSize (s : State) (g : Nat) : Nat := match s.hdrOf g with | some h => h.localSz | none => 0

/-- Check a local access: range, then alignment (R166, R170). -/
def checkLocal (size n : Nat) (i : Nat) (o : Int) : Except Trap Nat :=
  let va := BitVec.ofInt 64 o
  if o < 0 || (size : Int) < o + n then .error (fltTrap ⟨.permission, 7⟩ va i 0)
  else if o.toNat % n != 0 then .error (fltTrap ⟨.misaligned, 0⟩ va i 0)
  else .ok o.toNat

/-- Check the slots of a local access. -/
def checkLocals (size n : Nat) (ea : Nat → Int) : List Nat → Except Trap (List (Nat × Nat))
  | [] => .ok []
  | i :: r => match checkLocal size n i (ea i) with
    | .error t => .error t
    | .ok o => match checkLocals size n ea r with
      | .error t => .error t
      | .ok l => .ok ((i, o) :: l)

/-- Local bytes as a load reads them; a byte that nothing has written is a free value (R157). -/
def localRead (t : Tab (BitVec 8)) (o n f : Nat) : List (BitVec 8) :=
  (List.range n).map fun k => (t.get? (o + k)).getD ((Config.freeWord (f + k)).extractLsb' 0 8)

/-- `LDL` (R170). -/
def execLdl (m : Mem) (s : State) : Out :=
  perform s m.h [m.a, m.c] fun c w e =>
    let n := memBytes m.m
    let retired := fun (w : Wave) => match m.m.w64? with
      | some w64 => w.shiftFor c e m.h.nwb m.d w64
      | none => w.retire c fun _ st => st
    if e == 0 then s.done c retired
    else guardTrap (s.txTrap w true true)
      (andThen (checkLocals (s.localSize w.wg) n (fun i => localAddr w i m)
          (if m.d.s then [(slotsOf e).headD 0] else slotsOf e)) fun el =>
        let mask := if m.d.s then c.mask else e
        let t := (s.wgD w.wg).lmem
        let at_ := fun i => if m.d.s then ((el.headD (0, 0)).2) else (el.find? (·.1 == i)).elim 0 (·.2)
        let of := fun i => localRead t (at_ i) n (if m.d.s then s.free else s.free + 64 * i)
        .next ((s.put c fun w => (retired w).land mask ((retired w).ages mask) m of).drew 2048))

/-- `STL` (R170). -/
def execStl (m : Mem) (s : State) : Out :=
  perform s m.h [m.a, m.c] fun c w e =>
    if e == 0 then s.done c fun w => w.retire c fun _ st => st
    else guardTrap (s.txTrap w true true)
      (andThen (checkLocals (s.localSize w.wg) (memBytes m.m) (fun i => localAddr w i m) (slotsOf e)) fun el =>
        let t := el.foldl (fun (t : Tab (BitVec 8)) x =>
          let bs := storeData w x.1 m
          t.setAll (((List.range bs.length).zip bs).map fun b => (x.2 + b.1, b.2))) (s.wgD w.wg).lmem
        .next ((s.updWg w.wg fun g => { g with lmem := t }).put c fun w => w.retire c fun _ st => st))

/-! ## Prefetch and flush -/

/-- `PREF` (R172): never traps and changes no architected state; `.l1` brings the line into the core's L1. -/
def execPref (l1 : Bool) (m : Addr) (s : State) : Out :=
  perform s m.h [m.a, m.c] fun c w e =>
    let core := s.coreOf w
    let t := (slotsOf e).foldl (fun t i => match t.translate (t.whoLs w) .load (memAddr w i m.scale m.a m.c m.off) with
      | .error _ => t
      | .ok pa =>
        let t := t.updMem fun m => m.l2Fill (dieOf core) pa
        if l1 then t.l1Fill core pa else t) s
    guardTrap (if e == 0 then none else s.txTrap w true true) (.next (t.put c fun w => w.retire c fun _ st => st))

/-- What `CFLUSH` does to the line at a physical address (R173). -/
def State.flushLine (s : State) (core : Nat) (op : FlushOp) (pa : Nat) : State :=
  match op with
  | .l1 => s.l1Drop core (pa / 64)
  | .i => s.updMem fun m => { m with icache := m.icache.filter fun x => !(x.core == core && x.line == pa / 64) }
  | .wb => match place pa with | .cell _ .cached => s.writeBack (pa / 64) | _ => s
  | .inv => match place pa with | .cell _ .cached => ((s.writeBack (pa / 64)).l2Drop (pa / 64) fun _ => true).l1DropLine (pa / 64) | _ => s

/-- Translate without an alignment check, every slot before any acts (R173, R194). -/
def flushAns (s : State) (c : Issue) (w : Wave) (e : BitVec 32) (m : Addr) (n : Need) (f : State → Nat → State) : Ans :=
  andThen (checkSlots (s.translate (s.whoLs w) n) (fun i => oneAt (memAddr w i m.scale m.a m.c m.off)) (slotsOf e)) fun el =>
    .next ((el.foldl (fun s x => x.2.foldl (fun s y => match y with | some z => f s z.2 | none => s) s) s).put c fun w =>
      w.retire c fun _ st => st)

/-- `CFLUSH` (R173). -/
def execCflush (op : FlushOp) (m : Addr) (s : State) : Out :=
  perform s m.h [m.a, m.c] fun c w e =>
    guardTrap (if e == 0 then none else s.txTrap w false true)
      (flushAns s c w e m (if op == .i then .loadOrFetch else .load) fun s pa => s.flushLine (s.coreOf w) op pa)

/-! ## Fences (R192 to R195) -/

/-- `FENCE` (R192): a staging point at .cl or wider in deterministic mode (R195). -/
def execFence (h : Hd) (sc : Scope) (k : FenceKind) (s : State) : Out :=
  perform s h [] fun c w e =>
    let retire := fun (s : State) => Ans.next (s.put c fun w => w.retire c fun _ st => st)
    if e == 0 then retire s
    else guardTrap (s.txTrap w true true)
      (if sc.wide && s.stages c w then .stage
      else if (k.rels && s.posted c.wave c.mask) || (k.acqs && s.postedReads c.wave c.mask) then .wait false
      else retire (if k.acqs && sc.wide then s.l1DropAll (s.coreOf w) else s))

/-- The transfer still writes locally (R178). -/
def XferKind.writes : XferKind → Bool
  | .get _ _ => true
  | _ => false

/-- Accesses of the wave on a path that a `FENCEX` waits for (R193): of scale-out transfers the local ones. -/
def State.pathBusy (s : State) (u : Nat) (mask : BitVec 32) (p : AccessPath) : Bool :=
  match p with
  | .ls => s.posted u mask
  | .cp => s.copies.any fun x => x.2.wave == u
  | .mx => s.entries.any fun x => x.2.wave == u
  | .xo => s.xfers.any fun x => x.2.wave == u && x.2.kind.writes

/-- `FENCEX` (R193). -/
def execFencex (h : Hd) (sc : Scope) (_k : FenceKind) (pa pb : AccessPath) (s : State) : Out :=
  perform s h [] fun c w e =>
    let retire := fun (s : State) => Ans.next (s.put c fun w => w.retire c fun _ st => st)
    if e == 0 then retire s
    else guardTrap (s.txTrap w false true)
      (if sc.wide && s.stages c w then .stage
      else if s.pathBusy c.wave c.mask pa || s.pathBusy c.wave c.mask pb then .wait false
      else retire (if pa == .ls || pb == .ls then s.l1DropAll (s.coreOf w) else s))

/-- What `ALIASFL` does to the line at a physical address (R194). -/
def State.aliasLine (s : State) (core : Nat) (pa : Nat) : State :=
  match cellOf pa with
  | none => s
  | some c => (s.aliasL2 (c / 64)).l1Drop core (c / 64)

/-- `ALIASFL` (R194). -/
def execAliasfl (m : Addr) (s : State) : Out :=
  perform s m.h [m.a, m.c] fun c w e =>
    guardTrap (if e == 0 then none else s.txTrap w false true)
      (if e != 0 && s.posted c.wave e then .wait false
      else flushAns s c w e m .load fun s pa => s.aliasLine (s.coreOf w) pa)

end Sys2Proof.Machine
end

