-- ==== Sys2Proof/Machine/Asu.lean ====
section
/-! DEFINITION. Machine/Asu.lean: the atomic service units (11_sync R292 to R294), atomics (R295 to R298), work-stealing
deques (R307, R308) and gated egress (R314, R315). -/

namespace Sys2Proof

/-- Width of an atomic's type (R295). -/
def AtomTy.bits : AtomTy → Nat
  | .s64 => 64 | .z64 => 64 | _ => 32

/-- The kind acquires, releases (R298). -/
def AtomKind.acqs (k : AtomKind) : Bool := k == .acq || k == .ar

/-- The kind releases (R298). -/
def AtomKind.rels (k : AtomKind) : Bool := k == .rel || k == .ar

end Sys2Proof

namespace Sys2Proof.Machine

/-! ## Checks and requests -/

/-- The checks of an access that a unit serves (R293). -/
def State.checkAsu (s : State) (a : Who) (n : Need) (align : Nat) (va : BitVec 64) : Except Flt Nat :=
  match s.checkAt a n align va with
  | .error f => .error f
  | .ok pa => if (asuCell pa).isSome then .ok pa else .error ⟨.permission, 9⟩

/-- The checks of an access that needs RD and WR (R293): the unit is looked for after every other check. -/
def State.checkAsuRw (s : State) (a : Who) (align : Nat) (va : BitVec 64) : Except Flt Nat := s.checkAsu a .loadStore align va

/-- The operation is one of a sample group, which holds a return slot whether or not it has a destination (R369). -/
def AsuOp.group : AsuOp → Bool
  | .sgreward | .sgcancel | .sgclose | .sginfo _ => true
  | _ => false

/-- The operation writes elsewhere than at its own address: entries of rings, and words of groups (R308, R315, R353). -/
def AsuOp.far : AsuOp → Bool
  | .dqpush | .dqpop | .dqsteal | .gqrel => true
  | o => o.group

/-- Return slots of a lane in use (R294, R369). -/
def State.slotsUsed (s : State) (core lane : Nat) : Nat :=
  (s.reqs.filter fun r => (r.2.d.isSome || r.2.op.group) && (s.wgD r.2.wg).core == core && (s.waveD r.2.wave).lane == lane).length

/-- Whose accesses a unit makes: the issuing wave's (R293), with the unit's block for worlds (R394). -/
def State.whoReq (s : State) (r : AsuReq) : Who :=
  { ctx := r.ctx, priv := r.priv, die := homeDie ((asuCell r.pa).getD 0), sec := s.secCluster (clusterOf (s.wgD r.wg).core) }

/-- The fault of a unit, for the trap it reports (R293). -/
def asuTrap (r : AsuReq) (f : Flt) (va : BitVec 64) : Reply := .trap (fltTrap f va ((slotsOf r.slots).headD 0) 0)

/-- A trap without further information, as a reply. -/
def misuse : Reply := .trap (trapOf .queueMisuse)

/-- Read `n` bytes of a cell at its home die, the line held exclusively (R292). -/
def State.homeRead (s : State) (pa n : Nat) : Nat :=
  let c := (asuCell pa).getD pa
  ofBytes (s.readBytes (homeDie c) c n)

/-- Write `n` bytes of a cell at its home die. -/
def State.homeWrite (s : State) (r : AsuReq) (pa n x : Nat) : State :=
  let c := (asuCell pa).getD pa
  s.writeBytes (homeDie c) (s.asidOf r.ctx) c (toBytes n x)

/-- The home L2 takes the line of a request exclusively and the other copies are invalidated, before the unit performs it
(R292). -/
def State.homeTake (s : State) (r : AsuReq) : State :=
  match asuCell r.pa with
  | some c => s.updMem fun m => m.l2Take (c / 64) (homeDie c) (s.asidOf r.ctx)
  | none => s

/-- The own core's L1 loses the line that the operation touches (R154); an acquire at .cl or wider empties it (R298). -/
def State.asuL1 (s : State) (r : AsuReq) : State :=
  if r.acqL1 then s.l1DropAll (s.wgD r.wg).core else s.l1Drop (s.wgD r.wg).core (r.pa / 64)

/-! ## Read-modify-writes (R296, R297) -/

/-- `fadd` of R296. -/
def faddBits (a b : Nat) : Nat := (fadd fmt32 plainEnv (fmt32.read false a) (fmt32.read false b)).1

/-- Minimum or maximum (R296). -/
def atomMinMax (mx : Bool) (t : AtomTy) (a b : Nat) : Nat :=
  match t with
  | .f32 => (fminmax mx fmt32 (fmt32.read false a) (fmt32.read false b)).1
  | .z32 => if mx then max a b else min a b
  | .z64 => if mx then max a b else min a b
  | _ =>
    let w := t.bits
    wrapTo w (if mx then max (signedOf w a) (signedOf w b) else min (signedOf w a) (signedOf w b))

/-- The new value of a read-modify-write (R296). -/
def rmwNew (op : AtomOp) (t : AtomTy) (old b : Nat) : Nat :=
  match op with
  | .add => if t == .f32 then faddBits old b else (old + b) % 2 ^ t.bits
  | .min => atomMinMax false t old b
  | .max => atomMinMax true t old b
  | .and => old &&& b
  | .or => old ||| b
  | .xor => old ^^^ b
  | .exch => b
  | .inc => if b ≤ old then 0 else old + 1
  | .dec => if old = 0 || b < old then b else old - 1

/-- One indivisible read-modify-write (R296): the reply is the value read. -/
def State.asuRmw (s : State) (r : AsuReq) (bits : Nat) (f : Nat → Nat) : Reply × State :=
  let old := s.homeRead r.pa (bits / 8)
  (.val (BitVec.ofNat 64 old), (s.homeWrite r r.pa (bits / 8) (f old)).asuL1 r)

/-- Perform a request's atomic (R296). -/
def State.asuAtomic (s : State) (r : AsuReq) : Reply × State :=
  match r.op with
  | .rmw op t => s.asuRmw r t.bits fun old => rmwNew op t old (r.x.toNat % 2 ^ t.bits)
  | .cas t => s.asuRmw r t.bits fun old => if old = r.x.toNat % 2 ^ t.bits then r.y.toNat % 2 ^ t.bits else old
  | _ => (.val 0, s)

/-- Record what the unit replies. A request without a result is then done. -/
def State.replied (_s : State) (k : Nat) (r : AsuReq) (x : Reply × State) : State :=
  if r.d.isNone && !r.precise then { x.2 with reqs := x.2.reqs.del k }
  else { x.2 with reqs := x.2.reqs.set k { r with reply := some x.1 } }

/-- Send requests; at a staging point they are performed at once (R339 step 3). -/
def State.sendAll (s : State) (now : Bool) (f : State → AsuReq → Reply × State) (rs : List AsuReq) : State :=
  rs.foldl (fun s r =>
    let (k, s) := s.addReq r
    if now then s.replied k { r with seq := k } (f (s.homeTake r) { r with seq := k }) else s) s

/-- The address of an atomic (R295). -/
def atomAddr (w : Wave) (i : Nat) (o : Atomic) : BitVec 64 := rd64 w i o.a + (o.off.getD 0).signExtend 64

/-- An operand of an atomic (R33): of the integer type's width, or a small number in FP32. -/
def atomVal (w : Wave) (i : Nat) (t : AtomTy) (x : Src) : BitVec 64 :=
  match t with
  | .f32 => rdTy .f32 w i x
  | .s64 => rdTy .s64 w i x
  | .z64 => rdTy .z64 w i x
  | .s32 => rdTy .s32 w i x
  | .z32 => rdTy .z32 w i x

/-- The checks and waits of an atomic, then `k` with the strands' addresses. -/
def atomAns (s : State) (c : Issue) (w : Wave) (o : Atomic) (slots : List Nat) (returns : Bool)
    (k : List (Nat × BitVec 64 × Nat) → Ans) : Ans :=
  guardTrap (s.txTrap w false false)
    (andThen (checkSlots (s.checkAsu (s.whoLs w) .store (o.t.bits / 8)) (fun i => oneAt (atomAddr w i o)) slots) fun el =>
      let el := el.filterMap fun x => match x.2 with
        | [some (va, pa)] => some (x.1, va, pa)
        | _ => none
      if s.stages c w then .stage
      else if (el.any fun x => s.stalledAt x.2.2) || (o.kind.rels && s.posted c.wave c.mask) then .wait false
      else if returns && !c.go && 32 < s.slotsUsed (s.coreOf w) w.lane + el.length then .wait false
      else k el)

/-- The part of a request that an atomic's kind and destination give. -/
def atomReq (r : AsuReq) (o : Atomic) (d : Option Dst) : AsuReq :=
  let acq := o.kind.acqs && (o.scope.wide || o.remote)
  { r with acqL1 := acq, d := d, w64 := o.t.bits == 64, nwb := o.h.nwb, sgn := o.t == .s32 }

/-- Issue an atomic that returns a value: it retires, the replies are awaited, and the strands defer (R316). -/
def atomIssue (s : State) (c : Issue) (e : BitVec 32) (o : Atomic) (rs : List AsuReq) : Ans :=
  let s := s.put c fun w => w.shiftFor c e o.h.nwb o.d (o.t.bits == 64)
  let s := s.put c fun w => s.deferIn w (if o.d.s then c.mask else e)
  .next (s.sendAll c.go State.asuAtomic (rs.map fun r => { r with ages := (s.waveD c.wave).ages r.slots }))

/-- `ATOM` (R296). -/
def execAtom (op : AtomOp) (o : Atomic) (s : State) : Out :=
  perform s o.h [o.a, o.b] fun c w e =>
    if e == 0 then s.done c fun w => w.shiftFor c e o.h.nwb o.d (o.t.bits == 64)
    else
      atomAns s c w o (if o.d.s then [(slotsOf e).headD 0] else slotsOf e) true fun el =>
        atomIssue s c e o (el.map fun x =>
          { atomReq (s.mkReq c w (if o.d.s then c.mask else slotBit x.1) (.rmw op o.t) x.2.1 x.2.2) o (some o.d) with
            x := atomVal w x.1 o.t o.b })

/-- `ACAS` (R296): the swap value is the destination's. -/
def execAcas (o : Atomic) (s : State) : Out :=
  perform s o.h [o.a, o.b] fun c w e =>
    if e == 0 then s.done c fun w => w.shiftFor c e false o.d (o.t.bits == 64)
    else
      let swap := fun i =>
        if o.d.s then w.sreg o.d.n.toNat
        else if o.t.bits == 64 then (w.strand i).v64 o.d.n.toNat else ((w.strand i).v32 o.d.n.toNat).zeroExtend 64
      atomAns s c w o (if o.d.s then [(slotsOf e).headD 0] else slotsOf e) true fun el =>
        atomIssue s c e o (el.map fun x =>
          { atomReq (s.mkReq c w (if o.d.s then c.mask else slotBit x.1) (.cas o.t) x.2.1 x.2.2) o (some o.d) with
            x := atomVal w x.1 o.t o.b, y := swap x.1 })

/-- An s register or an immediate (R34). -/
def Src.uniform : Src → Bool
  | .s _ => true | .imm _ => true | .imm32 _ => true | _ => false

/-- The requests of `RED.add.f32` combined by address (R297): the tree of R114 over the slots, -0 where a slot does not name
the address. Each comes with the slots that make it. -/
def combineRed (el : List (Nat × BitVec 64 × Nat)) (val : Nat → Nat) : List (BitVec 32 × BitVec 64 × Nat × Nat) :=
  let addrs := (el.map fun x => x.2.1).eraseDups
  addrs.filterMap fun va =>
    let mine := el.filter fun x => x.2.1 == va
    match mine with
    | [] => none
    | x :: _ =>
      let leaf := fun i => if mine.any (·.1 == i) then val i else 0x80000000
      some (maskOf (mine.map (·.1)), va, x.2.2, treeOf faddBits 0x80000000 ((List.range 32).map leaf))

/-- `RED` (R296, R297): no result. -/
def execRed (op : AtomOp) (o : Atomic) (s : State) : Out :=
  perform s o.h [o.a, o.b] fun c w e =>
    if e == 0 then s.done c fun w => w.retire c fun _ st => st
    else
      let uni := Src.uniform o.a && Src.uniform o.b
      let val := fun i => (atomVal w i o.t o.b).toNat
      atomAns s c w o (if uni then [(slotsOf e).headD 0] else slotsOf e) false fun el =>
        let rs := if op == .add && o.t == .f32 then
            (combineRed el val).map fun x => (if uni then e else x.1, x.2)
          else el.map fun x => (if uni then e else slotBit x.1, x.2.1, x.2.2, val x.1)
        let s := s.put c fun w => w.retire c fun _ st => st
        let s := s.put c fun w => s.deferIn w (if uni then c.mask else e)
        .next (s.sendAll c.go State.asuAtomic (rs.map fun x =>
          { atomReq (s.mkReq c w x.1 (.rmw op o.t) x.2.1 x.2.2.1) o none with x := BitVec.ofNat 64 x.2.2.2 }))

/-! ## Requests that wait for their reply -/

/-- Send one request of the wave and wait for its reply at the instruction, so that a fault of the unit is precise (R293). -/
def preciseAns (s : State) (c : Issue) (w : Wave) (r : AsuReq) (defers : Bool) (f : State → AsuReq → Reply × State) : Ans :=
  if s.stages c w then .stage
  else if s.stalledAt r.pa || s.posted c.wave c.mask then .wait false
  else if (r.d.isSome || r.op.group) && !c.go && 32 < s.slotsUsed (s.coreOf w) w.lane + 1 then .wait false
  else
    let s := s.put c fun w => w.updPath c.path fun p => { p with wait := .reply, next := c.next }
    let s := if defers then s.put c fun w => s.deferIn w c.mask else s
    .next (s.sendAll c.go f [{ r with precise := true }])

/-! ## Deques (R307, R308) -/

/-- A deque's header (R307). -/
structure DequeHdr where
  array  : BitVec 64
  cap    : Nat
  bad    : Bool
  top    : Nat
  bottom : Nat
  deriving DecidableEq, Repr

/-- Is a power of two between bounds. -/
def powerIn (lo hi n : Nat) : Bool := (List.range (hi + 1 - lo)).any fun k => n == 2 ^ (lo + k)

/-- Read a deque's header. -/
def State.dequeHdr (s : State) (pa : Nat) : DequeHdr :=
  let cap := s.homeRead (pa + 8) 4
  { array := BitVec.ofNat 64 (s.homeRead pa 8), cap := cap, bad := !powerIn 1 24 cap || s.homeRead (pa + 12) 4 != 0,
    top := s.homeRead (pa + 16) 8, bottom := s.homeRead (pa + 24) 8 }

/-- Address of an entry (R307). -/
def DequeHdr.entry (h : DequeHdr) (i : Nat) : BitVec 64 := h.array + BitVec.ofNat 64 (8 * (i % h.cap))

/-- Perform a deque operation (R308). The unit's own accesses to the array are checked as the header is. -/
def State.asuDeque (s : State) (r : AsuReq) : Reply × State :=
  let h := s.dequeHdr r.pa
  let size := (h.bottom + 2 ^ 64 - h.top) % 2 ^ 64
  let acc := fun (va : BitVec 64) (k : Nat → Reply × State) => match s.checkAsuRw (s.whoReq r) 8 va with
    | .error f => (asuTrap r f va, s)
    | .ok pa => k pa
  let take := fun (va : BitVec 64) (off x : Nat) => acc va fun pa =>
    (Reply.val (BitVec.ofNat 64 (s.homeRead pa 8)), ((s.homeWrite r (r.pa + off) 8 x).asuL1 r).l1Drop (s.wgD r.wg).core (pa / 64))
  if h.bad then (misuse, s)
  else match r.op with
    | .dqpush =>
      if r.x == 0 then (misuse, s)
      else if size = h.cap then (.val 0, s.asuL1 r)
      else acc (h.entry h.bottom) fun pa =>
        (.val 1, (((s.homeWrite r pa 8 r.x.toNat).homeWrite r (r.pa + 24) 8 (h.bottom + 1)).asuL1 r).l1Drop
          (s.wgD r.wg).core (pa / 64))
    | .dqpop =>
      if size = 0 then (.val 0, s.asuL1 r)
      else
        let b := (h.bottom + 2 ^ 64 - 1) % 2 ^ 64
        take (h.entry b) 24 b
    | _ => if size = 0 then (.val 0, s.asuL1 r) else take (h.entry h.top) 16 (h.top + 1)

/-- A deque instruction (R308): the header is checked, and the unit serves it. -/
def dequeAns (s : State) (c : Issue) (w : Wave) (e : BitVec 32) (h : Hd) (d hd : BitVec 6) (op : AsuOp) (x : BitVec 64)
    (acq : Bool) : Ans :=
  let dst : Dst := { s := true, n := d.zeroExtend 8 }
  if e == 0 then dataNext s c e h dst true false fun _ => 0
  else guardTrap (s.txTrap w false false)
    (let va := w.sreg hd.toNat
    match s.checkAsuRw (s.whoLs w) 32 va with
    | .error f => .trap (fltTrap f va ((slotsOf e).headD 0) 0)
    | .ok pa =>
      preciseAns s c w { s.mkReq c w e op va pa with x := x, d := some dst, w64 := true, nwb := h.nwb, acqL1 := acq } true
        State.asuDeque)

/-- `DQPUSH` (R308). -/
def execDqpush (h : Hd) (_sc : Scope) (d hd x : BitVec 6) (s : State) : Out :=
  perform s h [] fun c w e => dequeAns s c w e h d hd .dqpush (w.sreg x.toNat) false
/-- `DQPOP` (R308). -/
def execDqpop (h : Hd) (sc : Scope) (d hd : BitVec 6) (s : State) : Out :=
  perform s h [] fun c w e => dequeAns s c w e h d hd .dqpop 0 sc.wide
/-- `DQSTEAL` (R308). -/
def execDqsteal (h : Hd) (sc : Scope) (d hd : BitVec 6) (s : State) : Out :=
  perform s h [] fun c w e => dequeAns s c w e h d hd .dqsteal 0 sc.wide

/-! ## Gated egress (R314, R315) -/

/-- Copy one entry from the device ring to the host ring, checked as the issuing wave's accesses (R315). -/
def State.egressEntry (s : State) (r : AsuReq) (src dst : BitVec 64) (n : Nat) : Except Reply State :=
  let a := s.whoReq r
  match s.checkAt a .load n src, s.checkAt a .store n dst with
  | .error f, _ => .error (asuTrap r f src)
  | _, .error f => .error (asuTrap r f dst)
  | .ok p, .ok q => .ok (s.writeBytes a.die (s.asidOf r.ctx) q (s.readBytes a.die p n))

/-- Copy entries in ascending order; the first failure ends it. -/
def State.egressAll (s : State) (r : AsuReq) (dring hring : BitVec 64) (cap n : Nat) : List Nat → Except Reply State
  | [] => .ok s
  | i :: l =>
    let off := BitVec.ofNat 64 (n * (i % cap))
    match s.egressEntry r (dring + off) (hring + off) n with
    | .error t => .error t
    | .ok s => s.egressAll r dring hring cap n l

/-- Perform a release of a gated egress queue (R315), whole: a failing access leaves everything unwritten. Its read of WIDX is an
acquire at .dev, which empties the core's L1 (R154). -/
def State.asuGqrel (s : State) (r : AsuReq) : Reply × State :=
  let rd := fun off n => s.homeRead (r.pa + off) n
  let cap := rd 24 4
  let esz := rd 28 1
  let w := rd 32 8
  let rel := rd 40 8
  let i := r.x.toNat
  if rd 29 3 != 0 || rd 56 8 != 0 || !powerIn 1 20 cap || 2 < esz then (misuse, s)
  else if w < i || (rel < i && cap < i - rel) then (misuse, s)
  else if i ≤ rel then (.val 0, s.asuL1 r)
  else
    let hrel := BitVec.ofNat 64 (rd 16 8)
    match s.egressAll r (BitVec.ofNat 64 (rd 0 8)) (BitVec.ofNat 64 (rd 8 8)) cap (16 * 2 ^ esz)
        ((List.range (i - rel)).map (rel + ·)) with
    | .error t => (t, s)
    | .ok s' => match s'.checkAt (s.whoReq r) .store 8 hrel with
      | .error f => (asuTrap r f hrel, s)
      | .ok q =>
        let s' := s'.writeBytes (s.whoReq r).die (s.asidOf r.ctx) q (toBytes 8 i)
        (.val 0, (s'.homeWrite r (r.pa + 40) 8 i).asuL1 r)

/-- `GQREL` (R315). -/
def execGqrel (h : Hd) (a : BitVec 6) (idx : Src) (s : State) : Out :=
  perform s h [idx] fun c w e =>
    if e == 0 then s.done c fun w => w.retire c fun _ st => st
    else guardTrap (s.txTrap w false false)
      (let va := w.sreg a.toNat
      match s.checkAsuRw (s.whoLs w) 64 va with
      | .error f => .trap (fltTrap f va ((slotsOf e).headD 0) 0)
      | .ok pa => preciseAns s c w { s.mkReq c w e .gqrel va pa with x := rdU w idx, acqL1 := true } false State.asuGqrel)

end Sys2Proof.Machine
end

