-- ==== Sys2Proof/Machine/Formats.lean ====
section
/-! DEFINITION. Machine/Formats.lean: number formats, group scales, framed blocks and row-scaled streams (05_formats R117 to
R130). Bytes of a block are numbers below 256. -/

namespace Sys2Proof.Machine

/-- The value times 2^k. -/
def FVal.scale (x : FVal) (k : Int) : FVal :=
  match x with
  | .fin n m e => .fin n m (e + k)
  | y => y

/-- The magnitude. -/
def FVal.abs : FVal → FVal
  | .nan s => .nan s
  | .inf _ => .inf false
  | .fin _ n e => .fin false n e

/-- The value of an integer. -/
def FVal.ofInt (x : Int) : FVal := .fin (x < 0) x.natAbs 0

/-- A narrow float type: fraction bits, exponent of the smallest normal value, code of the largest finite value (R117). -/
def narrowOf (t : Ty) : Nat × Int × Nat :=
  match t with
  | .e4m3 => (3, -6, 0x7E)
  | .e5m2 => (2, -14, 0x7B)
  | _ => (1, 0, 7)

/-- The exact value of a code of a floating type (R118; R102 for signalling NaNs). -/
def readTy (t : Ty) (daz : Bool) (c : Nat) : FVal :=
  match t with
  | .e4m3 =>
    let s := c.testBit 7
    let e := field c 3 4
    let m := field c 0 3
    if e = 15 && m = 7 then .nan false
    else if e = 0 then .fin s m (-9)
    else .fin s (8 + m) ((e : Int) - 10)
  | .e5m2 =>
    let s := c.testBit 7
    let e := field c 2 5
    let m := field c 0 2
    if e = 31 then (if m = 0 then .inf s else .nan (m == 1))
    else if e = 0 then .fin s m (-16)
    else .fin s (4 + m) ((e : Int) - 17)
  | .e2m1 =>
    let s := c.testBit 3
    let e := field c 1 2
    let m := field c 0 1
    if e = 0 then .fin s m (-1) else .fin s (2 + m) ((e : Int) - 2)
  | .e8m0 => if c % 256 = 0xFF then .nan false else .fin false 1 ((c % 256 : Nat) - 127 : Int)
  | t => (fmtOf t).read daz c

/-- The result of rounding an exact value to a wide type with saturation (R102, R120). -/
def encodeWide (f : Fmt) (v : FEnv) (sat : Bool) (x : FVal) : FRes :=
  match x with
  | .nan sg => (f.nan, flIf sg flNV)
  | .inf n => if sat then (f.withSign n (f.infBits - 1), flOF) else (f.withSign n f.infBits, noFlag)
  | .fin n m e =>
    if m = 0 then (f.withSign n 0, noFlag)
    else
      let r := f.round v n m e false
      if sat && r.2 &&& flOF != 0 then (f.withSign n (f.infBits - 1), r.2) else r

/-- Encode a value into E4M3, E5M2 or E2M1 (R119, R120). -/
def encodeNarrow (t : Ty) (v : FEnv) (sat : Bool) (x : FVal) : FRes :=
  let (m, emin, mx) := narrowOf t
  let sign := if t == .e2m1 then 8 else 128
  let put := fun (n : Bool) (c : Nat) => if n then sign + c else c
  match x with
  | .nan sg =>
    if t == .e2m1 then (0, flNV) else (if t == .e4m3 then 0x7F else 0x7E, flIf sg flNV)
  | .inf n =>
    if sat || t == .e2m1 then (put n mx, flOF)
    else if t == .e4m3 then (put n 0x7F, flOF)
    else (put n 0x7C, noFlag)
  | .fin n k e =>
    if k = 0 then (put n 0, noFlag)
    else
      let top := (log2 k : Int) + e
      let free := roundAt v.mode n k e false (top - (m : Int))
      let tiny := decide ((if free.1 = 2 ^ (m + 1) then top + 1 else top) < emin)
      let q := max (top - (m : Int)) (emin - (m : Int))
      let r := roundAt v.mode n k e false q
      let b := (q - (emin - (m : Int))).toNat * 2 ^ m + r.1
      if mx < b then
        let c :=
          if sat || t == .e2m1 then mx
          else if t == .e4m3 then 0x7F
          else match v.mode with
            | .near => 0x7C
            | .zero => mx
            | .up => if n then mx else 0x7C
            | .down => if n then 0x7C else mx
        (put n c, flOF ||| flNX)
      else (put n b, flIf r.2 (flIf tiny flUF ||| flNX))

/-- Round a value to a floating type other than .e8m0. -/
def encodeTy (t : Ty) (v : FEnv) (sat : Bool) (x : FVal) : FRes :=
  match t with
  | .e4m3 | .e5m2 | .e2m1 => encodeNarrow t v sat x
  | t => encodeWide (fmtOf t) v sat x

/-! ## Group scales (R121) -/

/-- emax of R117, for the scale rule. -/
def emaxOf (t : Ty) : Int :=
  match t with
  | .f16 => 15
  | .bf16 => 127
  | .e4m3 => 8
  | .e5m2 => 15
  | .e2m1 => 2
  | _ => 0

/-- floor(log2(a)) + 127 - emax, within 0 to 0xFE. -/
def clampScale (k : Int) : Nat := (max 0 (min 0xFE k)).toNat

/-- The scale rule of R121; `a` is a magnitude. -/
def scaleByte (t : Ty) (a : FVal) : Nat :=
  match a with
  | .nan _ => 0xFF
  | .inf _ => 0xFF
  | .fin _ n e =>
    if n = 0 then 0
    else if t == .bf16 || t == .f16 then 0x7F
    else clampScale ((log2 n : Int) + e - emaxOf t + 127)

/-! ## Framed blocks (R122 to R126) -/

/-- The format code of a type (R123). -/
def fcOf (t : Ty) : Nat :=
  match t with
  | .e2m1 => 1
  | .e4m3 => 2
  | .e5m2 => 3
  | .i8 => 4
  | .i4 => 5
  | .bf16 => 6
  | .f16 => 7
  | _ => 0

/-- Elements of a framed block (R123). -/
def blockElems (t : Ty) : Nat :=
  match t with
  | .e2m1 | .i4 => 96
  | .bf16 | .f16 => 24
  | _ => 48

/-- Scale groups of a framed block. -/
def blockGroups (t : Ty) : Nat := blockElems t / 24

/-- The escape code of a type (R123). -/
def escapeOf (t : Ty) : Option Nat :=
  match t with
  | .e2m1 | .i4 => some 8
  | .bf16 | .f16 => none
  | _ => some 0x80

/-- Byte `j` of a block. -/
def byteAt (b : List Nat) (j : Nat) : Nat := b.getD j 0

/-- The code of element `e` (R123). -/
def elemCode (t : Ty) (b : List Nat) (e : Nat) : Nat :=
  match t with
  | .e2m1 | .i4 => field (byteAt b (5 + e / 2)) (4 * (e % 2)) 4
  | .bf16 | .f16 => byteAt b (5 + 2 * e) + 256 * byteAt b (6 + 2 * e)
  | _ => byteAt b (5 + e)

/-- Change the code of element `e`. -/
def setElem (t : Ty) (b : List Nat) (e c : Nat) : List Nat :=
  match t with
  | .e2m1 | .i4 =>
    let old := byteAt b (5 + e / 2)
    b.set (5 + e / 2) (if e % 2 = 0 then old / 16 * 16 + c % 16 else old % 16 + 16 * (c % 16))
  | .bf16 | .f16 => (b.set (5 + 2 * e) (c % 256)).set (6 + 2 * e) (c / 256 % 256)
  | _ => b.set (5 + e) (c % 256)

/-- Whether element `e` is an escape. -/
def isEscape (t : Ty) (b : List Nat) (e : Nat) : Bool := escapeOf t == some (elemCode t b e)

/-- Escapes among the elements before `e` (R124). -/
def escapesBefore (t : Ty) (b : List Nat) (e : Nat) : Nat := ((List.range e).filter (isEscape t b)).length

/-- Outlier `j` (R122). -/
def outlier (b : List Nat) (j : Nat) : Nat := byteAt b (54 + 2 * j) + 256 * byteAt b (55 + 2 * j)

/-- What the checks of R126 leave: none, every value is zero; else the number of outliers in force. -/
def checkBlock (t : Ty) (en : Bool) (b : List Nat) : Except Cause (Option Nat) :=
  let fc := byteAt b 0
  let bad := fun (c : Cause) (k : Except Cause (Option Nat)) => if en then .error c else k
  if fc = 0 || 9 ≤ fc then bad .unframedBlock (.ok none)
  else if fc = 8 then
    if (List.range 63).any (fun j => byteAt b (j + 1) != 0) then bad .unframedBlock (.ok none) else .ok none
  else if fc != fcOf t then bad .tileFormat (.ok none)
  else
    let o := byteAt b 53
    let count := if t == .bf16 || t == .f16 then 0 else min (o % 8) 5
    let unused := (List.range 4).any fun g => blockGroups t ≤ g && byteAt b (1 + g) != 0
    if en && (unused || 8 ≤ o || 5 < o % 8) then .error .unframedBlock
    else if en && (t == .bf16 || t == .f16) && o != 0 then .error .unframedBlock
    else if en && count < escapesBefore t b (blockElems t) then .error .outlierOverflow
    else .ok (some count)

/-- The value of a framed code before its scale (R118, R117: .i8 stands for c·2^-6, .i4 for c·2^-2). -/
def framedElem (t : Ty) (c : Nat) : FVal :=
  match t with
  | .i8 => (FVal.ofInt (signedOf 8 c)).scale (-6)
  | .i4 => (FVal.ofInt (signedOf 4 c)).scale (-2)
  | t => readTy t false c

/-- The exact value of element `e` of a block that passed its checks (R126). -/
def blockValue (t : Ty) (shape : Option Nat) (b : List Nat) (e : Nat) : FVal :=
  match shape with
  | none => .fin false 0 0
  | some count =>
    let s := byteAt b (1 + e / 24)
    if isEscape t b e then
      let j := escapesBefore t b e
      if j < count then fmtB.read false (outlier b j) else .fin false 0 0
    else if s = 0xFF then .nan false
    else (framedElem t (elemCode t b e)).scale ((s : Int) - 127)

/-! ## Row-scaled streams (R128 to R130) -/

/-- Code range of a row type (R130). -/
def rowRange (t : Ty) : Int × Int :=
  match t with
  | .q8 => (0, 255)
  | .q4 => (0, 15)
  | .i8 => (-128, 127)
  | _ => (-8, 7)

/-- The row type is signed. -/
def rowSigned (t : Ty) : Bool := t == .i8 || t == .i4

/-- Bits of a code. -/
def rowBits (t : Ty) : Nat := if t == .q8 || t == .i8 then 8 else 4

/-- The number a code stands for. -/
def rowCode (t : Ty) (c : Nat) : Int := if rowSigned t then signedOf (rowBits t) c else ((c % 2 ^ rowBits t : Nat) : Int)

/-- The zero point of an entry (R128). -/
def rowZero (t : Ty) (e : Nat) : Int := if rowSigned t then signedOf 8 (field e 16 8) else ((field e 16 8 : Nat) : Int)

/-- The scale of an entry when it is valid: positive and finite, or zero (R129). DESIGN CHOICE (log 26): -0 is negative. -/
def rowScale (e : Nat) : Option (Nat × Int) :=
  match fmt16.read false (field e 0 16) with
  | .fin neg n x => if neg then none else some (n, x)
  | _ => none

/-- The exact value of a code (R129). -/
def rowValue (t : Ty) (e c : Nat) : FVal :=
  match rowScale e with
  | none => .nan false
  | some (n, x) => let k := (rowCode t c - rowZero t e) * (n : Int); .fin (k < 0) k.natAbs x

/-- Round num / den (den > 0) to an integer in a mode: the integer and whether it is inexact. -/
def roundRat (mode : Mode) (num : Int) (den : Nat) : Int × Bool :=
  let r := roundAt mode (num < 0) (num.natAbs * 2 ^ 8 / den) (-8) (num.natAbs * 2 ^ 8 % den != 0) 0
  (if num < 0 then -(r.1 : Int) else (r.1 : Int), r.2)

/-- a / b of magnitudes n·2^e, as a fraction of naturals. -/
def ratio (a : Nat) (ea : Int) (b : Nat) (eb : Int) : Nat × Nat :=
  let d := ea - eb
  if 0 ≤ d then (a * 2 ^ d.toNat, b) else (a, b * 2 ^ (-d).toNat)

/-- The FP16 scale of R130: rounded to nearest even, saturated with OF, and 2^-24 in place of +0; inexact raises NX. -/
def rowScaleOf (num : Nat) (e : Int) (den : Nat) : FRes :=
  if num = 0 then (1, noFlag)
  else
    let d := divApprox num e den 0
    let r := fmt16.round plainEnv false d.1 d.2.1 d.2.2
    let nx := flIf (r.2 &&& flNX != 0) flNX
    if r.2 &&& flOF != 0 then (0x7BFF, flOF ||| nx)
    else if r.1 = 0 then (1, nx)
    else (r.1, nx)

/-- Compare two values that are not NaN. -/
def FVal.lt (a b : FVal) : Bool := fless false a b

/-- The row-scale rule (R130): entry and flags. -/
def rowEntry (t : Ty) (lo hi : FVal) (r : Nat) : FRes :=
  let tag := r % 256 * 2 ^ 24
  if lo.isNan || hi.isNan then (0x7E00 + tag, flNV)
  else
    let (lo, hi) := if hi.lt lo then (hi, lo) else (lo, hi)
    let (qmin, qmax) := rowRange t
    let entry := fun (sc : FRes) (z : Int) => (sc.1 + wrapTo 8 z * 2 ^ 16 + tag, sc.2)
    if !lo.lt hi then
      match lo with
      | .fin neg n e => if n = 0 then (0x3C00 + tag, noFlag) else entry (rowScaleOf n e 1) (if neg then 1 else 0)
      | .inf neg => entry (0x7BFF, flOF) (if neg then 1 else 0)
      | .nan _ => (0x7E00 + tag, flNV)
    else
      let low : FVal := if lo.neg then lo else .fin false 0 0
      let high : FVal := if hi.neg then .fin false 0 0 else hi
      match low, high with
      | .fin _ a ea, .fin _ b eb =>
        let x := exactSum [{ neg := false, n := a, e := ea }, { neg := false, n := b, e := eb }]
        let q := minExp [{ neg := false, n := a, e := ea }, { neg := false, n := b, e := eb }]
        let sc := rowScaleOf x.natAbs q (qmax - qmin).toNat
        match rowScale sc.1 with
        | some (m, em) =>
          let f := ratio a ea m em
          let z := (roundRat .near (qmin * (f.2 : Int) + (f.1 : Int)) f.2).1
          entry sc (max qmin (min qmax z))
        | none => entry sc qmin
      | .inf _, _ => entry (0x7BFF, flOF) qmax
      | .fin _ a ea, _ =>
        let f := ratio a ea 2047 5
        let z := (roundRat .near (qmin * (f.2 : Int) + (f.1 : Int)) f.2).1
        entry (0x7BFF, flOF) (max qmin (min qmax z))
      | .nan _, _ => (0x7E00 + tag, flNV)

/-- Pack a value into a code of a row (R143). -/
def rowPack (t : Ty) (mode : Mode) (e : Nat) (x : FVal) : FRes :=
  let z := rowZero t e
  let (qmin, qmax) := rowRange t
  let code := fun (c : Int) => wrapTo (rowBits t) c
  let sc := fmt16.read false (field e 0 16)
  let keep := (code z, flIf (x.isNan || sc.isNan) flNV)
  match x, sc with
  | .nan _, _ => keep
  | .inf neg, .fin sneg m _ => if sneg || m = 0 then keep else (code (if neg then qmin else qmax), flOF)
  | .fin neg n ex, .fin sneg m em =>
    if sneg || m = 0 then keep
    else
      let f := ratio n ex m em
      let q := roundRat mode (if neg then -(f.1 : Int) else (f.1 : Int)) f.2
      let c := q.1 + z
      let nx := flIf q.2 flNX
      if c < qmin then (code qmin, flOF ||| nx) else if qmax < c then (code qmax, flOF ||| nx) else (code c, nx)
  | _, _ => keep

end Sys2Proof.Machine
end

