-- ==== Sys2Proof/Machine/Convert.lean ====
section
/-! DEFINITION. Machine/Convert.lean: the conversion instructions (05_formats R131 to R145). -/

namespace Sys2Proof.Machine

/-- A floating source of a conversion: DAZ for the wide types (R134, R135). -/
def convSrc (t : Ty) (v : FEnv) (w : Wave) (i : Nat) (a : Src) : FVal :=
  readTy t v.daz ((rdTy t w i a).toNat % 2 ^ tyBits t)

/-- Retire with a result of type `t` and flags. -/
def convNext (s : State) (c : Issue) (e : BitVec 32) (h : Hd) (d : Dst) (t : Ty) (f : Nat → BitVec 64 × BitVec 5) : Ans :=
  s.done c fun w =>
    let fl := if d.s && e != 0 then (f ((slotsOf e).headD 0)).2 else flagsOf e fun i => (f i).2
    let w' := w.retireData c e h.nwb d (is64 t) (isSigned t) fun i => (f i).1
    { w' with fpflags := w'.fpflags ||| fl }

/-- `CVT` toward .e8m0 (R134). -/
def toE8m0 (x : FVal) : FRes :=
  let r := scaleByte .e8m0 x.abs
  let inexact := match x with
    | .fin _ n e => n != 0 && exactSum [{ neg := false, n := n, e := e }, { neg := true, n := 1, e := (r : Int) - 127 }] != 0
    | _ => false
  (r, flIf x.isSig flNV ||| flIf inexact flNX)

/-- `CVT` (R134). -/
def execCvt (o : Conv) (s : State) : Out :=
  perform s o.h [o.a] fun c w e =>
    let v := w.fenv o.rm
    convNext s c e o.h o.d o.t fun i =>
      let x := convSrc o.st v w i o.a
      let r := if o.t == .e8m0 then toE8m0 x else encodeTy o.t v o.sat x
      (BitVec.ofNat 64 r.1, r.2)

/-- Least and greatest values of an integer type. -/
def intRange (t : Ty) : Int × Int :=
  let w := tyBits t
  if tySigned t then (-(2 ^ (w - 1) : Nat), (2 ^ (w - 1) : Nat) - 1) else (0, (2 ^ w : Nat) - 1)

/-- Convert a value to an integer type (R135). -/
def toInt (t : Ty) (mode : Mode) (sat : Bool) (x : FVal) : Int × BitVec 5 :=
  let (lo, hi) := intRange t
  match x with
  | .nan _ => (0, flNV)
  | .inf neg => (if sat then (if neg then lo else hi) else 0, flNV)
  | .fin neg n e =>
    let r := roundAt mode neg n e false 0
    let y : Int := if neg then -(r.1 : Int) else (r.1 : Int)
    if y < lo || hi < y then (if sat then max lo (min hi y) else y, flNV) else (y, flIf r.2 flNX)

/-- `CVTFI` (R135): a narrow result is zero-extended in a v register (R133), and extended into an s register by R32. -/
def execCvtfi (o : Conv) (s : State) : Out :=
  perform s o.h [o.a] fun c w e =>
    let v := w.fenv o.rm
    convNext s c e o.h o.d o.t fun i =>
      let r := toInt o.t v.mode o.sat (convSrc o.st v w i o.a)
      (if o.d.s then wrInt o.t r.1 else BitVec.ofNat 64 (wrapTo (tyBits o.t) r.1), r.2)

/-- `CVTIF` (R136): only NX and OF can be raised. -/
def execCvtif (o : Conv) (s : State) : Out :=
  perform s o.h [o.a] fun c w e =>
    let v := w.fenv o.rm
    convNext s c e o.h o.d o.t fun i =>
      let r := encodeTy o.t v o.sat (FVal.ofInt (rdInt o.st (rdTy o.st w i o.a)))
      (BitVec.ofNat 64 r.1, r.2 &&& (flNX ||| flOF))

/-! ## QAMAX, QSCALE, QROW (R137 to R139) -/

/-- Element `k` of the run of `QAMAX` (R137). -/
def amaxElem (t : Ty) (st : Strand) (a k : Nat) : Nat :=
  if t == .f32 then (st.v32 (a + k)).toNat else field (st.v32 (a + k / 2)).toNat (16 * (k % 2)) 16

/-- The largest magnitude of `n` elements as FP32, and NV for a signalling NaN (R137). -/
def amax (t : Ty) (daz : Bool) (st : Strand) (a n : Nat) : FRes :=
  let xs := (List.range n).map fun k => (fmtOf t).read daz (amaxElem t st a k)
  let fl := flIf (xs.any FVal.isSig) flNV
  if xs.any FVal.isNan then (fmt32.nan, fl)
  else (fmt32.show (xs.foldl (fun m x => if m.lt x.abs then x.abs else m) (.fin false 0 0)), fl)

/-- `QAMAX` (R137). -/
def execQamax (h : Hd) (t : Ty) (d a : BitVec 8) (n : BitVec 7) (s : State) : Out :=
  perform s h [] fun c w e =>
    fpNext s c e h { s := false, n := d } fun i => amax t (w.fenv .dyn).daz (w.strand i) a.toNat n.toNat

/-- `QSCALE` (R138). -/
def execQscale (o : Un) (s : State) : Out :=
  perform s o.h [o.a] fun c w e =>
    fpNext s c e o.h o.d fun i =>
      let x := fmt32.read (w.fenv .dyn).daz (rdTy .f32 w i o.a).toNat
      (scaleByte o.t x.abs, flIf x.isSig flNV)

/-- `QROW` (R139). -/
def execQrow (o : Tri) (s : State) : Out :=
  perform s o.h [o.a, o.b, o.c] fun c w e =>
    let rd := fun i a => fmt32.read (w.fenv .dyn).daz (rdTy .f32 w i a).toNat
    fpNext s c e o.h o.d fun i => rowEntry o.t (rd i o.a) (rd i o.b) (rd32 w i o.c).toNat

/-! ## Block images (R140 to R142, R144, R145) -/

/-- The 64 bytes of the block image at vB (R140). -/
def Strand.image (st : Strand) (b : Nat) : List Nat :=
  (List.range 64).map fun j => field (st.v32 (b + j / 4)).toNat (8 * (j % 4)) 8

/-- Write a block image. -/
def Strand.setImage (st : Strand) (b : Nat) (x : List Nat) : Strand :=
  (List.range 16).foldl (fun st k =>
    st.setV (b + k) (BitVec.ofNat 32 ((List.range 4).foldl (fun n j => n + byteAt x (4 * k + j) * 2 ^ (8 * j)) 0))) st

/-- The image that `QHDR` leaves (R141). -/
def qhdrImage (o : QhdrOp) (old : List Nat) (scales : Nat) : List Nat :=
  match o with
  | .zero _ => 8 :: List.replicate 63 0
  | .hdr t _ =>
    [fcOf t] ++ (List.range 4).map (fun g => if g < blockGroups t then field scales (8 * g) 8 else 0) ++
      (old.drop 5).take 48 ++ List.replicate 11 0

/-- `QHDR` (R141). -/
def execQhdr (h : Hd) (d : BitVec 8) (o : QhdrOp) (s : State) : Out :=
  perform s h (match o with | .hdr _ a => [a] | .zero _ => []) fun c w e =>
    let scales := fun i => match o with
      | .hdr _ a => (rd32 w i a).toNat
      | .zero _ => 0
    s.done c fun _ => w.retireWith c e fun i st => st.setImage d.toNat (qhdrImage o (st.image d.toNat) (scales i))

/-- Pack one value into a framed code with scale byte `sb` (R142). -/
def framePack (t : Ty) (v : FEnv) (sat : Bool) (sb : Nat) (x : FVal) : FRes :=
  if sb = 0xFF then (0, noFlag)
  else
    let y := x.scale (127 - (sb : Int))
    let ints := fun (k : Int) (bits : Nat) (lim : Int) =>
      match y with
      | .nan _ => (0, flNV)
      | .inf neg => (wrapTo bits (if neg then -lim else lim), flOF)
      | .fin neg n e =>
        let r := roundAt v.mode neg n (e + k) false 0
        let z : Int := if neg then -(r.1 : Int) else (r.1 : Int)
        if z < -lim || lim < z then (wrapTo bits (max (-lim) (min lim z)), flOF ||| flNX) else (wrapTo bits z, flIf r.2 flNX)
    match t with
    | .i8 => ints 6 8 127
    | .i4 => ints 2 4 7
    | .bf16 | .f16 => encodeTy t v sat y
    | t =>
      let r := encodeTy t v sat y
      (if r.1 = (if t == .e2m1 then 8 else 128) then 0 else r.1, r.2)

/-- Pack 24 values into group `g` of an image (R142). -/
def packGroup (t : Ty) (v : FEnv) (sat : Bool) (g : Nat) (img : List Nat) (xs : List FVal) : List Nat × BitVec 5 :=
  let sb := byteAt img (1 + g)
  (List.range 24).foldl (fun acc i =>
    let r := framePack t v sat sb (xs.getD i (.fin false 0 0))
    (setElem t acc.1 (24 * g + i) r.1, acc.2 ||| r.2)) (img, noFlag)

/-- `QPACK` of a framed group (R142). -/
def execQpack (h : Hd) (rm : Rm) (sat : Bool) (t : Ty) (grp : BitVec 2) (d a : BitVec 8) (s : State) : Out :=
  perform s h [] fun c w e =>
    let v := w.fenv rm
    let r := fun i =>
      let st := w.strand i
      packGroup t v sat grp.toNat (st.image d.toNat)
        ((List.range 24).map fun k => fmt32.read v.daz (st.v32 (a.toNat + k)).toNat)
    s.done c fun _ =>
      let w' := w.retireWith c e fun i st => st.setImage d.toNat (r i).1
      { w' with fpflags := w'.fpflags ||| flagsOf e fun i => (r i).2 }

/-- Write codes of `bits` bits to registers from vD on, low code first (R143). -/
def Strand.setCodes (st : Strand) (d bits : Nat) (codes : List Nat) : Strand :=
  let per := 32 / bits
  (List.range (codes.length / per)).foldl (fun st k =>
    st.setV (d + k) (BitVec.ofNat 32 ((List.range per).foldl (fun n j => n + codes.getD (per * k + j) 0 * 2 ^ (bits * j)) 0)))
    st

/-- The `k`-th code of a packed run of registers (R143). -/
def Strand.codeAt (st : Strand) (a bits k : Nat) : Nat :=
  let per := 32 / bits
  field (st.v32 (a + k / per)).toNat (bits * (k % per)) bits

/-- `QPACK.rows` (R143). -/
def execQpackRows (h : Hd) (rm : Rm) (t : Ty) (d a : BitVec 8) (ent : Src) (s : State) : Out :=
  perform s h [ent] fun c w e =>
    let v := w.fenv rm
    let r := fun i => (List.range 24).map fun k =>
      rowPack t v.mode (rd32 w i ent).toNat (fmt32.read v.daz ((w.strand i).v32 (a.toNat + k)).toNat)
    s.done c fun _ =>
      let w' := w.retireWith c e fun i st => st.setCodes d.toNat (rowBits t) ((r i).map (·.1))
      { w' with fpflags := w'.fpflags ||| flagsOf e fun i => (r i).foldl (fun f x => f ||| x.2) noFlag }

/-- A value as an unpacked FP32 register: rne_f32 with FTZ and the flags of R102. -/
def unpackVal (v : FEnv) (x : FVal) : FRes := encodeWide fmt32 v false x

/-- Write 24 unpacked values. -/
def Strand.setRun (st : Strand) (d : Nat) (xs : List FRes) : Strand :=
  (List.range xs.length).foldl (fun st k => st.setV (d + k) (BitVec.ofNat 32 (xs.getD k (0, 0)).1)) st

/-- The enabled strands' checks, in slot order; the first failure traps. -/
def firstTrap (e : BitVec 32) (f : Nat → Option Trap) : Option Trap := (slotsOf e).findSome? f

/-- `QUNPACK` of a framed group (R144) under FMTCHK (R127). -/
def execQunpack (h : Hd) (t : Ty) (grp : BitVec 2) (d a : BitVec 8) (s : State) : Out :=
  perform s h [] fun c w e =>
    let en := (s.ctxD (s.ctxOf w.wg)).fmtchk.getLsbD 0
    let v := w.welfEnv
    let shape := fun i => checkBlock t en ((w.strand i).image a.toNat)
    let vals := fun i => match shape i with
      | .error _ => []
      | .ok sh => (List.range 24).map fun k =>
        unpackVal v (blockValue t sh ((w.strand i).image a.toNat) (24 * grp.toNat + k))
    guardTrap (firstTrap e fun i => match shape i with
      | .error x => some (trapOf x)
      | .ok _ => none)
      (s.done c fun _ =>
        let w' := w.retireWith c e fun i st => st.setRun d.toNat (vals i)
        { w' with fpflags := w'.fpflags ||| flagsOf e fun i => (vals i).foldl (fun f x => f ||| x.2) noFlag })

/-- `QUNPACK.rows` (R144, R129). -/
def execQunpackRows (h : Hd) (t : Ty) (d a : BitVec 8) (ent r : Src) (s : State) : Out :=
  perform s h [ent, r] fun c w e =>
    let v := w.welfEnv
    let entry := fun i => (rd32 w i ent).toNat
    let vals := fun i => (List.range 24).map fun k =>
      let x := rowValue t (entry i) ((w.strand i).codeAt a.toNat (rowBits t) k)
      if (rowScale (entry i)).isNone then (fmt32.nan, flNV) else unpackVal v x
    guardTrap (firstTrap e fun i =>
      if field (entry i) 24 8 = (rd32 w i r).toNat % 256 then none else some (trapOf .scaleMisalign))
      (s.done c fun _ =>
        let w' := w.retireWith c e fun i st => st.setRun d.toNat (vals i)
        { w' with fpflags := w'.fpflags ||| flagsOf e fun i => (vals i).foldl (fun f x => f ||| x.2) noFlag })

/-- The image that `QESC` leaves, or its trap (R145). DESIGN CHOICE (log 26): where bits 2:0 of byte 53 hold 6 or 7, what would
lie beyond the image is not written, and byte 53 receives the sum as it is. -/
def qescImage (t : Ty) (b : List Nat) (i o : Nat) : Except Trap (List Nat) :=
  let n := byteAt b 53 % 8
  let put := fun (b : List Nat) (j x : Nat) => (b.set (54 + 2 * j) (x % 256)).set (55 + 2 * j) (x / 256)
  if blockElems t ≤ i then .error (badField .sa)
  else
    let j := escapesBefore t b i
    if isEscape t b i && j < n then .ok (put b j o)
    else if n = 5 || n < j then .error (trapOf .outlierOverflow)
    else
      let b' := (List.range (n - j)).foldr (fun k x => put x (j + k + 1) (outlier b (j + k))) b
      .ok ((setElem t (put b' j o) i ((escapeOf t).getD 0)).set 53 (n + 1))

/-- `QESC` (R145). The flags that the strands raised on the way to an outlier overflow stay raised (R5). -/
def execQesc (h : Hd) (t : Ty) (d : BitVec 8) (a b : Src) (s : State) : Out :=
  perform s h [a, b] fun c w e =>
    let v := w.welfEnv
    let o := fun i => encodeWide fmtB v false (fmt32.read v.daz (rdTy .f32 w i b).toNat)
    let r := fun i => qescImage t ((w.strand i).image d.toNat) (rd32 w i a).toNat (o i).1
    let bad := fun i => match r i with
      | .error x => some x
      | .ok _ => none
    match (slotsOf e).find? fun i => (bad i).isSome, firstTrap e bad with
    | some k, some x =>
      let before := maskOf ((slotsOf e).filter fun i => i < k || (i == k && x.cause == .outlierOverflow))
      trapAfter (s.put c fun w => { w with fpflags := w.fpflags ||| flagsOf before fun i => (o i).2 }) c x
    | _, _ => s.done c fun _ =>
        let w' := w.retireWith c e fun i st => match r i with
          | .ok img => st.setImage d.toNat img
          | .error _ => st
        { w' with fpflags := w'.fpflags ||| flagsOf e fun i => (o i).2 }

end Sys2Proof.Machine
end

