-- ==== Sys2Proof/Machine/Control.lean ====
section
/-! DEFINITION. Machine/Control.lean: control-flow and strand instructions (03_control R75 to R85). -/

namespace Sys2Proof.Machine

/-! ## Transfers -/

/-- The checks of a transfer target (R76); `i` is the first strand that would go there. -/
def checkTarget (i : Nat) (t : BitVec 64) : Option Trap :=
  if t.toNat % 4 != 0 then some (trapOf .misaligned)
  else if t.toNat % 32 == 28 then some (trapOf .straddle)
  else if t.toNat / 2 ^ 56 != 0 then some { cause := .translation, addr := t, info := BitVec.ofNat 64 (i + 0x200) }
  else none

/-- The first failing target of the enabled strands, in slot order (R76). A relative transfer that no strand is enabled for
transfers nothing and checks no target: the model's choice, as R77's pseudocode names the check before any strand (log 11). -/
def checkTargets (e : BitVec 32) (t : Nat → BitVec 64) : Option Trap :=
  (slotsOf e).findSome? fun i => checkTarget i (t i)

/-- Cut the issuing path by the addresses its strands continue at (R54): the group at the fall-through keeps the path,
else the group of the lowest strand; the others become new paths in order of their lowest strand. -/
def Wave.splitPath (w : Wave) (c : Issue) : Wave :=
  let m := (slotsOf c.mask).filter fun i => (w.strand i).live
  let pcOf := fun i => (w.strand i).pc
  let addrs := (m.map pcOf).foldl (fun l a => if l.contains a then l else l ++ [a]) []
  match addrs with
  | [] => w.dropPath c.path
  | first :: _ =>
    let keep := if addrs.contains c.next then c.next else first
    let w := w.updPath c.path fun p => { p with mask := maskOf (m.filter fun i => pcOf i == keep) }
    (addrs.filter (· != keep)).foldl (fun w a =>
      { w with
        paths := w.paths ++ [{ born := w.nextBorn, mask := maskOf (m.filter fun i => pcOf i == a) }]
        nextBorn := w.nextBorn + 1 }) w

/-- Retire a transfer: `f` changes the strands, those with a target go there and lose latch validity (R39), the others
continue at the fall-through, and the path splits (R54). -/
def Wave.transfer (w : Wave) (c : Issue) (tgt : Nat → Option (BitVec 64)) (f : Nat → Strand → Strand) : Wave :=
  let w := w.updStrands c.mask fun i st => match tgt i with
    | some t => { f i st with pc := t, latN := 0 }
    | none => (f i st).goOn c.next
  let w := w.splitPath c
  let p := (w.path? c.path).getD blankPath
  w.count c.path (if w.pathPc p != c.next then .window else edgeAt c.next)

/-- The target of a relative transfer: T = A + sext(IMM32) (R77). -/
def relTarget (c : Issue) (off : BitVec 32) : BitVec 64 := c.pc + off.signExtend 64

/-- `NOP`: no effect; it retires. -/
def execNop (h : Hd) (s : State) : Out :=
  perform s h [] fun c w _ => s.done c fun _ => w.retire c fun _ st => st

/-- `BRA` (R77). -/
def execBra (h : Hd) (off : BitVec 32) (s : State) : Out :=
  perform s h [] fun c _ e =>
    let t := relTarget c off
    guardTrap (checkTargets e fun _ => t)
      (s.done c fun w => w.transfer c (fun i => if e.getLsbD i then some t else none) fun _ st => st)

/-- `BRX` and `RET` (R78): each enabled strand goes to its own target. -/
def jumpTo (s : State) (c : Issue) (w : Wave) (e : BitVec 32) (a : Src) (f : Wave → Wave) : Ans :=
  guardTrap (checkTargets e fun i => rd64 w i a)
    (s.done c fun w' => f (w'.transfer c (fun i => if e.getLsbD i then some (rd64 w i a) else none) fun _ st => st))

/-- `BRX` (R78). -/
def execBrx (h : Hd) (a : Src) (s : State) : Out :=
  perform s h [a] fun c w e => jumpTo s c w e a id

/-- `RET` (R78): as `BRX`; it also pops the return predictor, which affects timing only. -/
def execRet (h : Hd) (a : Src) (s : State) : Out :=
  perform s h [a] fun c w e =>
    jumpTo s c w e a fun w' => if e == 0 then w' else { w' with rpred := w'.rpred.drop 1 }

/-- `CALL` (R77): the link is the fall-through address. -/
def execCall (h : Hd) (d : Dst) (off : BitVec 32) (s : State) : Out :=
  perform s h [] fun c w e =>
    let t := relTarget c off
    guardTrap (checkTargets e fun _ => t)
      (s.done c fun _ =>
        let link := fun i (st : Strand) =>
          if e.getLsbD i || (d.s && e != 0) then
            (if h.nwb || d.s then st else st.setV64 d.n.toNat c.next).push c.next
          else st.push (keptLatch w h.nwb d true st)
        let w' := (w.transfer c (fun i => if e.getLsbD i then some t else none) link).shiftOut w c.mask h.nwb d true
        let w' := if e == 0 then w' else { w' with rpred := (c.next :: w'.rpred).take 8 }
        if d.s && !h.nwb && e != 0 then w'.setS d.n.toNat c.next else w')

/-- `LOOP` (R77): count down, and branch while the counter is not zero. -/
def execLoop (h : Hd) (d : Dst) (off : BitVec 32) (s : State) : Out :=
  perform s h [] fun c w e =>
    let t := relTarget c off
    guardTrap (checkTargets e fun _ => t)
      (s.done c fun _ =>
        let count := fun i =>
          (if d.s then (w.sreg d.n.toNat).extractLsb' 0 32 else (w.strand i).v32 d.n.toNat) - (1 : BitVec 32)
        let step := fun i (st : Strand) =>
          if e.getLsbD i || (d.s && e != 0) then
            (if d.s then st else st.setV d.n.toNat (count i)).push ((count i).zeroExtend 64)
          else st.push (keptLatch w false d false st)
        let goes := fun i => if e.getLsbD i && count i != 0 then some t else none
        let w' := (w.transfer c goes step).shiftOut w c.mask false d false
        if d.s && e != 0 then w'.setS d.n.toNat ((count 0).zeroExtend 64) else w')

/-! ## Strands -/

/-- The checkpoint record of a forked strand (R70). -/
def childRec (target : BitVec 64) (v0 : BitVec 32) : StrandRec :=
  { start := target, fcount := 0, pred := 1, vvalid := 1, log := [], v := [(0, v0)] }

/-- Make a slot live as a child (R79): its other registers are unchanged and its latches are invalid. -/
def Wave.fork (w : Wave) (j : Nat) (target : BitVec 64) (v0 : BitVec 32) : Wave :=
  let st := { (w.strand j).setV 0 v0 with
    live := true, pc := target, pred := 1, latN := 0, defer := false, fc := 0, ckr := childRec target v0 }
  { w with strands := w.strands.set j st }

/-- `SFORK` for one strand (R79): the wave after it, the result, and the slot it made live. `attempt`: no instruction of an
attempt defers. -/
def Wave.forkOne (w : Wave) (i : Nat) (target : BitVec 64) (v0 : BitVec 32) (attempt : Bool) :
    Wave × BitVec 8 × Option Nat :=
  let st := w.strand i
  let k := st.fc + 1
  let w := { w with strands := w.strands.set i { st with fc := k } }
  if k ≤ st.ckr.fcount then (w, st.ckr.log.getD (k - 1) 0xFF, none)
  else
    let free := (List.range 32).find? fun j => !(w.strand j).live
    let res : BitVec 8 := match free with | none => 0xFF | some j => BitVec.ofNat 8 j
    let w := match free with | none => w | some j => w.fork j target v0
    let st := w.strand i
    let st := if k ≤ 4 then { st with ckr := { st.ckr with log := padTo (k - 1) 0xFF st.ckr.log ++ [res], fcount := k } }
      else if attempt then st else { st with defer := true }
    ({ w with strands := w.strands.set i st }, res, free)

/-- The children of an issue form paths by target, appended in order of their lowest slot (R79). -/
def Wave.addChildren (w : Wave) (kids : List Nat) : Wave :=
  let kids := (List.range 32).filter kids.contains
  let addrs := (kids.map fun j => (w.strand j).pc).foldl (fun l a => if l.contains a then l else l ++ [a]) []
  addrs.foldl (fun w a =>
    { w with
      paths := w.paths ++ [{ born := w.nextBorn, mask := maskOf (kids.filter fun j => (w.strand j).pc == a) }]
      nextBorn := w.nextBorn + 1 }) w

/-- `SFORK` (R79). -/
def execSfork (h : Hd) (d : Dst) (a b : Src) (s : State) : Out :=
  perform s h [a, b] fun c w e =>
    guardTrap (checkTargets e fun i => rd64 w i b)
      (s.done c fun _ =>
        let att := s.inAttempt w
        let r := (slotsOf e).foldl (fun (acc : Wave × Tab (BitVec 8) × List Nat) i =>
          let x := acc.1.forkOne i (rd64 w i b) (rd32 w i a) att
          (x.1, acc.2.1.set i x.2.1, acc.2.2 ++ x.2.2.toList)) (w, [], [])
        let res := fun i => let x := r.2.1.getD i 0xFF
          if x == 0xFF then (0xFFFFFFFF : BitVec 64) else x.zeroExtend 64
        (r.1.retireData c e h.nwb d false false res).addChildren r.2.2)

/-- `SEXIT` (R80): the enabled strands end, and with the last one the wave. -/
def execSexit (h : Hd) (s : State) : Out :=
  perform s h [] fun c w e =>
    let s := s.put c fun w =>
      w.transfer c (fun _ => none) fun i st => if e.getLsbD i then { st with live := false, defer := false } else st
    if (s.waveD c.wave).liveMask == 0 then .next (s.endWaveChecked c.wave) else .next ((s.leaveBars w.wg c.wave e).checkBars w.wg)

/-- `WEXIT` (R80). -/
def execWexit (h : Hd) (s : State) : Out :=
  perform s h [] fun c w e =>
    if e == 0 then s.done c fun _ => w.retire c fun _ st => st
    else .next ((s.put c fun _ => w.count c.path (edgeAfter c.next)).endWaveChecked c.wave)

/-! ## Regions, turns and votes -/

/-- The deferred engine fault that a wave takes at this instruction (R243); the one of an `MMAP` mismatch names its field
(R245). -/
def State.takeDeferred (s : State) (c : Issue) (d : DeferredFault) : State :=
  (s.updWave c.wave fun w => { w with dfault := none }).takeTrap c
    { cause := d.cause, info := if d.cause == .illegalOperand then 0xA else BitVec.ofNat 64 d.cause.code } (.deferred d.pc)

/-- Save a strand's record at an `IDEM` (R81). -/
def Strand.checkpoint (st : Strand) (c : Issue) (vmask : BitVec 16) : Strand :=
  { st with
    fc := 0
    defer := false
    ckr := { start := c.next, fcount := 0, pred := st.pred, vvalid := vmask, log := []
             v := ((List.range 16).filter fun b => vmask.getLsbD b).map fun b => (b, st.v32 b) } }

/-- The wave record at an `IDEM` (R81). -/
def Wave.checkpoint (w : Wave) (smask : BitVec 16) : WaveRec :=
  { icount := w.icount + 1
    mask := w.liveMask
    svalid := w.ck.svalid ||| smask
    fp := (w.fpctl.zeroExtend 16) ||| ((w.fpflags.zeroExtend 16) <<< 4)
    s := w.ck.s.setAll (((List.range 16).filter fun j => smask.getLsbD j).map fun j => (j, w.sreg j)) }

/-- The accumulator slot a wave holds (R237). -/
def State.slotOf (s : State) (w : Wave) (u : Nat) : Option Nat :=
  let e := s.engineD (clusterOf (s.coreOf w))
  if e.hold0 == some u then some 0 else if e.hold1 == some u then some 1 else none

/-- `IDEM` (R81): save the records of the path's strands and of the wave. Inside an attempt it saves nothing and ends no
deferral (R263). -/
def execIdem (vmask smask : BitVec 16) (s : State) : Out :=
  perform s { g := { p := 0, neg := false }, nwb := false } [] fun c w _ =>
    match w.dfault with
    | some d => .next (s.takeDeferred c d)
    | none =>
      if s.inAttempt w then s.done c fun _ => w.retire c fun _ st => st
      else
        let owed := w.owed && ((s.slotOf w c.wave).isSome || w.win != w.win0)
        let all := c.mask == w.liveMask
        s.done c fun _ => { (w.retire c fun _ st => st.checkpoint c vmask) with ck := w.checkpoint smask, owed := owed, ckAll := all }

/-- `YIELD` (R82): ends the path's turn when its guard holds; else it retires and changes nothing. -/
def execYield (h : Hd) (s : State) : Out :=
  perform s h [] fun c w e =>
    s.done c fun _ => if e == 0 then w.retire c fun _ st => st else (w.retireBlock c id).endTurn

/-- The mask of a vote (R83): the enabled strands whose predicate, negated with NEG, is true. -/
def voteMask (w : Wave) (e : BitVec 32) (a : BitVec 3) (neg : Bool) : BitVec 32 :=
  maskOf ((slotsOf e).filter fun i => ((w.strand i).pred.getLsbD a.toNat) != neg)

/-- `VOTE` (R83). A ballot goes to an s register also when no strand is enabled: its mask is then zero. -/
def execVote (h : Hd) (o : VoteOp) (s : State) : Out :=
  match o with
  | .any d a neg => perform s h [] fun c w e =>
    s.done c fun _ => w.retireWith c e fun _ st => st.setP d (voteMask w e a neg != 0)
  | .all d a neg => perform s h [] fun c w e =>
    s.done c fun _ => w.retireWith c e fun _ st => st.setP d (voteMask w e a neg == e)
  | .ballot d a neg => perform s h [] fun c w e =>
    dataNext s c (if d.s then c.mask else e) h d false false fun _ => (voteMask w e a neg).zeroExtend 64
  | .eq d a w64 => perform s h [a] fun c w e =>
    let val := fun i => if w64 then rd64 w i a else (rd32 w i a).zeroExtend 64
    let first := val ((slotsOf e).headD 0)
    s.done c fun _ => w.retireWith c e fun _ st => st.setP d ((slotsOf e).all fun i => val i == first)

/-- `PATHS` (R84): the strands of the issuing path, or the live slots. -/
def execPaths (h : Hd) (d : Dst) (live : Bool) (s : State) : Out :=
  perform s h [] fun c w e =>
    dataNext s c e h d false false fun _ => (if live then w.liveMask else c.mask).zeroExtend 64

end Sys2Proof.Machine
end

