-- ==== Sys2Proof/Machine/Tiles.lean ====
section
/-! DEFINITION. Machine/Tiles.lean: the instructions of the tile class (08_tiles R197 to R208, R214 to R225): handles and
regions, starting copies, batches, transaction barriers and chain tokens. Machine/Copy.lean performs the copies. -/

namespace Sys2Proof

/-- Bytes of an element, in halves (R204). -/
def elemHalves (t : Ty) : Nat := t.bits / 4

/-- Rows and bytes per row of a copy's rectangle (R204). Of a framed conversion WIDTH / epb is rounded down: groups of a lane
beyond the last whole block are not written (log 27). -/
def CopyWord.rect (cw : CopyWord) (x : Machine.Tile) : Nat × Nat :=
  if cw.plane && cw.src == .framed then (x.rows, x.width / (if cw.ety.bits == 4 then 96 else if cw.ety.bits == 16 then 24 else 48) * 64)
  else if cw.plane && cw.kc then (x.width, x.rows * elemHalves cw.ety / 2)
  else if cw.plane then (x.rows, x.width * elemHalves cw.ety / 2)
  else (x.rows, x.width)

/-- Transfer size Z (R204). -/
def CopyWord.size (cw : CopyWord) (x : Machine.Tile) : Nat := (cw.rect x).1 * (cw.rect x).2

/-- The control word with bits 19:10 from a block's CTL; none where SRC is the reserved code. -/
def CopyWord.withCtl (cw : CopyWord) (ctl : Nat) : Option CopyWord :=
  let src : Option CopySrc := match Machine.field ctl 8 2 with
    | 0 => some .elems
    | 1 => some .framed
    | 2 => some .stream
    | _ => none
  let t := Ty.ofCode (Machine.field ctl 3 5)
  match src with
  | some x =>
    if t.code != Machine.field ctl 3 5 then none
    else some { cw with plane := ctl.testBit 0, kc := ctl.testBit 1, fill := ctl.testBit 2, ety := t, src := x }
  | none => none

end Sys2Proof

namespace Sys2Proof.Machine

/-! ## Frames -/

/-- Retire without a result. -/
def plainNext (s : State) (c : Issue) : Ans := .next (s.put c fun w => w.retire c fun _ st => st)

/-- Retire without a result; the path's strands defer (R226). -/
def deferNext (s : State) (c : Issue) : Ans := .next (s.put c fun w => s.deferIn (w.retire c fun _ st => st) c.mask)

/-- An instruction of the class without a result acts when its guard holds somewhere in the path (R218). -/
def tileOp (s : State) (h : Hd) (pre : Bool) (k : Issue → Wave → BitVec 32 → Ans) : Out :=
  perform s h [] fun c w e => if e == 0 then plainNext s c else guardTrap (s.txTrap w pre true) (k c w e)

/-- The same for an instruction with an optional 64-bit result. -/
def tileData (s : State) (h : Hd) (d : Option Dst) (w64 pre : Bool) (k : Issue → Wave → BitVec 32 → Ans) : Out :=
  perform s h [] fun c w e =>
    if e == 0 then match d with
      | some d => dataNext s c e h d w64 false fun _ => 0
      | none => plainNext s c
    else guardTrap (s.txTrap w pre true) (k c w e)

/-- Retire with an optional result. -/
def optNext (s : State) (c : Issue) (e : BitVec 32) (h : Hd) (d : Option Dst) (w64 : Bool) (x : BitVec 64) : Ans :=
  match d with
  | some d => dataNext s c e h d w64 false fun _ => x
  | none => plainNext s c

/-! ## Handles -/

/-- The tile of a handle. -/
def State.tileOf (s : State) (g h : Nat) : Option (Nat × Tile) :=
  match (s.wgD g).handles.get? h with
  | none => none
  | some t => (s.tiles.get? t).map fun x => (t, x)

/-- Use the tile of a handle; an unbound one traps TILE_UNDECLARED (R199). -/
def withTile (s : State) (g : Nat) (h : BitVec 5) (k : Nat → Tile → Ans) : Ans :=
  match s.tileOf g h.toNat with
  | none => .trap (trapOf .tileUndeclared)
  | some (t, x) => k t x

/-- COPY_ERROR of a tile (R201). -/
def copyError (x : Tile) (h : BitVec 5) : Trap :=
  { cause := .copyError, addr := x.eaddr
    info := BitVec.ofNat 64 (x.cause.toNat + x.esub.toNat * 2 ^ 8 + h.toNat * 2 ^ 12) }

/-- The tile can be read: it is ready; a tile in error traps, any other state stalls (R199). -/
def readable (x : Tile) (h : BitVec 5) (k : Ans) : Ans :=
  if x.err then .trap (copyError x h) else if x.st == .ready then k else .wait false

/-- The tile can be written: no fill, store or reader is in progress (R199). -/
def Tile.writable (x : Tile) : Bool := (x.st == .ready || x.st == .empty) && x.refs == 0

/-- A handle of a shared tile, which no instruction of a sibling may write (R353). -/
def State.sharedHandle (s : State) (g : Nat) (h : BitVec 5) : Bool := (s.wgD g).shared.getLsbD h.toNat

/-- Entries of a cluster's tile table in use (R197: 512 entries). -/
def State.tilesIn (s : State) (cluster : Nat) : Nat := (s.tiles.filter fun e => e.2.cluster == cluster && !e.2.away).length

/-- Code of STATE in `TSTAT` (R221). -/
def TileSt.code : TileSt → Nat
  | .empty => 0 | .filling => 1 | .ready => 2 | .draining => 3

/-- The word of `TSTAT` (R221). -/
def Tile.status (x : Tile) : BitVec 64 :=
  BitVec.ofNat 64 (x.st.code + x.err.toNat * 2 ^ 2 + x.planar.toNat * 2 ^ 3 + 2 ^ 4 + x.vers.toNat * 2 ^ 5 +
    x.cause.toNat * 2 ^ 8 + x.rows * 2 ^ 16 + x.width * 2 ^ 28)

/-- `TDECL` (R220, R212). -/
def execTdecl (h : Hd) (t : BitVec 5) (base pitch : BitVec 6) (rows rowbytes : BitVec 20) (mode : RegionMode) (s : State) :
    Out :=
  tileOp s h true fun c w _ =>
    let p := (w.sreg pitch.toNat).toInt
    let open_ := (s.wgD (s.txHome w.wg)).tx.st
    if 1 < rows.toNat && p < (rowbytes.toNat : Int) then .trap (badField .sc)
    else if mode != .read && open_ != .none && open_ != .done then .trap (trapOf .txUndeclaredStore)
    else
      let r : Region := { base := w.sreg base.toNat, rows := rows.toNat, rowBytes := rowbytes.toNat, pitch := p, mode := mode }
      plainNext (s.updWg w.wg fun g => { g with regions := g.regions.set t.toNat r }) c

/-- `TBIND` (R220). -/
def execTbind (h : Hd) (d : Dst) (t : BitVec 5) (planar : Bool) (rows : BitVec 12) (width : BitVec 16) (s : State) : Out :=
  tileData s h (some d) false true fun c w e =>
    let s := s.unbind w.wg t.toNat
    let cl := clusterOf (s.coreOf w)
    if 512 ≤ s.tilesIn cl then dataNext s c e h d false false fun _ => 0
    else
      let (k, s) := s.newUid
      let x : Tile := { cluster := cl, ctx := s.ctxOf w.wg, planar := planar, rows := rows.toNat, width := width.toNat }
      let s := { s with tiles := s.tiles.set k x }
      let s := s.updWg w.wg fun g => { g with handles := g.handles.set t.toNat k }
      dataNext s c e h d false false fun _ => 1

/-- `TWAIT` (R221); a deferred engine fault is taken first (R243). -/
def execTwait (h : Hd) (t : BitVec 5) (s : State) : Out :=
  perform s h [] fun c w e =>
    let go := Ans.next (s.put c fun w => w.retireBlock c id)
    if e == 0 then go
    else guardTrap (s.txTrap w false true)
      (match w.dfault with
      | some d => .next (s.takeDeferred c d)
      | none => withTile s w.wg t fun _ x =>
        if x.st == .filling || x.st == .draining then .wait true
        else if x.err then .trap (copyError x t)
        else go)

/-- `TSTAT` (R221). -/
def execTstat (h : Hd) (d : Dst) (t : BitVec 5) (s : State) : Out :=
  tileData s h (some d) true true fun c w e =>
    dataNext s c e h d true false fun _ => match s.tileOf w.wg t.toNat with
      | none => 0
      | some (_, x) => x.status

/-- `TREL` (R221). -/
def execTrel (h : Hd) (t : BitVec 5) (s : State) : Out :=
  tileOp s h false fun c w _ => withTile s w.wg t fun _ _ => plainNext (s.unbind w.wg t.toNat) c

/-! ## Transaction barriers (R215, R224) -/

/-- Use an initialised transaction barrier; another one traps QUEUE_MISUSE (R215). -/
def withBar (s : State) (g : Nat) (b : BitVec 4) (k : TxBar → Ans) : Ans :=
  match (s.wgD g).tbars.get? b.toNat with
  | none => .trap (trapOf .queueMisuse)
  | some x => k x

/-- Set a transaction barrier, and complete its phase when its condition holds (R215). -/
def State.setBar (s : State) (g : Nat) (b : BitVec 4) (x : TxBar) : State :=
  s.updWg g fun w => { w with tbars := w.tbars.set b.toNat x.test }

/-- The arrival of a wave (R224): none when it does not take part or has arrived. -/
def TxBar.arrive (x : TxBar) (i : Nat) : Option TxBar :=
  if x.part.getLsbD i && !x.arrived.getLsbD i then some { x with arrived := x.arrived ||| slotBit i } else none

/-- `BINIT` (R224). -/
def execBinit (h : Hd) (b : BitVec 4) (gen : Src) (part : BitVec 32) (s : State) : Out :=
  tileOp s h false fun c w _ =>
    let n := (s.wgD w.wg).waves.length
    if part.toNat / 2 ^ n != 0 then .trap (trapOf .queueMisuse)
    else
      let x : TxBar := { gen := rd32 w 0 gen, part := part, arrived := 0, bytes := 0 }
      deferNext (s.updWg w.wg fun g => { g with tbars := g.tbars.set b.toNat x }) c

/-- `BEXPECT` (R224). -/
def execBexpect (h : Hd) (b : BitVec 4) (n : Src) (nb : BitVec 32) (arr : Bool) (s : State) : Out :=
  tileOp s h false fun c w _ => withBar s w.wg b fun x =>
    let x := { x with bytes := x.bytes + (rd32 w 0 n + nb) }
    match if arr then x.arrive w.idx else some x with
    | none => trapAfter (s.setBar w.wg b x) c (trapOf .queueMisuse)
    | some x => if arr && s.posted c.wave 0xFFFFFFFF then .wait false else deferNext (s.setBar w.wg b x) c

/-- `BARRIVE` (R224). -/
def execBarrive (h : Hd) (d : Option Dst) (b : BitVec 4) (s : State) : Out :=
  tileData s h d false false fun c w e => withBar s w.wg b fun x =>
    match x.arrive w.idx with
    | none => .trap (trapOf .queueMisuse)
    | some y =>
      if s.posted c.wave 0xFFFFFFFF then .wait false
      else
        let s := (s.setBar w.wg b y).put c fun w => s.deferIn w c.mask
        optNext s c e h d false (x.gen.zeroExtend 64)

/-- `BWAIT` (R224): in the blocking set. -/
def execBwait (h : Hd) (b : BitVec 4) (gen : Src) (s : State) : Out :=
  perform s h [] fun c w e =>
    let go := Ans.next (s.put c fun w => w.retireBlock c id)
    if e == 0 then go
    else guardTrap (s.txTrap w false true) (withBar s w.wg b fun x =>
      if 0 < (x.gen - rd32 w 0 gen).toInt then go else .wait true)

/-! ## Chain tokens (R217, R225) -/

/-- A consumer of token `k` of the wave that is older than `seq` still waits (R217: consumers are served in issue order). -/
def State.olderConsumer (s : State) (u k seq : Nat) : Bool :=
  s.copies.any (fun e => e.2.wave == u && e.2.token && e.2.cw.wtok.toNat == k && e.1 < seq) ||
  s.entries.any (fun e => e.2.wave == u && e.2.token && e.2.ch.wtok.toNat == k && e.1 < seq) ||
  (s.waveD u).kwaits.any fun x => x.2.1 == k && x.2.2 < seq

/-- Signals of token `k`. -/
def Wave.tok (w : Wave) (k : Nat) : Nat := w.toks.getD k 0

/-- Signal token `k` from a completing copy or command: the count stays at 255 (R217). -/
def Wave.signal (w : Wave) (k : Nat) : Wave := { w with toks := w.toks.set k (min 255 (w.tok k + 1)) }

/-- Consume a signal of token `k`. -/
def Wave.consume (w : Wave) (k : Nat) : Wave := { w with toks := w.toks.set k (w.tok k - 1) }

/-- `KSIG` (R225). -/
def execKsig (h : Hd) (k : BitVec 3) (s : State) : Out :=
  tileOp s h false fun c w _ =>
    if w.tok k.toNat == 255 then .trap (trapOf .queueMisuse) else deferNext (s.put c fun w => w.signal k.toNat) c

/-- `KWAIT` (R225), in the blocking set; a deferred engine fault is taken first (R243). -/
def execKwait (h : Hd) (k : BitVec 3) (s : State) : Out :=
  perform s h [] fun c w e =>
    if e == 0 then .next (s.put c fun w => w.retireBlock c id)
    else guardTrap (s.txTrap w false true)
      (match w.dfault with
      | some d => .next (s.takeDeferred c d)
      | none =>
        let seq := ((w.kwaits.find? fun x => x.1 == c.path).map (·.2.2)).getD s.fresh
        if 0 < w.tok k.toNat && !s.olderConsumer c.wave k.toNat seq then
          .next (s.put c fun w =>
            let w := (w.retireBlock c id).consume k.toNat
            s.deferIn { w with kwaits := w.kwaits.filter fun x => x.1 != c.path } c.mask)
        else if w.kwaits.any fun x => x.1 == c.path then .wait true
        else
          let (n, s) := s.newUid
          let s := s.put c fun w => { w with kwaits := w.kwaits ++ [(c.path, k.toNat, n)] }
          .next (s.waitAt c true))

/-! ## Batches (R214) -/

/-- Finished batches go, in the order of their numbers. -/
def Wave.prune (w : Wave) : Wave := { w with sealedB := w.sealedB.dropWhile fun b => b.2.isEmpty }

/-- A copy of the wave has completed. -/
def Wave.copyDone (w : Wave) (k : Nat) : Wave :=
  { w with
    openB := w.openB.filter (· != k)
    sealedB := w.sealedB.map fun (b : BitVec 32 × List Nat) => (b.1, b.2.filter (· != k)) }.prune

/-- `CSEAL` (R214, R223). -/
def execCseal (h : Hd) (d : Option Dst) (s : State) : Out :=
  tileData s h d false false fun c w e =>
    if 16 ≤ w.sealedB.length then .wait false
    else
      let s := s.put c fun w => { w with sealedB := w.sealedB ++ [(w.nextB, w.openB)], openB := [], nextB := w.nextB + 1 }.prune
      optNext s c e h d false (w.nextB.zeroExtend 64)

/-- `CWAIT`, count form (R214). -/
def execCwait (h : Hd) (a : Src) (s : State) : Out :=
  perform s h [] fun c w e =>
    let go := Ans.next (s.put c fun w => w.retireBlock c id)
    if e == 0 then go
    else guardTrap (s.txTrap w false true) (if w.sealedB.length ≤ (rd32 w 0 a).toNat then go else .wait true)

/-- `CWAIT.to`, number form (R214). -/
def execCwaitTo (h : Hd) (a : Src) (s : State) : Out :=
  perform s h [] fun c w e =>
    let go := Ans.next (s.put c fun w => w.retireBlock c id)
    let n := rd32 w 0 a
    let first := match w.sealedB with | [] => w.nextB | b :: _ => b.1
    if e == 0 then go
    else guardTrap (s.txTrap w false true)
      (if 0 ≤ (n - w.nextB).toInt then .trap (trapOf .queueMisuse)
      else if 0 < (first - n).toInt then go
      else .wait true)

/-! ## Starting copies (R203 to R208, R222) -/

/-- Geometry of the region form (R205). -/
def Region.geometry (r : Region) (origin : BitVec 64) : Geometry :=
  let row0 : Nat := origin.toNat % 2 ^ 32
  let byte0 : Nat := origin.toNat / 2 ^ 32
  { base := r.base + BitVec.ofInt 64 ((row0 : Int) * r.pitch) + BitVec.ofNat 64 byte0, pitch := r.pitch
    vrows := (r.rows : Int) - (row0 : Int), vbytes := (r.rowBytes : Int) - (byte0 : Int) }

/-- Address of rectangle byte (r, 0). -/
def Geometry.row (g : Geometry) (r : Nat) : BitVec 64 := g.base + BitVec.ofInt 64 ((r : Int) * g.pitch)

/-- The valid part of a rectangle of the given shape: rows and bytes per row. -/
def Geometry.valid (g : Geometry) (rect : Nat × Nat) : Nat × Nat := (min rect.1 g.vrows.toNat, min rect.2 g.vbytes.toNat)

/-- A parameter block's bytes (R207): geometry, control word bits 19:10, and whether its reserved bits are zero. -/
def blockFields (b : List (BitVec 8)) : Geometry × Nat × Bool :=
  let n := fun (o k : Nat) => ofBytes ((b.drop o).take k)
  ({ base := BitVec.ofNat 64 (n 4 8), pitch := signedOf 32 (n 12 4), vrows := Int.ofNat (n 16 4), vbytes := Int.ofNat (n 20 4) },
   n 24 2, n 24 2 / 1024 == 0 && n 26 6 == 0)

/-- Read a parameter block through the engine's cache of 16 blocks (R208). -/
def State.readBlock (s : State) (w : Wave) (va : BitVec 64) (pa : Nat) : List (BitVec 8) × State :=
  let cl := clusterOf (s.coreOf w)
  let asid := s.asidOf (s.ctxOf w.wg)
  let rd := fun n => s.seen w.wg va (s.readBytes (dieOfCluster cl) pa n) s.free
  let gen := BitVec.ofNat 32 (ofBytes (rd 4))
  let mine := fun (x : CachedBlock) => x.cluster == cl && x.asid == asid && x.addr == va
  match s.blocks.find? fun x => mine x && x.gen == gen with
  | some x => (x.bytes, s)
  | none =>
    let bs := rd 32
    let x : CachedBlock := { cluster := cl, asid := asid, addr := va, gen := BitVec.ofNat 32 (ofBytes (bs.take 4)), bytes := bs }
    let here := (s.blocks.filter fun y => y.cluster == cl && !mine y) ++ [x]
    (bs, { s.drew 32 with blocks := (s.blocks.filter fun y => y.cluster != cl) ++ here.drop (here.length - 16) })

/-- What a copy is to do, once its region or block has been looked up: the geometry, the control word, and what is wrong
with the block. -/
structure CopyPlan where
  geo : Geometry
  cw  : CopyWord
  bad : Option (Nat × BitVec 64) := none
  deriving DecidableEq, Repr

/-- The plan of a `TCOPY` or `TSTORE` (R205 to R208). A parameter block that cannot be read is reported with SLOT 0: the
instruction acts for the wave (log 27). -/
def State.planCopy (s : State) (w : Wave) (h : BitVec 5) (x : Src) (cw : CopyWord) (store : Bool) :
    Except Trap (CopyPlan × State) :=
  let v := rd64 w 0 x
  if cw.blk then
    match s.checkAt { s.whoCp (s.ctxOf w.wg) (clusterOf (s.coreOf w)) w.priv with core := some (s.coreOf w) } .load 32 v with
    | .error f => .error (fltTrap f v 0 0)
    | .ok pa =>
      let (bs, s') := s.readBlock w v pa
      let (geo, ctl, clean) := blockFields bs
      if s.poisoned pa 32 then .ok ({ geo := geo, cw := cw, bad := some (0x13, v) }, s)
      else match cw.withCtl ctl with
        | some cw' =>
          let fine := clean && cw'.kindOk (!store) && !(store && (cw'.plane || cw'.fill))
          .ok ({ geo := geo, cw := cw', bad := if fine then none else some (0x02, 0) }, s')
        | none => .ok ({ geo := geo, cw := cw, bad := some (0x02, 0) }, s')
  else
    match (s.wgD w.wg).regions.get? h.toNat with
    | none => .error (trapOf .tileUndeclared)
    | some r =>
      if if store then r.mode == .read else r.mode == .write then .error (trapOf .tileUndeclared)
      else .ok ({ geo := r.geometry v, cw := cw }, s)

/-- Copies of a wave in flight (R211). -/
def State.copiesOf (s : State) (u : Nat) : Nat := (s.copies.filter fun e => e.2.wave == u).length

/-- Add a copy: it joins the wave's open batch, and it defers when it has BEN, WEN or SEN (R226). -/
def State.addCopy (s : State) (c : Issue) (x : Copy) : Ans :=
  let (k, s) := s.newUid
  let s := { s with copies := s.copies.set k x }
  let s := s.put c fun w => { w with openB := w.openB ++ [k] }
  if x.cw.ben || x.cw.wen || x.cw.sen then deferNext s c else plainNext s c

/-- The record of a copy that issues. -/
def State.mkCopy (s : State) (c : Issue) (w : Wave) (kind : CopyKind) (b : BitVec 4) (t : Nat) (p : CopyPlan) : Copy :=
  let cx := s.ctxOf w.wg
  { wave := c.wave, wg := w.wg, ctx := cx, cluster := clusterOf (s.coreOf w), kind := kind, cw := p.cw, tile := t,
    geo := p.geo, bad := p.bad, bar := b.toNat, priv := w.priv, fmtchk := (s.ctxD cx).fmtchk.getLsbD 0, token := p.cw.wen,
    started := !p.cw.wen, seq := w.icount.toNat, inTx := s.inAttempt w }

/-- A barrier named by BEN must be initialised (R215). -/
def State.benOk (s : State) (g : Nat) (cw : CopyWord) (b : BitVec 4) : Bool :=
  !cw.ben || ((s.wgD g).tbars.get? b.toNat).isSome

/-- The fill of a tile begins (R198, R222). -/
def State.beginFill (s : State) (t : Nat) : State :=
  s.updTile t fun x => { x with st := .filling, err := false, cause := 0, eaddr := 0, esub := 0 }

/-- `TCOPY` (R222). -/
def execTcopy (h : Hd) (t : BitVec 5) (a : BitVec 6) (b : BitVec 4) (cw : CopyWord) (s : State) : Out :=
  tileOp s h false fun c w _ => withTile s w.wg t fun k x =>
    if s.sharedHandle w.wg t then .trap (trapOf .tileUndeclared)
    else if !cw.blk && x.planar != cw.plane then .trap (trapOf .tileFormat)
    else andThen (s.planCopy w t (.s (a.zeroExtend 8)) cw false) fun (p, s') =>
      if p.bad.isNone && x.planar != p.cw.plane then .trap (trapOf .tileFormat)
      else if !s.benOk w.wg cw b then .trap (trapOf .queueMisuse)
      else if !x.writable || 64 ≤ s.copiesOf c.wave then .wait false
      else (s'.beginFill k).addCopy c (s.mkCopy c w .load b k p)

/-- The valid part of a store's rectangle lies in the declared write regions (R212). -/
def State.storeDeclared (s : State) (w : Wave) (x : Tile) (p : CopyPlan) : Bool :=
  let v := p.geo.valid (p.cw.rect x)
  (List.range v.1).all fun r => s.declared w (p.geo.row r) v.2

/-- `TSTORE` (R222). -/
def execTstore (h : Hd) (t : BitVec 5) (a : BitVec 6) (b : BitVec 4) (cw : CopyWord) (s : State) : Out :=
  tileOp s h false fun c w _ => withTile s w.wg t fun k x =>
    if !cw.blk && x.planar then .trap (trapOf .tileFormat)
    else andThen (s.planCopy w t (.s (a.zeroExtend 8)) cw true) fun (p, s') =>
      if p.bad.isNone && x.planar then .trap (trapOf .tileFormat)
      else if !s.benOk w.wg cw b then .trap (trapOf .queueMisuse)
      else if !cw.blk && s.inAttempt w && !s.storeDeclared w x p then .trap (trapOf .txUndeclaredStore)
      else readable x t
        (if 64 ≤ s.copiesOf c.wave then .wait false
        else (s'.updTile k fun x => { x with st := .draining }).addCopy c (s.mkCopy c w .store b k p))

/-- `TPLANE` (R222). -/
def execTplane (h : Hd) (t ts : BitVec 5) (b : BitVec 4) (cw : CopyWord) (s : State) : Out :=
  tileOp s h false fun c w _ => withTile s w.wg t fun k x => withTile s w.wg ts fun j y =>
    let need := cw.rect x
    if s.sharedHandle w.wg t then .trap (trapOf .tileUndeclared)
    else if !s.benOk w.wg cw b then .trap (trapOf .queueMisuse)
    else readable y ts
      (if !x.writable then .wait false
      else if y.planar || !x.planar || !cw.plane || y.rows < need.1 || y.width < need.2 then .trap (trapOf .tileFormat)
      else if 64 ≤ s.copiesOf c.wave then .wait false
      else
        let p : CopyPlan := { geo := { base := 0, pitch := y.width, vrows := y.rows, vbytes := y.width }, cw := cw }
        ((s.beginFill k).addRef j).addCopy c (s.mkCopy c w (.plane j) b k p))

end Sys2Proof.Machine
end

