-- ==== Sys2Proof/Machine/Copy.lean ====
section
/-! DEFINITION. Machine/Copy.lean: performing copies (08_tiles R204, R205, R209 to R213, R215 to R217): planar conversion,
decompression, and the events `COPY_START` and `COPY_COMPLETE`. -/

namespace Sys2Proof.Machine

/-! ## Planar conversion (R209) -/

/-- Exponent of the leading bit of a finite nonzero value. -/
def FVal.top : FVal → Option Int
  | .fin _ n e => if n = 0 then none else some ((log2 n : Int) + e)
  | _ => none

/-- The larger of two optional exponents. -/
def maxTop (a b : Option Int) : Option Int :=
  match a, b with
  | none, b => b
  | a, none => a
  | some x, some y => some (max x y)

/-- The mantissa of an element under a shared exponent (R209). -/
def mantissa (e : Int) (x : FVal) : Int :=
  match x with
  | .fin neg n ex =>
    let r := (roundAt .near neg n ex false (e - 23)).1
    if neg then -(r : Int) else min (r : Int) (2 ^ 23 - 1)
  | _ => 0

/-- The record of a group of 24 exact values (R209). -/
def recordOf (xs : List FVal) : Rec :=
  if xs.any fun x => x.isNan || x.isInf then { nonfinite := true }
  else match xs.foldl (fun t x => maxTop t x.top) none with
    | none => { zero := true }
    | some t => { e := t + 1, m := xs.map (mantissa (t + 1)) }

/-- Cut a list into pieces of `k`. -/
def chunks {α : Type} (k : Nat) (l : List α) : Nat → List (List α)
  | 0 => []
  | n + 1 => l.take k :: chunks k (l.drop k) n

/-- The records of a lane from its elements. -/
def laneRecords (xs : List FVal) : List Rec := (chunks 24 xs (xs.length / 24)).map recordOf

/-- The exact value of an element code; integers stand for themselves (R209). -/
def elemValue (t : Ty) (c : Nat) : FVal :=
  match t with
  | .i8 => FVal.ofInt (signedOf 8 c)
  | .i4 => FVal.ofInt (signedOf 4 c)
  | t => readTy t false c

/-- The element codes of a row of bytes: 4-bit codes low nibble first. -/
def rowCodes (t : Ty) (bs : List (BitVec 8)) : List Nat :=
  match t.bits with
  | 4 => bs.flatMap fun b => [b.toNat % 16, b.toNat / 16]
  | n => (chunks (n / 8) bs (bs.length / (n / 8))).map ofBytes

/-- Rows of a planar tile, as its table of records. -/
def recTable (lanes : List (List Rec)) : Tab Rec :=
  ((List.range lanes.length).zip lanes).flatMap fun l =>
    ((List.range l.2.length).zip l.2).map fun g => (l.1 * 64 + g.1, g.2)

/-- Bytes as a table from offset 0. -/
def byteTable (bs : List (BitVec 8)) : Tab (BitVec 8) := (List.range bs.length).zip bs

/-! ## Reading the source -/

/-- How a copy fails (R201): cause, subcode, address; and the units of a compressed stream before the failing one (R210). -/
structure CpErr where
  cause : Nat
  sub   : Nat := 0
  addr  : BitVec 64 := 0
  units : Nat := 0
  deriving DecidableEq, Repr

/-- Read a range on CP, a piece of an aligned 32-byte sector at a time, as the issuing workgroup sees it (R211, R212, R161). -/
def State.cpRead (s : State) (a : Who) (g : Nat) : Nat → BitVec 64 → Nat → Except CpErr (List (BitVec 8))
  | 0, _, _ => .ok []
  | fuel + 1, va, n =>
    if n = 0 then .ok []
    else
      let k := min n (32 - va.toNat % 32)
      match s.translate a .load va with
      | .error f => .error { cause := f.cause.code, sub := f.sub, addr := va }
      | .ok pa =>
        if s.poisoned pa k then .error { cause := 0x13, addr := va }
        else match s.cpRead a g fuel (va + BitVec.ofNat 64 k) (n - k) with
          | .error e => .error e
          | .ok r => .ok (s.seen g va (s.readBytes a.die pa k) s.free ++ r)

/-- The first address of a range in a poisoned sector (R161). -/
def State.poisonIn (s : State) (a : Who) : Nat → BitVec 64 → Nat → Option (BitVec 64)
  | 0, _, _ => none
  | fuel + 1, va, n =>
    if n = 0 then none
    else
      let k := min n (32 - va.toNat % 32)
      match s.translate a .load va with
      | .error _ => none
      | .ok pa => if s.poisoned pa k then some va else s.poisonIn a fuel (va + BitVec.ofNat 64 k) (n - k)

/-- Bytes of a table from an offset on, once lower ones are gone; an unlisted byte is a free value. -/
def dense (f : Nat) : Nat → Nat → Tab (BitVec 8) → List (BitVec 8)
  | 0, _, _ => []
  | n + 1, k, (j, b) :: r =>
    if j = k then b :: dense f n (k + 1) r else (Config.freeWord (f + k)).extractLsb' 0 8 :: dense f n (k + 1) ((j, b) :: r)
  | n + 1, k, [] => (Config.freeWord (f + k)).extractLsb' 0 8 :: dense f n (k + 1) []

/-- `n` bytes of a plain tile from an offset. -/
def Tile.read (x : Tile) (off n f : Nat) : List (BitVec 8) := dense f n off (x.bytes.dropWhile fun e => e.1 < off)

/-- Read valid bytes of a rectangle row: from memory, or from the source tile of a `TPLANE`. -/
def State.sourceRow (s : State) (a : Who) (x : Copy) (r n : Nat) : Except CpErr (List (BitVec 8)) :=
  match x.kind with
  | .plane src => .ok ((s.tileD src).read (r * (s.tileD src).width) n s.free)
  | _ => s.cpRead a x.wg (n + 1) (x.geo.row r) n

/-- Carry on through a list with a step that may fail. -/
def allOk {α β : Type} (f : α → Except CpErr β) : List α → Except CpErr (List β)
  | [] => .ok []
  | a :: l => match f a with
    | .error e => .error e
    | .ok b => match allOk f l with
      | .error e => .error e
      | .ok bs => .ok (b :: bs)

/-- Alignment of a memory source (R211): elements to their size, framed blocks to 64 bytes. -/
def Copy.align (x : Copy) : Nat :=
  match x.kind with
  | .plane _ => 1
  | _ => if !x.cw.plane then 1 else if x.cw.src == .framed then 64 else max 1 (x.cw.ety.bits / 8)

/-- The byte of clipped fill (R203). -/
def fillByte (cw : CopyWord) : BitVec 8 := if cw.fill then 0xFF else 0

/-- A whole rectangle row: its valid whole elements, then the fill pattern (R205). -/
def State.rectRow (s : State) (a : Who) (x : Copy) (rect : Nat × Nat) (r : Nat) : Except CpErr (List (BitVec 8)) :=
  let v := x.geo.valid rect
  let n := if r < v.1 then v.2 / x.align * x.align else 0
  if 0 < n && (x.geo.row r).toNat % x.align != 0 then .error { cause := 0x05, addr := x.geo.row r }
  else match s.sourceRow a x r n with
    | .error e => .error e
    | .ok bs => .ok (padTo rect.2 (fillByte x.cw) bs)

/-- The value of a clipped element in a conversion (R205): 0, or a NaN with FILL. -/
def clippedValue (cw : CopyWord) : FVal := if cw.fill then FVal.nan false else FVal.fin false 0 0

/-- The records of one framed row (R205, R209): clipped blocks take the fill pattern, the others pass the checks of R126. -/
def framedLane (x : Copy) (valid : Nat) (bs : List (BitVec 8)) (blocks : Nat) : Except CpErr (List FVal) :=
  let t := x.cw.ety
  match allOk (fun (j : Nat) =>
      if valid ≤ j then
        .ok (List.replicate (blockElems t) (clippedValue x.cw))
      else
        let b := ((bs.drop (64 * j)).take 64).map (·.toNat)
        match checkBlock t x.fmtchk b with
        | .error c => .error { cause := c.code }
        | .ok sh => .ok ((List.range (blockElems t)).map (blockValue t sh b))) (List.range blocks) with
  | .error e => .error e
  | .ok l => .ok (l.flatMap id)

/-- The lanes of a conversion (R204, R209). -/
def State.convert (s : State) (a : Who) (x : Copy) (rect : Nat × Nat) (rows : Nat) : Except CpErr (List (List Rec)) :=
  let t := x.cw.ety
  if x.cw.src == .framed then
    allOk (fun r => match s.rectRow a x rect r with
      | .error e => .error e
      | .ok bs =>
        let v := x.geo.valid rect
        match framedLane x (if r < v.1 then v.2 / 64 else 0) bs (rect.2 / 64) with
        | .error e => .error e
        | .ok l => .ok (laneRecords l)) (List.range rows)
  else match allOk (fun r => s.rectRow a x rect r) (List.range rect.1) with
    | .error e => .error e
    | .ok l =>
      let v := x.geo.valid rect
      let vals := ((List.range rect.1).zip l).map fun r =>
        let whole := if r.1 < v.1 then v.2 / x.align * x.align * 8 / t.bits else 0
        let cs := rowCodes t r.2
        ((List.range cs.length).zip cs).map fun e => if e.1 < whole then elemValue t e.2 else clippedValue x.cw
      if x.cw.kc then .ok ((List.range rows).map fun j => laneRecords (vals.map fun v => v.getD j (FVal.fin false 0 0)))
      else .ok (vals.map laneRecords)

/-! ## Decompression (R210) -/

/-- The words of a bitmap unit. -/
def bitmapWords (map : Nat) (words : List (BitVec 8)) : Nat → Nat → List (BitVec 8)
  | 0, _ => []
  | n + 1, k =>
    if map.testBit k then padTo 4 0 (words.take 4) ++ bitmapWords map (words.drop 4) n (k + 1)
    else [0, 0, 0, 0] ++ bitmapWords map words n (k + 1)

/-- The bytes of a unit from its payload. -/
def expand (method : Nat) (p : List (BitVec 8)) : List (BitVec 8) :=
  match method with
  | 0 => p
  | 1 => bitmapWords (ofBytes (p.take 8)) (p.drop 8) 64 0
  | _ => (List.replicate 64 p).flatMap id

/-- The LEN that a method requires (R210), given the first 8 bytes of the payload where it needs them. -/
def requiredLen (method : Nat) (map : Nat) : Nat :=
  match method with
  | 0 => 256
  | 1 => 8 + 4 * popcount map
  | _ => 4

/-- The bitmap of a unit's payload, which its LEN is compared with; it is read where LEN holds one. -/
def State.unitMap (s : State) (a : Who) (g method len : Nat) (va : BitVec 64) : Except CpErr Nat :=
  if method != 1 then .ok 0
  else if len < 8 then .error { cause := 0x27 }
  else match s.cpRead a g 8 va 8 with
    | .error e => .error e
    | .ok b => .ok (ofBytes b)

/-- Expand the unit at an address (R210): its bytes, and where the next one begins. The payload is read once LEN is the required
one. -/
def State.expandUnit (s : State) (a : Who) (g : Nat) (va : BitVec 64) : Except CpErr (List (BitVec 8) × BitVec 64) :=
  match s.cpRead a g 8 va 4 with
  | .error e => .error e
  | .ok hb =>
    let hd := ofBytes hb
    let len := field hd 4 9
    if field hd 13 19 != 0 || 3 ≤ hd % 16 then .error { cause := 0x27 }
    else match s.unitMap a g (hd % 16) len (va + 4) with
      | .error e => .error e
      | .ok map =>
        if len != requiredLen (hd % 16) map then .error { cause := 0x27 }
        else match s.cpRead a g 600 (va + 4) len with
          | .error e => .error e
          | .ok p => .ok (expand (hd % 16) p, va + BitVec.ofNat 64 (4 + len))

/-- Expand `n` units from an address on; `u`: those before it. -/
def State.expandAll (s : State) (a : Who) (g : Nat) : Nat → Nat → BitVec 64 → Except CpErr (List (BitVec 8))
  | 0, _, _ => .ok []
  | n + 1, u, va => match s.expandUnit a g va with
    | .error e => .error { e with units := u }
    | .ok (bs, next) => match s.expandAll a g n (u + 1) next with
      | .error e => .error e
      | .ok r => .ok (bs ++ r)

/-! ## Filling and storing -/

/-- What a fill leaves in its tile: bytes, or records. A source tile that has lost data gives none (R161). -/
def State.fillData (s : State) (x : Copy) (t : Tile) : Except CpErr (Tab (BitVec 8) × Tab Rec) :=
  let a := s.whoCp x.ctx x.cluster x.priv
  let rect := x.cw.rect t
  if (match x.kind with | .plane src => (s.tileD src).err | _ => false) then .error { cause := 0x13 }
  else if x.cw.plane then
    match s.convert a x rect t.rows with
    | .error e => .error e
    | .ok l => .ok ([], recTable l)
  else if x.cw.src == .stream then
    if t.rows * t.width % 256 != 0 then .error { cause := 0x27 }
    else match s.expandAll a x.wg (t.rows * t.width / 256) 0 x.geo.base with
      | .error e => .error e
      | .ok bs => .ok (byteTable bs, [])
  else match allOk (fun r => s.rectRow a x rect r) (List.range rect.1) with
    | .error e => .error e
    | .ok l => .ok (byteTable (l.flatMap id), [])

/-- Write a range on CP, an aligned sector at a time; the first failure ends it (R211). -/
def State.cpWrite (s : State) (a : Who) (x : Copy) : Nat → BitVec 64 → List (BitVec 8) → Except (CpErr × State) State
  | 0, _, _ => .ok s
  | fuel + 1, va, bs =>
    if bs.isEmpty then .ok s
    else
      let k := min bs.length (32 - va.toNat % 32)
      let w := s.waveD x.wave
      let att := x.inTx && s.inAttempt w
      match s.translate a .store va with
      | .error f => .error ({ cause := f.cause.code, sub := f.sub, addr := va }, s)
      | .ok pa =>
        if att && !((match place pa with | .cell _ .cached => true | _ => false) && s.declared w va k) then
          .error ({ cause := 0x21, addr := va }, s)
        else
          let det := s.isDet x.wg
          let ren := ((s.depOf x.wg).bind fun d => d.renamed va).isSome
          let asid := s.asidOf x.ctx
          let mine := bs.take k
          let s :=
            if !att && !det && !ren then s.writeBytes a.die asid pa mine
            else ((List.range k).zip mine).foldl (fun s y =>
              s.putByte x.wave x.seq x.priv asid att det (pa + y.1) (va + BitVec.ofNat 64 y.1) y.2) s
          s.cpWrite a x fuel (va + BitVec.ofNat 64 k) (bs.drop k)

/-- Rectangle rows in the order of their addresses (R187): a pitch may be negative. -/
def Geometry.ascending (g : Geometry) (n : Nat) : List Nat := sortBy (fun r => ((g.row r).toNat, r)) (List.range n)

/-- Write the rows of a `TSTORE`. -/
def State.storeRows (s : State) (a : Who) (x : Copy) (t : Tile) (n : Nat) : List Nat → Option CpErr × State
  | [] => (none, s)
  | r :: l => match s.cpWrite a x (n + 1) (x.geo.row r) (t.read (r * t.width) n s.free) with
    | .error (e, s) => (some e, s)
    | .ok s => s.storeRows a x t n l

/-- A page that a store writes to is stalled for a migration (R159). -/
def State.storeStalled (s : State) (x : Copy) (t : Tile) : Bool :=
  let v := x.geo.valid (x.cw.rect t)
  let a := s.whoCp x.ctx x.cluster x.priv
  (List.range v.1).any fun r => (List.range (v.2 / 4096 + 2)).any fun k =>
    match s.translate a .store (x.geo.row r + BitVec.ofNat 64 (min (4096 * k) (v.2 - 1))) with
    | .ok pa => s.stalledAt pa
    | .error _ => false

/-! ## Completion (R211) -/

/-- The tile of a copy after it: ready, in error state when the copy failed. -/
def Tile.settled (t : Tile) (e : Option CpErr) : Tile :=
  match e with
  | none => { t with st := .ready }
  | some e =>
    { t with st := .ready, err := true, cause := BitVec.ofNat 8 e.cause, esub := BitVec.ofNat 4 e.sub, eaddr := e.addr }

/-- Completion of a copy: its barrier, its token, its batch, and its tiles (R211 step 4, R198). A copy whose control field is
invalid arrives with the Z of that control word: EXT64's kind, or the block's (log 27). -/
def State.finishCopy (s : State) (k : Nat) (x : Copy) (e : Option CpErr) : State :=
  let z := x.cw.size (s.tileD x.tile)
  let s := { s with copies := s.copies.del k }
  let s := s.updTile x.tile fun t => t.settled e
  let s := match x.kind with
    | .plane src => s.unref src
    | _ => s
  let arrive := fun (g : Wg) => match g.tbars.get? x.bar with
    | none => g
    | some b => { g with tbars := g.tbars.set x.bar (TxBar.test { b with bytes := b.bytes - BitVec.ofNat 32 z }) }
  let s := if x.cw.ben then s.updWg x.wg arrive else s
  let s := s.updWave x.wave fun w => (if x.cw.sen then w.signal x.cw.stok.toNat else w).copyDone k
  s.settleTile x.tile

/-- Perform a copy (R211 step 2). Bytes of the tile before a failing unit of a stream are undefined (R210). -/
def State.performCopy (s : State) (k : Nat) (x : Copy) : State :=
  let t := s.tileD x.tile
  match x.bad with
  | some (c, a) => s.finishCopy k x (some { cause := c, addr := a })
  | none => match x.kind with
    | .store =>
      let v := x.geo.valid (x.cw.rect t)
      if t.err then s.finishCopy k x (some { cause := 0x13 })
      else
        let r := s.storeRows (s.whoCp x.ctx x.cluster x.priv) x t v.2 (x.geo.ascending v.1)
        r.2.finishCopy k x r.1
    | _ => match s.fillData x t with
      | .error e =>
        (s.updTile x.tile fun t => { t with bytes := t.bytes.keep fun i _ => 256 * e.units ≤ i }).finishCopy k x (some e)
      | .ok d =>
        let s := (s.updTile x.tile fun t => { t with bytes := d.1, recs := d.2 }).drew 1048576
        (s.claimVersion x.wg x.tile t.rows t.width x.priv).finishCopy k x none

/-- Two ranges of bytes modulo 2^64 meet. -/
def rangesMeet (a : BitVec 64) (n : Nat) (b : BitVec 64) (m : Nat) : Bool :=
  0 < n && 0 < m && ((b - a).toNat < n || (a - b).toNat < m)

/-- Two stores write a common byte. -/
def State.storesMeet (s : State) (x y : Copy) : Bool :=
  let v := x.geo.valid (x.cw.rect (s.tileD x.tile))
  let u := y.geo.valid (y.cw.rect (s.tileD y.tile))
  (List.range v.1).any fun r => (List.range u.1).any fun q => rangesMeet (x.geo.row r) v.2 (y.geo.row q) u.2

/-- The copy may complete now: it has started, and no older store of its wave writes the same byte (R211). -/
def State.copyReady (s : State) (k : Nat) (x : Copy) : Bool :=
  x.started &&
  match x.kind with
  | .store =>
    !(s.copies.any fun e => e.1 < k && e.2.wave == x.wave && e.2.kind == .store && s.storesMeet x e.2) &&
    !s.storeStalled x (s.tileD x.tile)
  | _ => true

/-- The event `COPY_START` (R211 step 1, R217): a copy that waits for a token consumes one. -/
def execCopyStart (k : Nat) (s : State) : Out :=
  match s.copies.get? k with
  | none => .next s
  | some x =>
    let tok := x.cw.wtok.toNat
    if x.token && 0 < (s.waveD x.wave).tok tok && !s.olderConsumer x.wave tok k then
      let s := s.updWave x.wave fun w => w.consume tok
      .next { s with copies := s.copies.set k { x with token := false, started := true } }
    else .next s

/-- The event `COPY_COMPLETE` (R211). -/
def execCopyComplete (k : Nat) (s : State) : Out :=
  match s.copies.get? k with
  | none => .next s
  | some x => .next (if s.copyReady k x then s.performCopy k x else s)

end Sys2Proof.Machine
end

