-- ==== Sys2Proof/Machine/Engine.lean ====
section
/-! DEFINITION. Machine/Engine.lean: what the matrix engine computes (09_matrix R229 to R235, R248, R251, R252, R256): group
dots, passes and their monitor quantities, drains and sparse selection. -/

namespace Sys2Proof

/-- The row type of an asymmetric operand. -/
def AsymTy.row : AsymTy → Ty
  | .q8 => .q8 | .i8 => .i8 | .q4 => .q4 | .i4 => .i4

/-- Bytes of an `MLDC` element. -/
def LdFmt.bytes : LdFmt → Nat
  | .f32 => 4 | _ => 2

/-- An `MLDC` element as FP32, exact, NaNs canonical (R248). -/
def LdFmt.toF32 (f : LdFmt) (x : Nat) : Nat :=
  let g := match f with | .f32 => Machine.fmt32 | .f16 => Machine.fmt16 | .bf16 => Machine.fmtB
  (Machine.encodeWide Machine.fmt32 Machine.plainEnv false (g.read false x)).1

end Sys2Proof

namespace Sys2Proof.Machine

/-! ## Group dots (R229, R230) -/

/-- Planes of a rung (R229). -/
def planesOf (rung : BitVec 2) : Nat :=
  match rung.toNat with
  | 0 => 4
  | 1 => 8
  | 2 => 16
  | _ => 24

/-- What a pass reads of a group of 24 positions: the exponent, the flags, and the mantissas at all planes. -/
structure Grp where
  e         : Int
  zero      : Bool
  nonfinite : Bool
  m         : List Int
  deriving DecidableEq, Repr

/-- A dense record as a group. -/
def Rec.grp (r : Rec) : Grp := { e := r.e, zero := r.zero, nonfinite := r.nonfinite, m := padTo 24 0 r.m }

/-- Kept values at the positions of a mask, zero at the others. -/
def spread (mask : BitVec 48) : List Nat → List Int → List Int
  | [], _ => []
  | k :: ks, m =>
    if mask.getLsbD k then m.headD 0 :: spread mask ks (m.drop 1) else 0 :: spread mask ks m

/-- A half of a sparse record: 24 dense positions, each with its kept mantissa or 0 (R233). -/
def Rec.half (r : Rec) (h : Nat) : Grp :=
  { e := r.e, zero := r.zero, nonfinite := r.nonfinite, m := ((spread r.mask (List.range 48) r.m).drop (24 * h)).take 24 }

/-- A dense group read through a mask (R234): an element whose mask bit is 0 is read with m = 0. -/
def Grp.masked (g : Grp) (mask : BitVec 48) (h : Nat) : Grp :=
  { g with m := ((List.range 24).zip g.m).map fun x => if mask.getLsbD (24 * h + x.1) then x.2 else 0 }

/-- The top `p` planes of a mantissa (R229). -/
def topPlanes (p : Nat) (m : Int) : Int := m / (2 ^ (24 - p) : Nat)

/-- A group cut to `p` planes. -/
def Grp.cut (g : Grp) (p : Nat) : Grp := { g with m := g.m.map (topPlanes p) }

/-- A group dot: its value as FP32 bits, and |S| and M (R230, R232). -/
structure Dot where
  v : Nat
  s : Nat := 0
  m : Nat := 0
  deriving DecidableEq, Repr

/-- The group dot of two groups cut to `p` planes (R230). -/
def gdot (p : Nat) (a b : Grp) : Dot :=
  if a.nonfinite || b.nonfinite then { v := fmt32.nan }
  else if a.zero || b.zero then { v := 0 }
  else
    let ps := List.zipWith (fun x y => x * y) a.m b.m
    let s := ps.foldl (fun t x => t + x) 0
    { v := (fmt32.roundInt plainEnv s (a.e + b.e - 2 * (p : Int) + 2) false).1
      s := s.natAbs, m := ps.foldl (fun t x => t + x.natAbs) 0 }

/-- Is the pattern a NaN. -/
def nanBits (x : Nat) : Bool := (fmt32.read false x).isNan

/-- Is the pattern finite. -/
def finiteBits (x : Nat) : Bool := field x 23 8 != 255

/-- Add the dots of a pass to an accumulator element, in order (R231). -/
def accumulate (c : Nat) (ds : List Dot) : Nat :=
  let r := ds.foldl (fun c d => faddBits c d.v) c
  if nanBits r then 0x7FC00000 else r

/-! ## Monitor quantities (R232, R269, R270) -/

/-- What a pass adds to the monitors: N, U, TD, dots at half the threshold, NF. -/
structure Mon where
  n    : Nat := 0
  u    : Nat := 0
  td   : Nat := 0
  half : Nat := 0
  nf   : Nat := 0
  deriving DecidableEq, Repr

/-- Sum of two passes' quantities. -/
def Mon.add (a b : Mon) : Mon :=
  { n := a.n + b.n, u := a.u + b.u, td := a.td + b.td, half := a.half + b.half, nf := a.nf + b.nf }

/-- Nonzero and underresolved elements and non-finite groups of groups that a pass reads at `p` planes. -/
def readMon (p : Nat) (gs : List Grp) : Mon :=
  gs.foldl (fun a g =>
    if g.nonfinite then { a with nf := a.nf + 1 }
    else if g.zero then a
    else
      { a with
        n := a.n + (g.m.filter (· != 0)).length
        u := a.u + (g.m.filter fun x => x != 0 && (topPlanes p x).natAbs < 2).length }) {}

/-- Dots at or beyond the cancellation threshold 2^`k` (R269). -/
def tripped (k : Nat) (ds : List Dot) : Nat := (ds.filter fun d => 2 ^ k * max d.s 1 ≤ d.m).length

/-- Which monitors trip (R270): range, cancellation, non-finite. -/
def trips (txmon : BitVec 64) (x : Mon) : Bool × Bool × Bool :=
  let t := txmon.toNat
  (!t.testBit 32 && x.n != 0 && field t 0 8 * x.n < x.u * 256, !t.testBit 33 && field t 16 16 < x.td, 0 < x.nf)

/-- Every monitor is below half its threshold (R270). -/
def belowHalf (txmon : BitVec 64) (x : Mon) : Bool :=
  let t := txmon.toNat
  (t.testBit 32 || x.n == 0 || x.u * 512 ≤ field t 0 8 * x.n) && (t.testBit 33 || x.half ≤ field t 16 16 / 2) && x.nf == 0

/-! ## Operands of a pass -/

/-- A group record of a lane. -/
def Tile.recAt (x : Tile) (lane g : Nat) : Rec := x.recs.getD (lane * 64 + g) {}

/-- The scale entry of a lane in a scale tile (R235): row 0 for A, row 1 for B. -/
def Tile.scaleEntry (x : Tile) (b : Bool) (lane f : Nat) : Nat :=
  ofBytes (x.read ((if b then x.width else 0) + 4 * lane) 4 f)

/-- 24 codes of group `g` of a lane of a plain tile (R235), as integers less the zero point. -/
def Tile.codes (x : Tile) (t : Ty) (entry lane g f : Nat) : List Int :=
  let n := 24 * rowBits t / 8
  (rowCodes t (x.read (lane * x.width + g * n) n f)).map fun c => rowCode t c - rowZero t entry

/-- What a pass computes from: its lanes' groups, and whether its kind is asymmetric. -/
inductive PassOps where
  /-- Per lane, its groups; `halves`: those of A are the halves of sparse records. -/
  | groups (a b : List (List Grp)) (halves : Bool)
  /-- Per lane: the scale, when it is valid, and the codes of each group. -/
  | codes (a b : List (Option (Nat × Int) × List (List Int)))
  deriving DecidableEq, Repr

/-- The dot of an asymmetric pass (R235). -/
def codeDot (sa sb : Option (Nat × Int)) (a b : List Int) : Dot :=
  match sa, sb with
  | some (x, ex), some (y, ey) =>
    let d := (List.zipWith (fun p q => p * q) a b).foldl (fun t z => t + z) 0
    { v := (fmt32.roundInt plainEnv (d * (x * y : Nat)) (ex + ey) false).1 }
  | _, _ => { v := fmt32.nan }

/-- The dots of element (i, j) of a pass, in order. -/
def PassOps.dots (p : Nat) : PassOps → List (List (List Dot))
  | .groups a b _ =>
    let b := b.map fun l => l.map (Grp.cut · p)
    a.map fun x => let x := x.map (Grp.cut · p); b.map fun y => List.zipWith (gdot p) x y
  | .codes a b => a.map fun x => b.map fun y => List.zipWith (codeDot x.1 y.1) x.2 y.2

/-- Quantities of the operands read: `withA` is false where A is counted elsewhere (R269). -/
def PassOps.mon (p : Nat) (withA : Bool) : PassOps → Mon
  | .groups a b halves =>
    let x := readMon p (a.flatMap id)
    ((if withA then { x with nf := if halves then x.nf / 2 else x.nf } else {} : Mon)).add (readMon p (b.flatMap id))
  | .codes a b =>
    let bad := fun (l : List (Option (Nat × Int) × List (List Int))) => 4 * (l.filter fun x => x.1.isNone).length
    { nf := (if withA then bad a else 0) + bad b }

/-- Per lane of A and of B: no group of it is non-finite, and its scale is valid. -/
def PassOps.finite : PassOps → List Bool × List Bool
  | .groups a b _ =>
    let ok := fun (l : List Grp) => l.all fun g => !g.nonfinite
    (a.map ok, b.map ok)
  | .codes a b => (a.map (·.1.isSome), b.map (·.1.isSome))

/-- The pattern is an infinity. -/
def infBits (x : Nat) : Bool := field x 0 31 == 0x7F800000

/-- Elements of a table from number `k` on, `n` of them, with a default. -/
def denseOf {α : Type} (d : α) : Nat → Nat → Tab α → List α
  | 0, _, _ => []
  | n + 1, k, (j, x) :: r => if j = k then x :: denseOf d n (k + 1) r else d :: denseOf d n (k + 1) ((j, x) :: r)
  | n + 1, k, [] => d :: denseOf d n (k + 1) []

/-- A row of `n` accumulator elements from row `r`, column `c` on. -/
def accRow (acc : Tab (BitVec 32)) (r c n : Nat) : List Nat :=
  (denseOf 0 n (256 * r + c) (acc.dropWhile fun e => e.1 < 256 * r + c)).map (·.toNat)

/-- Perform a pass on view (rb, cb) (R231): the new accumulator and the quantities it adds. -/
def runPass (p cthr : Nat) (withA : Bool) (ops : PassOps) (acc : Tab (BitVec 32)) (rb cb : Nat) : Tab (BitVec 32) × Mon :=
  let ds := ops.dots p
  let fin := ops.finite
  let rows := ((List.range 64).zip ds).map fun x =>
    let old := accRow acc (64 * rb + x.1) (64 * cb) 64
    (x.1, old, List.zipWith accumulate old x.2)
  let new : Tab (BitVec 32) := rows.flatMap fun r =>
    ((List.range 64).zip r.2.2).map fun y => (256 * (64 * rb + r.1) + 64 * cb + y.1, BitVec.ofNat 32 y.2)
  let turned := (rows.zip fin.1).foldl (fun n r =>
    n + (((r.1.2.1.zip r.1.2.2).zip fin.2).filter fun y => r.2 && y.2 && finiteBits y.1.1 && infBits y.1.2).length) 0
  let all := ds.flatMap fun l => l.flatMap id
  (acc.overlay new, (ops.mon p withA).add
    { td := tripped cthr all, half := tripped (cthr - 1) all, nf := turned })

/-! ## Clearing and loading views (R248) -/

/-- Row and column blocks of a rectangle of views (R236). -/
def viewRows (acc : Nat) : Nat := acc / 4
/-- Column block of a view. -/
def viewCols (acc : Nat) : Nat := acc % 4

/-- Set the views of a rectangle to +0. -/
def clearViews (t : Tab (BitVec 32)) (acc mb nb : Nat) : Tab (BitVec 32) :=
  t.keep fun k _ =>
    let r := k / 256 / 64
    let c := k % 256 / 64
    !(viewRows acc ≤ r && r < viewRows acc + mb && viewCols acc ≤ c && c < viewCols acc + nb)

/-- `MLDC` into a rectangle of views (R248). -/
def loadViews (t : Tab (BitVec 32)) (acc mb nb : Nat) (f : LdFmt) (row0 : Nat) (x : Tile) (free : Nat) : Tab (BitVec 32) :=
  let new : Tab (BitVec 32) := (List.range (64 * mb)).flatMap fun i =>
    let bs := x.read ((row0 + i) * x.width) (64 * nb * f.bytes) free
    ((List.range (64 * nb)).zip (chunks f.bytes bs (64 * nb))).map fun y =>
      (256 * (64 * viewRows acc + i) + 64 * viewCols acc + y.1, BitVec.ofNat 32 (f.toF32 (ofBytes y.2)))
  t.overlay new

/-! ## Drains (R251, R252) -/

/-- Type and kind of a drain format (R251): 0 element, 1 framed, 2 rows. -/
def drainFmt (code : Nat) : Ty × Nat :=
  match code with
  | 0 => (.f32, 0)
  | 1 => (.f16, 0)
  | 2 => (.bf16, 0)
  | 3 => (.e4m3, 0)
  | 4 => (.e5m2, 0)
  | 5 => (.e2m1, 1)
  | 6 => (.e4m3, 1)
  | 7 => (.e5m2, 1)
  | 8 => (.i8, 1)
  | 9 => (.i4, 1)
  | 10 => (.q8, 2)
  | 11 => (.i8, 2)
  | 12 => (.q4, 2)
  | _ => (.i4, 2)

/-- Bytes that a row of `w` values occupies (R251). -/
def drainBytes (code w : Nat) : Nat :=
  match drainFmt code with
  | (t, 0) => w * t.bits / 8
  | (t, 1) => (w + blockElems t - 1) / blockElems t * 64
  | (t, _) => w * rowBits t / 8

/-- The magnitude bits of FP32 patterns: the greatest (R252). -/
def maxMag (xs : List Nat) : Nat := xs.foldl (fun a x => max a (x % 2 ^ 31)) 0

/-- A framed block of a row (R252): scales from the largest magnitudes, codes packed as R142 packs them. -/
def drainBlock (t : Ty) (sat : Bool) (xs : List Nat) : List (BitVec 8) :=
  let xs := padTo (blockElems t) 0 xs
  let gs := chunks 24 xs (blockGroups t)
  let scales := gs.map fun g => scaleByte t (fmt32.read false (maxMag g))
  let img := fcOf t :: padTo 4 0 scales ++ List.replicate 59 0
  let img := ((List.range gs.length).zip gs).foldl (fun b g =>
    (packGroup t plainEnv sat g.1 b (g.2.map (fmt32.read false ·))).1) img
  img.map (BitVec.ofNat 8 ·)

/-- Pack codes of 4 or 8 bits into bytes, low nibble first. -/
def packCodes (bits : Nat) (cs : List Nat) : List (BitVec 8) :=
  if bits = 4 then (chunks 2 cs (cs.length / 2)).map fun c => BitVec.ofNat 8 (c.headD 0 % 16 + 16 * (c.getD 1 0 % 16))
  else cs.map (BitVec.ofNat 8 ·)

/-- Least and greatest of a row; a NaN decides (R252, R130). -/
def rowRangeOf (xs : List FVal) : FVal × FVal :=
  match xs.find? FVal.isNan, xs with
  | some x, _ => (x, x)
  | none, [] => (.fin false 0 0, .fin false 0 0)
  | none, x :: r => (r.foldl (fun a y => if y.lt a then y else a) x, r.foldl (fun a y => if a.lt y then y else a) x)

/-- A row of values in a drain format (R252), and its scale entry for the rows formats. -/
def drainRow (code : Nat) (sat : Bool) (tag : Nat) (xs : List Nat) : List (BitVec 8) × Nat :=
  match drainFmt code with
  | (t, 0) => (xs.flatMap fun x => toBytes (t.bits / 8) (encodeTy t plainEnv sat (fmt32.read false x)).1, 0)
  | (t, 1) =>
    ((chunks (blockElems t) xs ((xs.length + blockElems t - 1) / blockElems t)).flatMap fun b => drainBlock t sat b, 0)
  | (t, _) =>
    let vs := xs.map (fmt32.read false ·)
    let r := rowRangeOf vs
    let e := (rowEntry t r.1 r.2 tag).1
    (packCodes (rowBits t) (vs.map fun v => (rowPack t .near e v).1), e)

/-- Write rows into a plain tile, each from its first byte (R253). -/
def Tile.setRows (x : Tile) (rows : List (List (BitVec 8))) : Tile :=
  let new : Tab (BitVec 8) := ((List.range rows.length).zip rows).flatMap fun r =>
    ((List.range r.2.length).zip r.2).map fun b => (r.1 * x.width + b.1, b.2)
  { x with bytes := x.bytes.overlay new }

/-- The values of a rectangle of views, by row (R252). -/
def viewValues (t : Tab (BitVec 32)) (acc mb nb : Nat) : List (List Nat) :=
  (List.range (64 * mb)).map fun r => accRow t (64 * viewRows acc + r) (64 * viewCols acc) (64 * nb)

/-- Columns as rows. -/
def transpose {α : Type} (d : α) (n : Nat) (l : List (List α)) : List (List α) :=
  (List.range n).map fun c => l.map fun r => r.getD c d

/-! ## Sparse selection (R256) -/

/-- The exact value of position `k` of a pair of dense records. -/
def pairValue (a b : Rec) (k : Nat) : FVal :=
  let r := if k < 24 then a else b
  if r.zero || r.nonfinite then .fin false 0 0
  else
    let m := r.m.getD (k % 24) 0
    .fin (m < 0) m.natAbs (r.e - 23)

/-- Position `j` ranks before position `k` of its set: larger magnitude, or equal and lower (R256). A NONFINITE record keeps no
value of its elements: all 24 rank largest (log 27). -/
def ranksBefore (a b : Rec) (j k : Nat) : Bool :=
  let nf := fun i => (if i < 24 then a else b).nonfinite
  let x := (pairValue a b j).abs
  let y := (pairValue a b k).abs
  if nf j != nf k then nf j
  else if nf j then j < k
  else if y.lt x then true
  else if x.lt y then false
  else j < k

/-- The kept positions: `n` of each aligned set of `m`. -/
def keptOf (a b : Rec) (n m : Nat) : List Nat :=
  (List.range 48).filter fun k =>
    let base := k / m * m
    ((List.range m).filter fun i => base + i != k && ranksBefore a b (base + i) k).length < n

/-- The sparse record of a pair of dense records (R256). -/
def sparseOf (a b : Rec) (n m : Nat) : Rec :=
  let kept := keptOf a b n m
  let mask := BitVec.ofNat 48 (kept.foldl (fun x k => x + 2 ^ k) 0)
  if a.nonfinite || b.nonfinite then { nonfinite := true, sparse := true, mask := mask }
  else { recordOf (kept.map (pairValue a b)) with sparse := true, mask := mask }

/-- The records that `MNMSEL` writes (R256). -/
def selectTile (x : Tile) (of8 : Bool) : Tab Rec :=
  let n := if of8 then 4 else 2
  recTable ((List.range x.rows).map fun l =>
    (List.range (x.width / 48)).map fun g => sparseOf (x.recAt l (2 * g)) (x.recAt l (2 * g + 1)) n (2 * n))

end Sys2Proof.Machine
end

