-- ==== Sys2Proof/Machine/Matrix.lean ====
section
/-! DEFINITION. Machine/Matrix.lean: the matrix instructions (09_matrix R236 to R256), the reservation table and its
arbitration (R239 to R245), and the events of the engine. -/

namespace Sys2Proof

/-- Row and column blocks of a pass instruction: `MMAP` covers the whole slot (R250). -/
def PassW.mb (p : PassW) (pair : Bool) : Nat := if pair then 2 else p.mb1.toNat + 1
/-- Column blocks. -/
def PassW.nb (p : PassW) (pair : Bool) : Nat := if pair then 4 else p.nb1.toNat + 1

/-- Groups from KG on that a pass instruction reads of A (R249). -/
def PassW.groups (p : PassW) : Nat := p.kg.toNat + 4 * (p.nk1.toNat + 1)

/-- Tiles that `MDRAIN` fills (R253): tD without MEM, TT, and tQ for the rows formats. -/
def Drain.fills (o : Drain) : List (BitVec 5) :=
  (if o.origin.isNone then [o.td] else []) ++ (if o.ten then [o.tt] else []) ++
    (if (Machine.drainFmt o.ofmt.toNat).2 == 2 then [o.tq] else [])

/-- Rows and bytes that `MDRAIN` needs of the tiles it fills, in the order of `Drain.fills`. -/
def Drain.needs (o : Drain) : List (Nat × Nat) :=
  let nr := 64 * (o.mb1.toNat + 1)
  let nc := 64 * (o.nb1.toNat + 1)
  (if o.origin.isNone then [(nr, Machine.drainBytes o.ofmt.toNat nc)] else []) ++
    (if o.ten then [(nc, Machine.drainBytes o.tfmt.toNat nr)] else []) ++
    (if (Machine.drainFmt o.ofmt.toNat).2 == 2 then [(1, 4 * nr)] else [])

end Sys2Proof

namespace Sys2Proof.Machine

/-! ## Posting (R239) -/

/-- The rung that `%rung` reads (R264). -/
def State.rungOf (s : State) (g : Nat) : BitVec 2 :=
  if s.isTxn g then (s.wgD (s.txHome g)).tx.rung else match s.hdrOf g with | some h => h.rung | none => 0

/-- The frame of a matrix instruction: collective (R246), and a deferred engine fault is taken first (R243). -/
def mxOp (s : State) (h : Hd) (k : Issue → Wave → Ans) : Out :=
  perform s h [] fun c w e =>
    if !w.converged e then .trap (trapOf .illegalConvergence)
    else guardTrap (s.txTrap w false true)
      (match w.dfault with
      | some d => .next (s.takeDeferred c d)
      | none => k c w)

/-- Entries of a cluster's reservation table. -/
def State.entriesIn (s : State) (cluster : Nat) : List (Nat × Entry) := s.entries.filter fun e => e.2.cluster == cluster

/-- Post an entry, and retire (R239, R242): REFS counts the tiles it reads or fills; a full table stalls. -/
def postAns (s : State) (c : Issue) (w : Wave) (cmd : MxCmd) (ch : Chain) (total : Nat) (f : Wave → Wave) : Ans :=
  let cl := clusterOf (s.coreOf w)
  if 32 ≤ (s.entriesIn cl).length then .wait false
  else
    let (k, s) := s.newUid
    let e : Entry := { cluster := cl, wave := c.wave, wg := w.wg, ctx := s.ctxOf w.wg, cmd := cmd, ch := ch, priv := w.priv,
                       pc := c.pc, marked := (s.engineD cl).baton == some c.wave, token := ch.wen, total := total,
                       inTx := s.inAttempt w, seq := w.icount.toNat }
    let s := { s with entries := s.entries.set k e }
    .next (((cmd.reads ++ cmd.fills).foldl State.addRef s).put c fun w => f (w.retire c fun _ st => st))

/-- The tiles of several handles, all bound (R199). -/
def State.tilesOf (s : State) (g : Nat) : List (BitVec 5) → Option (List (Nat × Tile))
  | [] => some []
  | h :: r => match s.tileOf g h.toNat, s.tilesOf g r with
    | some x, some l => some (x :: l)
    | _, _ => none

/-- The checks of the tiles that a command reads (R249; for `MLDC` and `MNMSEL`, whose rules give no order, log 27): each
handle bound, none in error, the form; then they must be ready. -/
def readTiles (s : State) (g : Nat) (hs : List (BitVec 5)) (form : List Tile → Bool) (k : List Nat → Ans) : Ans :=
  match s.tilesOf g hs with
  | none => .trap (trapOf .tileUndeclared)
  | some l =>
    match (hs.zip l).find? fun x => x.2.2.err with
    | some x => .trap (copyError x.2.2 x.1)
    | none =>
      if !form (l.map (·.2)) then .trap (trapOf .tileFormat)
      else if !(l.all fun x => x.2.st == .ready) then .wait false
      else k (l.map (·.1))

/-- `MZERO` (R248). -/
def execMzero (h : Hd) (acc : BitVec 3) (mb1 : BitVec 1) (nb1 : BitVec 2) (ch : Chain) (s : State) : Out :=
  mxOp s h fun c w => postAns s c w (.mzero acc.toNat (mb1.toNat + 1) (nb1.toNat + 1)) ch 1 id

/-- `MLDC` (R248). -/
def execMldc (h : Hd) (acc : BitVec 3) (ts : BitVec 5) (mb1 : BitVec 1) (nb1 : BitVec 2) (fmt : LdFmt) (row0 : BitVec 12)
    (ch : Chain) (s : State) : Out :=
  mxOp s h fun c w =>
    let mb := mb1.toNat + 1
    let nb := nb1.toNat + 1
    let form := fun (l : List Tile) => l.all fun x =>
      !x.planar && row0.toNat + 64 * mb ≤ x.rows && 64 * nb * fmt.bytes ≤ x.width
    readTiles s w.wg [ts] form fun ids => postAns s c w (.mldc acc.toNat mb nb fmt row0.toNat (ids.headD 0)) ch 1 id

/-- Form of the A operand (R249 step 3). -/
def formA (p : PassW) (mb : Nat) (x : Tile) : Bool :=
  64 * p.aob.toNat + 64 * mb ≤ x.rows &&
  (if p.opk == 3 then !x.planar && 24 * p.groups * rowBits p.aty.row / 8 ≤ x.width
   else x.planar && p.groups ≤ x.width / 24)

/-- Form of the B operand. -/
def formB (p : PassW) (nb : Nat) (x : Tile) : Bool :=
  64 * p.bob.toNat + 64 * nb ≤ x.rows &&
  (if p.opk == 3 then !x.planar && 24 * p.groups * rowBits p.bty.row / 8 ≤ x.width
   else x.planar && (if p.opk == 1 then 2 * p.groups else p.groups) ≤ x.width / 24)

/-- Form of the mask or scale tile; `x`: the operand that a mask belongs to. -/
def formC (p : PassW) (mb nb : Nat) (x : Option Tile) (m : Tile) : Bool :=
  if p.opk == 2 then m.planar && (x.all fun x => x.rows ≤ m.rows) && (p.groups + 1) / 2 ≤ m.width / 24
  else !m.planar && 2 ≤ m.rows && 4 * (64 * p.aob.toNat + 64 * mb) ≤ m.width && 4 * (64 * p.bob.toNat + 64 * nb) ≤ m.width

/-- Post an `MMA` or an `MMAP` (R249, R250). The odd half of a pair reads no A tile (R245). -/
def passAns (s : State) (c : Issue) (w : Wave) (o : Mma) (pair : Bool) : Ans :=
  let p := o.p
  let odd := pair && (s.wgD w.wg).lin % 2 == 1
  let mb := p.mb pair
  let nb := p.nb pair
  let hs := (if odd then [] else [o.ta]) ++ [o.tb] ++ (if p.opk == 2 || p.opk == 3 then [o.tc] else [])
  let form := fun (l : List Tile) => match odd, l with
    | true, b :: r => formB p nb b && r.all (formC p mb nb (if p.psel then some b else none))
    | false, a :: b :: r => formA p mb a && formB p nb b && r.all (formC p mb nb (some (if p.psel then b else a)))
    | _, _ => false
  let rung := if p.fix then p.xrung else s.rungOf w.wg
  readTiles s w.wg hs form fun ids =>
    let (ta, r) := if odd then (none, ids) else (ids.head?, ids.drop 1)
    let cmd := MxCmd.mma o.acc.toNat p ta r.head? (r.drop 1).head? rung (if pair then some w.mmapN else none)
    postAns s c w cmd o.ch (mb * nb * (p.nk1.toNat + 1)) fun w => if pair then { w with mmapN := w.mmapN + 1 } else w

/-- `MMA` (R249). -/
def execMma (o : Mma) (s : State) : Out := mxOp s o.h fun c w => passAns s c w o false

/-- `MMAP` (R250). -/
def execMmap (o : Mma) (s : State) : Out := mxOp s o.h fun c w => passAns s c w o true

/-- The geometry of a memory drain, from tD's region (R253, R206). -/
def State.drainGeo (s : State) (w : Wave) (o : Drain) : Except Trap (Option Geometry) :=
  match o.origin with
  | none => .ok none
  | some a =>
    match (s.wgD w.wg).regions.get? o.td.toNat with
    | none => .error (trapOf .tileUndeclared)
    | some r => if r.mode == .read then .error (trapOf .tileUndeclared) else .ok (some (r.geometry (w.sreg a.toNat)))

/-- A memory drain stays inside the declared write regions of an attempt (R253, R212). -/
def State.drainDeclared (s : State) (w : Wave) (o : Drain) (geo : Option Geometry) : Bool :=
  match geo with
  | none => true
  | some g =>
    let v := g.valid (64 * (o.mb1.toNat + 1), drainBytes o.ofmt.toNat (64 * (o.nb1.toNat + 1)))
    !s.inAttempt w || (List.range v.1).all fun i => s.declared w (g.row i) v.2

/-- `MDRAIN` (R252, R253). -/
def execMdrain (o : Drain) (s : State) : Out :=
  mxOp s o.h fun c w =>
    match s.tilesOf w.wg o.fills with
    | none => .trap (trapOf .tileUndeclared)
    | some fs =>
      if o.fills.any (s.sharedHandle w.wg) then .trap (trapOf .tileUndeclared)
      else andThen (s.drainGeo w o) fun geo =>
        if !((fs.zip o.needs).all fun x => !x.1.2.planar && x.2.1 ≤ x.1.2.rows && x.2.2 ≤ x.1.2.width) then
          .trap (trapOf .tileFormat)
        else if !s.drainDeclared w o geo then .trap (trapOf .txUndeclaredStore)
        else if !(fs.all fun x => x.2.writable) then .wait false
        else
          let after := (if o.origin.isNone then fs.drop 1 else fs).map (·.1)
          let tt := if o.ten then after.head? else none
          let tq := if (drainFmt o.ofmt.toNat).2 == 2 then (if o.ten then after.drop 1 else after).head? else none
          let td := (s.tileOf w.wg o.td.toNat).map (·.1)
          postAns s c w (.mdrain o td tt tq geo (w.sreg o.areg.toNat)) o.ch 1 id

/-- `MNMSEL` (R256). -/
def execMnmsel (h : Hd) (td ts : BitVec 5) (of8 : Bool) (ch : Chain) (s : State) : Out :=
  mxOp s h fun c w =>
    match s.tileOf w.wg td.toNat with
    | none => .trap (trapOf .tileUndeclared)
    | some (k, x) =>
      if s.sharedHandle w.wg td then .trap (trapOf .tileUndeclared)
      else
        let form := fun (l : List Tile) => l.all fun y =>
          y.planar && x.planar && y.width % 48 == 0 && x.rows == y.rows && 2 * x.width == y.width
        readTiles s w.wg [ts] form fun ids =>
          if ids.contains k then .trap (trapOf .tileFormat)
          else if !x.writable then .wait false
          else postAns s c w (.mnmsel of8 k (ids.headD 0)) ch 1 id

/-! ## Baton and status (R242, R254, R255) -/

/-- `MBATON` (R254). -/
def execMbaton (h : Hd) (a : Src) (s : State) : Out :=
  mxOp s h fun c w =>
    let x := (rdU w a).toNat
    let cl := clusterOf (s.coreOf w)
    let held := (s.engineD cl).baton
    if 32 ≤ x then .trap (badField .sa)
    else match (s.liveWaves w.wg).find? fun u => (s.waveD u).idx == x with
      | none => .trap (trapOf .queueMisuse)
      | some u =>
        if held != none && held != some c.wave then .wait false
        else .next ((s.updEngine cl fun e => { e with baton := some u }).put c fun w => w.retire c fun _ st => st)

/-- `MREL` (R254). -/
def execMrel (h : Hd) (s : State) : Out :=
  mxOp s h fun c w =>
    .next ((s.updEngine (clusterOf (s.coreOf w)) fun e => if e.baton == some c.wave then { e with baton := none } else e).put c
      fun w => w.retire c fun _ st => st)

/-- The word of `MSTAT` (R255). -/
def State.mstat (s : State) (w : Wave) (u : Nat) : BitVec 64 :=
  let cl := clusterOf (s.coreOf w)
  let slot := s.slotOf w u
  let baton := (s.engineD cl).baton
  let posted := (s.entries.filter fun e => e.2.wave == u).length
  let cause := match w.dfault with | some d => d.cause.code | none => 0
  BitVec.ofNat 64 (posted + (32 - (s.entriesIn cl).length) * 2 ^ 6 + (baton == some u).toNat * 2 ^ 12 +
    baton.isSome.toNat * 2 ^ 13 + slot.isSome.toNat * 2 ^ 14 + slot.getD 0 * 2 ^ 15 +
    (slot.isSome && s.inAttempt w).toNat * 2 ^ 16 + w.lrung.toNat * 2 ^ 17 + cause * 2 ^ 24)

/-- `MSTAT` (R255). -/
def execMstat (h : Hd) (d : Dst) (s : State) : Out :=
  mxOp s h fun c w => dataNext s c w.liveMask h d true false fun _ => s.mstat w c.wave

/-! ## Eligibility and arbitration (R240 to R242, R245) -/

/-- The engine of a cluster runs a pass or a command. -/
def State.engineBusy (s : State) (cluster : Nat) : Bool := s.entries.any fun e => e.2.cluster == cluster && e.2.busy

/-- A drain that frees its slot and has not completed: its wave's later entries wait for the slot to be freed. -/
def Entry.freeing (e : Entry) : Bool := match e.cmd with | .mdrain o _ _ _ _ _ => o.free | _ => false

/-- The entry needs an accumulator slot (R240). -/
def Entry.needsSlot (e : Entry) : Bool := match e.cmd with | .mnmsel _ _ _ => false | _ => true

/-- An entry is eligible for its next grant, its partner aside (R240). -/
def State.eligible (s : State) (k : Nat) (e : Entry) : Bool :=
  let g := s.engineD e.cluster
  let w := s.waveD e.wave
  let older := s.entries.any fun x => x.1 < k && x.2.wave == e.wave && (x.2.granted < x.2.total || x.2.freeing)
  let tok := !e.token || (0 < w.tok e.ch.wtok.toNat && !s.olderConsumer e.wave e.ch.wtok.toNat k)
  let slot := !e.needsSlot || (s.slotOf w e.wave).isSome || g.hold0.isNone || g.hold1.isNone
  let tiles := e.granted != 0 || e.cmd.fills.all fun t => (s.tileD t).st != .draining
  e.granted < e.total && !e.busy && !older && tok && slot && tiles && (g.baton.isNone || e.marked)

/-- Number of an `MMAP` among its wave's, and whether it is one. -/
def Entry.pairN (e : Entry) : Option Nat := match e.cmd with | .mma _ _ _ _ _ _ n => n | _ => none

/-- The matching `MMAP` of the other half (R245). -/
def State.partner (s : State) (e : Entry) : Option (Nat × Entry) :=
  match e.pairN, (s.wgD e.wg).pair with
  | some n, some o => s.entries.find? fun x =>
      x.2.wg == o && x.2.pairN == some n && (s.waveD x.2.wave).idx == (s.waveD e.wave).idx
  | _, _ => none

/-- An entry takes part in arbitration (R240): for an `MMAP`, its partner is eligible too. -/
def State.contends (s : State) (k : Nat) (e : Entry) : Bool :=
  s.eligible k e && (e.pairN.isNone || match s.partner e with
    | none => false
    | some (j, x) => s.eligible j x)

/-- The arbiter's choice (R241): of the eligible entries the highest PRI, then the oldest. -/
def State.arbiter (s : State) (cluster : Nat) : Option (Nat × Entry) :=
  (s.entriesIn cluster).foldl (fun best e =>
    if !s.contends e.1 e.2 then best
    else match best with
      | none => some e
      | some b => if b.2.ch.pri < e.2.ch.pri then some e else best) none

/-- What is granted when a cluster's engine is free (R241, R245): the arbiter's choice; for an `MMAP`, with its partner, when
the partner's engine is free and its arbiter chooses the partner. Where the two arbiters choose halves of different `MMAP`s,
and would wait for each other, the older `MMAP` is granted (log 15). -/
def State.granted (s : State) (cluster : Nat) : List (Nat × Entry) :=
  if s.engineBusy cluster then []
  else match s.arbiter cluster with
    | none => []
    | some (k, e) =>
      if e.pairN.isNone then [(k, e)]
      else match s.partner e with
        | none => []
        | some (j, x) =>
          if s.engineBusy x.cluster then []
          else match s.arbiter x.cluster with
            | none => []
            | some (i, y) =>
              if i == j then [(k, e), (j, x)]
              else if y.pairN.isNone then []
              else match s.partner y with
                | none => []
                | some (h, z) => if min k j < min h i then [(k, e), (j, x)] else [(h, z), (i, y)]

/-- An entry can be granted now. -/
def State.grantable (s : State) (k : Nat) (e : Entry) : Bool := (s.granted e.cluster).any fun x => x.1 == k

/-! ## Operands of a pass (R249, R233 to R235) -/

/-- View block of pass `q` of an instruction from view `acc` (R249): K step, row block, column block. -/
def passAt (acc mb nb q : Nat) : Nat × Nat × Nat :=
  let v := q % (mb * nb)
  (q / (mb * nb), viewRows acc + v / nb, viewCols acc + v % nb)

/-- Records of 64 lanes from `lane0`, `n` from record `g0` on. -/
def laneRecs (x : Tile) (lane0 g0 n : Nat) : List (List Rec) :=
  (List.range 64).map fun i => (List.range n).map fun q => x.recAt (lane0 + i) (g0 + q)

/-- All records are dense, or all are sparse. -/
def allKind (sparse : Bool) (l : List (List Rec)) : Bool := l.all fun r => r.all fun x => x.sparse == sparse

/-- Groups of a dense operand, read through the mask tile where there is one (R234). -/
def denseGroups (x : Tile) (mask : Option Tile) (lane0 g0 n : Nat) : Except Cause (List (List Grp)) :=
  let l := laneRecs x lane0 g0 n
  if !allKind false l then .error .tileFormat
  else match mask with
    | none => .ok (l.map fun r => r.map Rec.grp)
    | some m =>
      let ms := fun (i q : Nat) => m.recAt (lane0 + i) ((g0 + q) / 2)
      if !((List.range 64).all fun i => (List.range n).all fun q => (ms i q).sparse) then .error .tileFormat
      else .ok ((List.range 64).map fun i => (List.range n).map fun q =>
        (x.recAt (lane0 + i) (g0 + q)).grp.masked (ms i q).mask ((g0 + q) % 2))

/-- Lanes of an asymmetric operand (R235): the tag of each entry must match. -/
def codeLanes (x sc : Tile) (t : Ty) (b : Bool) (tag0 : BitVec 8) (lane0 g0 f : Nat) :
    Except Cause (List (Option (Nat × Int) × List (List Int))) :=
  let entry := fun i => sc.scaleEntry b (lane0 + i) f
  if !((List.range 64).all fun i => field (entry i) 24 8 == (tag0.toNat + lane0 + i) % 256) then .error .scaleMisalign
  else .ok ((List.range 64).map fun i =>
    (rowScale (entry i), (List.range 4).map fun q => x.codes t (entry i) (lane0 + i) (g0 + q) f))

/-- Operands of a pass: A of `pa` with `ta` and its mask or scale tile `ca`, B of `p` with `tb` and `cb`. -/
def passOps (pa p : PassW) (ta tb ca cb : Tile) (laneA laneB kk f : Nat) : Except Cause PassOps :=
  let g0 := p.kg.toNat + 4 * kk
  match p.opk.toNat with
  | 1 =>
    let a := laneRecs ta laneA g0 4
    if !allKind true a then .error .tileFormat
    else match denseGroups tb none laneB (2 * g0) 8 with
      | .error c => .error c
      | .ok b => .ok (.groups (a.map fun r => r.flatMap fun x => [x.half 0, x.half 1]) b true)
  | 3 =>
    match codeLanes ta ca pa.aty.row false pa.atb laneA g0 f, codeLanes tb cb p.bty.row true p.btb laneB g0 f with
    | .error c, _ => .error c
    | _, .error c => .error c
    | .ok a, .ok b => .ok (.codes a b)
  | k =>
    let ma := if k == 2 && !pa.psel then some ca else none
    let mb := if k == 2 && p.psel then some cb else none
    match denseGroups ta ma laneA g0 4, denseGroups tb mb laneB g0 4 with
    | .error c, _ => .error c
    | _, .error c => .error c
    | .ok a, .ok b => .ok (.groups a b false)

/-- The operands of pass `q` of an entry: the odd half of a pair takes A from the even half, as that half reads it: its lanes,
its type, and its mask or scales (R245). -/
def State.entryOps (s : State) (e : Entry) (q : Nat) : Except Cause PassOps :=
  match e.cmd with
  | .mma acc p ta tb tc _ n =>
    let pair := n.isSome
    let (kk, rb, cb) := passAt acc (p.mb pair) (p.nb pair) q
    let tile := fun (t : Option Nat) => s.tileD (t.getD 0)
    let (pa, ta, ca) := match ta, s.partner e with
      | none, some (_, x) => match x.cmd with
        | .mma _ p' ta' _ tc' _ _ => (p', ta', tc')
        | _ => (p, ta, tc)
      | _, _ => (p, ta, tc)
    passOps pa p (tile ta) (tile tb) (tile ca) (tile tc) (64 * pa.aob.toNat + 64 * (rb - viewRows acc))
      (64 * p.bob.toNat + 64 * (cb - viewCols acc)) kk s.free
  | _ => .ok (.groups [] [] false)

/-! ## Faults (R243, R291) -/

/-- A deferred engine fault: the entry and every later entry of its wave go, and the wave traps later (R243). -/
def State.deferFault (s : State) (k : Nat) (e : Entry) (cause : Cause) : State :=
  let gone := (s.entries.filter fun x => k ≤ x.1 && x.2.wave == e.wave).map (·.1)
  (gone.foldl State.removeEntry s).updWave e.wave fun w =>
    { w with dfault := match w.dfault with | some d => some d | none => some { cause := cause, pc := e.pc } }

/-- SCALE_MISALIGN inside an attempt (R291): the attempt is discarded, and the lowest-numbered wave starts at its handler. -/
def State.misalign (s : State) (e : Entry) : State :=
  let g := s.txHome e.wg
  let s := s.discardAttempt g
  let s := (s.halves g).foldl (fun s h => s.updWg h fun w => { w with tx := w.tx.restart w.tx.rung false }) s
  let u := (s.wgD g).waves.headD 0
  let w := s.startWave g 0 (s.pickLane (s.isDet g) (s.wgD g).core 0)
  let s := { s with waves := s.waves.set u w }
  let s := s.updWg g fun x => { x with st := .running, misalign := true }
  let base := (s.ctxD e.ctx).trapbase
  let c : Issue := { wave := u, path := 0, mask := w.liveMask, pc := w.pathPc (w.paths.headD blankPath), next := 0, noLen := true }
  if base.getLsbD 0 then
    s.updWave u fun w => w.enterTrap c { cause := .scaleMisalign, info := 0x23 } (.deferred e.pc) true (s.isDet g) base
  else (s.recordTrap e.ctx .scaleMisalign e.pc).kill3 g

/-! ## Grants (R237, R239, R241) -/

/-- The lowest-numbered free slot goes to a wave, at +0 (R237). Outside an attempt the wave then defers its pre-emption
(R238). -/
def State.takeSlot (s : State) (e : Entry) : State :=
  let w := s.waveD e.wave
  if !e.needsSlot || (s.slotOf w e.wave).isSome then s
  else
    let s := s.updEngine e.cluster fun g =>
      if g.hold0.isNone then { g with hold0 := some e.wave, acc0 := [] } else { g with hold1 := some e.wave, acc1 := [] }
    if s.inAttempt w then s else s.updWave e.wave fun w => { w with owed := true }

/-- Waves whose entries have become eligible acquire slots, those of the oldest entries first (R237). -/
def State.acquireSlots (s : State) : State :=
  s.entries.foldl (fun s x => if s.contends x.1 x.2 then s.takeSlot x.2 else s) s

/-- Grant an entry its next pass, or its command. -/
def State.grantEntry (s : State) (k : Nat) (e : Entry) : State :=
  let s := if e.token then s.updWave e.wave fun w => w.consume e.ch.wtok.toNat else s
  let s := s.takeSlot e
  let s := { s with entries := s.entries.set k { e with token := false, granted := e.granted + 1, busy := true } }
  let s := if e.granted == 0 then e.cmd.fills.foldl (fun s t => (s.unref t).beginFill t) s else s
  match e.cmd with
  | .mma _ _ _ _ _ r _ => s.updWave e.wave fun w => { w with lrung := r }
  | _ => s

/-- The halves of an `MMAP` agree (R245). -/
def agree (a b : Entry) : Bool :=
  match a.cmd, b.cmd with
  | .mma _ p _ _ _ r _, .mma _ q _ _ _ r' _ =>
    p.kg == q.kg && p.nk1 == q.nk1 && p.opk == q.opk && r == r' && p.atb == q.atb && p.btb == q.btb
  | _, _ => true

/-- The records that `MNMSEL` reads are dense (R256, R249). -/
def Tile.allDense (x : Tile) : Bool :=
  (List.range x.rows).all fun l => (List.range (x.width / 48 * 2)).all fun g => !(x.recAt l g).sparse

/-- The fault that the next pass of an entry, or its command, meets at its grant. -/
def State.passFault (s : State) (e : Entry) : Option Cause :=
  match e.cmd with
  | .mnmsel _ _ ts => if (s.tileD ts).allDense then none else some .tileFormat
  | _ => match s.entryOps e e.granted with
    | .error c => some c
    | .ok _ => none

/-- Grant the next pass of an entry, or report its fault. -/
def State.grantOr (s : State) (l : List (Nat × Entry)) : State :=
  match l.find? fun x => (s.passFault x.2).isSome with
  | some (k, e) =>
    let c := (s.passFault e).getD .tileFormat
    if c == .scaleMisalign && e.inTx then s.misalign e else s.deferFault k e c
  | none => l.foldl (fun s x => s.grantEntry x.1 x.2) s

/-- The event `ENGINE_GRANT` (R241). -/
def execEngineGrant (cluster : Nat) (s : State) : Out :=
  match s.granted cluster with
  | [] => .next s
  | [(k, e), (j, x)] =>
    if agree e x then .next (s.grantOr [(k, e), (j, x)])
    else .next ((s.deferFault k e .illegalOperand).deferFault j x .illegalOperand)
  | l => .next (s.grantOr l)

/-! ## Passes and commands end (R231, R252, R269, R271) -/

/-- The accumulator of a wave. -/
def State.accOf (s : State) (e : Entry) : Tab (BitVec 32) :=
  let g := s.engineD e.cluster
  if g.hold0 == some e.wave then g.acc0 else g.acc1

/-- Set the accumulator of a wave. -/
def State.setAcc (s : State) (e : Entry) (t : Tab (BitVec 32)) : State :=
  s.updEngine e.cluster fun g => if g.hold0 == some e.wave then { g with acc0 := t } else { g with acc1 := t }

/-- TXMON of a workgroup's launch (R268). -/
def State.txmonOf (s : State) (g : Nat) : BitVec 64 := (s.gridOf g).lat.txmon

/-- Add a pass's quantities to the attempt's monitors (R269). -/
def Tx.count (x : Tx) (m : Mon) : Tx :=
  { x with n := x.n + m.n, u := x.u + m.u, td := x.td + m.td, half := x.half + m.half, nf := x.nf + m.nf }

/-- The attempt's quantities so far. -/
def Tx.mon (x : Tx) : Mon := { n := x.n, u := x.u, td := x.td, half := x.half, nf := x.nf }

/-- Perform the pass of an entry that ends. -/
def State.endMma (s : State) (e : Entry) : State × Mon :=
  match e.cmd with
  | .mma acc p _ _ _ r n =>
    let pair := n.isSome
    let (_, rb, cb) := passAt acc (p.mb pair) (p.nb pair) (e.granted - 1)
    let odd := pair && (s.wgD e.wg).lin % 2 == 1
    match s.entryOps e (e.granted - 1) with
    | .error _ => (s, {})
    | .ok ops =>
      let x := runPass (planesOf r) (field (s.txmonOf e.wg).toNat 8 5) (!odd) ops (s.accOf e) rb cb
      ((s.setAcc e x.1).drew 1048576, x.2)
  | _ => (s, {})

/-- The copy record that stands for a memory drain's writes (R253). -/
def Entry.asCopy (e : Entry) (t : Nat) (geo : Geometry) : Copy :=
  { wave := e.wave, wg := e.wg, ctx := e.ctx, cluster := e.cluster, kind := .store, cw := CopyWord.ofNat 0, tile := t, geo := geo
    priv := e.priv, fmtchk := false, token := false, started := true, seq := e.seq, inTx := e.inTx }

/-- Write a drain's rows to memory, clipped by the region (R253), in the order of their addresses (R187). -/
def State.drainRows (s : State) (a : Who) (x : Copy) (n : Nat) : List (Nat × List (BitVec 8)) → Option CpErr × State
  | [] => (none, s)
  | (r, bs) :: l => match s.cpWrite a x (n + 1) (x.geo.row r) (bs.take n) with
    | .error (e, s) => (some e, s)
    | .ok s => s.drainRows a x n l

/-- Perform a maximum update of an address (R252), and say how it fails. -/
def State.maxWord (s : State) (a : Who) (va : BitVec 64) (x : BitVec 32) : Option CpErr × State :=
  match s.checkAsuRw a 4 va with
  | .error f => (some { cause := f.cause.code, sub := f.sub, addr := va }, s)
  | .ok pa =>
    let old := s.homeRead pa 4
    let c := (asuCell pa).getD pa
    if s.poisoned pa 4 then (some { cause := 0x13, addr := va }, s)
    else (none, s.writeBytes (homeDie c) (s.asidOf a.ctx) c (toBytes 4 (max old x.toNat)))

/-- The maximum update of a drain: held by an attempt, or for the round's atomics, or performed (R252, R257, R258). -/
def State.maxUpdate (s : State) (e : Entry) (va : BitVec 64) (x : BitVec 32) : Option CpErr × State :=
  let a := s.whoMx e.ctx e.cluster e.priv
  let w := s.waveD e.wave
  let held : HeldMax := { wave := e.wave, addr := va, val := x, priv := e.priv }
  match s.checkAsuRw a 4 va with
  | .error f => (some { cause := f.cause.code, sub := f.sub, addr := va }, s)
  | .ok _ =>
    if e.inTx && s.inAttempt w then (none, s.updTx (s.txHome e.wg) fun t => { t with maxes := t.maxes ++ [held] })
    else if s.isDet e.wg then (none, s.updWg e.wg fun g => { g with maxes := g.maxes ++ [(w.idx, held)] })
    else s.maxWord a va x

/-- A drain that fails: its tiles take ERR, whatever their state (R253). -/
def State.failTiles (s : State) (ts : List Nat) (e : CpErr) : State :=
  ts.foldl (fun s t => s.updTile t fun x =>
    { x with err := true, cause := BitVec.ofNat 8 e.cause, esub := BitVec.ofNat 4 e.sub, eaddr := e.addr }) s

/-- Perform an `MDRAIN` (R252): the main form with its scale entries, the transposed copy, the maximum, the clearing. When the
maximum word fails, the drain ends as for a fault of its rows: TT and tQ are in error state too (log 27). -/
def State.endDrain (s : State) (e : Entry) (acc : Nat) (o : Drain) (td tt tq : Option Nat) (geo : Option Geometry)
    (va : BitVec 64) : State :=
  let mb := o.mb1.toNat + 1
  let nb := o.nb1.toNat + 1
  let t := s.accOf e
  let xs := viewValues t acc mb nb
  let rows : List (List (BitVec 8) × Nat) := ((List.range (64 * mb)).zip xs).map fun r =>
    drainRow o.ofmt.toNat o.sat ((o.tagb.toNat + r.1) % 256) r.2
  let codes : List (List (BitVec 8)) := rows.map Prod.fst
  let put := fun (s : State) (k : Option Nat) (l : List (List (BitVec 8))) => match k with
    | some k => (s.updTile k fun x => x.setRows l).claimVersion e.wg k l.length (l.headD []).length e.priv
    | none => s
  let main : Option CpErr × State := match geo with
    | none => (none, put s td codes)
    | some g =>
      let v := g.valid (64 * mb, drainBytes o.ofmt.toNat (64 * nb))
      s.drainRows (s.whoMx e.ctx e.cluster e.priv) (e.asCopy (td.getD 0) g) v.2
        ((g.ascending v.1).map fun r => (r, codes.getD r []))
  let rest := fun (s : State) =>
    put (put s tq [rows.flatMap fun r => toBytes 4 r.2]) tt ((transpose 0 (64 * nb) xs).map fun r => (drainRow o.tfmt.toNat o.sat 0 r).1)
  let main := if main.1.isNone then (none, rest main.2) else main
  let upd : Option CpErr × State := match main.1 with
    | some x => (some x, main.2)
    | none => if o.aen then main.2.maxUpdate e va (BitVec.ofNat 32 (maxMag (xs.flatMap id))) else (none, main.2)
  match upd.1 with
  | some x => upd.2.failTiles ([td, tt, tq].filterMap id) x
  | none => if o.clr then upd.2.setAcc e (clearViews t acc mb nb) else upd.2

/-- An entry's pass or command has left the array. -/
def State.endEntry (s : State) (k : Nat) (e : Entry) : State × Mon :=
  let r : State × Mon := match e.cmd with
    | .mzero acc mb nb => (s.setAcc e (clearViews (s.accOf e) acc mb nb), {})
    | .mldc acc mb nb f row0 ts => ((s.setAcc e (loadViews (s.accOf e) acc mb nb f row0 (s.tileD ts) s.free)).drew 1048576, {})
    | .mma _ _ _ _ _ _ _ => s.endMma e
    | .mdrain o td tt tq geo va => (s.endDrain e o.acc.toNat o td tt tq geo va, {})
    | .mnmsel of8 td ts => (s.updTile td fun x => { x with recs := selectTile (s.tileD ts) of8 }, {})
  ({ r.1 with entries := r.1.entries.upd k fun e => { e with busy := false, done := e.granted } }, r.2)

/-- The early policy's test after a pass that added `m` (R271). -/
def State.earlyTest (s : State) (g : Nat) (m : Mon) : State :=
  let x := (s.wgD g).tx
  let so := trips (s.txmonOf g) x.mon
  let here := trips (s.txmonOf g) m
  if x.st == .opened && x.early && x.rung != 3 && (here.1 || so.2.1 || so.2.2) then s.requeue g (x.rung + 1) false else s

/-- A pass of an attempt ends: the monitors count it, and the early policy tests (R269, R271). -/
def State.passTest (s : State) (g : Nat) (m : Mon) : State :=
  if (s.wgD g).tx.st == .opened then (s.updTx g fun t => t.count m).earlyTest g m else s

/-- The event `PASS_COMPLETE`: the pass or command that a cluster's engine runs ends; the two halves of an `MMAP` end
together. -/
def execPassComplete (cluster : Nat) (s : State) : Out :=
  match (s.entriesIn cluster).find? (·.2.busy) with
  | none => .next s
  | some (k, e) =>
    let r := s.endEntry k e
    let g := s.txHome e.wg
    match (s.partner e).filter (·.2.busy) with
    | none => .next (if e.inTx then r.1.passTest g r.2 else r.1)
    | some (j, x) =>
      let q := r.1.endEntry j x
      .next (if e.inTx then (q.1.passTest g r.2).passTest g q.2 else q.1)

/-- The event `ENGINE_COMMAND_COMPLETE` (R244): the token is signalled, REFS falls, the tiles filled are ready, and FREE frees
the slot. -/
def execEngineCommandComplete (k : Nat) (s : State) : Out :=
  match s.entries.get? k with
  | none => .next s
  | some e =>
    if e.busy || e.granted == 0 || e.granted != e.total then .next s
    else
      let s := if e.ch.sen then s.updWave e.wave fun w => w.signal e.ch.stok.toNat else s
      let s := s.removeEntry k
      let s := if e.freeing then s.freeSlots e.cluster e.wave else s
      .next (s.settleSlots e.cluster e.wave)

end Sys2Proof.Machine
end

