-- ==== Sys2Proof/Machine/Transactions.lean ====
section
/-! DEFINITION. Machine/Transactions.lean: the transaction class (10_transactions R260 to R291): opening, joining and ending an
attempt, the commit with its monitors, gate, publication and trip log, and the rung history tables. -/

namespace Sys2Proof.Machine

/-! ## Rung history (R276 to R279) -/

/-- The hash of a key (R276). -/
def histHash (kva lin wb : BitVec 64) (cx : Nat) : Nat :=
  ((kva >>> 6) ^^^ (lin * 0x9E3779B9) ^^^ ((wb >>> 6) * 0x85EBCA6B) ^^^ BitVec.ofNat 64 (cx * 2 ^ 40)).toNat

/-- Index of a key (R276). -/
def histIndex (h : Nat) : Nat := (h ^^^ (h / 2 ^ 10) ^^^ (h / 2 ^ 20) ^^^ (h / 2 ^ 30)) % 1024

/-- Tag of a key (R276). -/
def histTag (h : Nat) : BitVec 14 := BitVec.ofNat 14 (h / 2 ^ 40)

/-- The entry that a key hits in a die's table (R277). -/
def State.histHit (s : State) (die h : Nat) : Option Hist :=
  match s.hist.get? (die * 1024 + histIndex h) with
  | some e => if e.tag == histTag h then some e else none
  | none => none

/-- L of a workgroup's key (R276): its linear index, formed from the counts of R323 for a task. -/
def State.histIx (s : State) (g : Nat) : Nat :=
  let w := s.wgD g
  match (s.gridOf g).kind with
  | .task _ _ _ _ _ _ =>
    let n := (s.gridOf g).shape
    w.x.toNat + n.1 * (w.y.toNat + n.2.1 * w.z.toNat)
  | _ => w.lin

/-- The hash of a workgroup's key (R276): of the even half for a pair (R288). -/
def State.histKey (s : State) (g : Nat) : Nat :=
  let wb := match (s.regionsOf g).find? fun r => r.2.writable with | some r => r.2.base | none => 0
  histHash (s.gridOf g).entry (BitVec.ofNat 64 (s.histIx g)) wb (s.ctxOf g)

/-- The start rung of a workgroup that a die dispatches (R264, R278). -/
def State.startRung (s : State) (g die : Nat) : BitVec 2 :=
  match s.hdrOf g with
  | none => 0
  | some h =>
    match s.histHit die (s.histKey (s.txHome g)) with
    | none => h.rung
    | some e =>
      let use := if h.pinned then e.p else !s.isDet g
      if use && 2 ≤ e.conf.toNat && h.rung < e.rung then e.rung else h.rung

/-- The transaction of a workgroup at its first dispatch (R264, R278, R284). -/
def State.initTx (s : State) (g die : Nat) : State :=
  if !s.isTxn g then s
  else
    let r := s.startRung g die
    let b := match s.hdrOf g with | some h => h.rung | none => 0
    s.updTx g fun _ => { rung := r, start := r, status := if b < r then 0x800 else 0 }

/-- The entry after a commit at rung `c` of a workgroup that started at `st` (R279); none: unchanged. `e`: the entry at the
index, if any. -/
def histNew (e : Option Hist) (tag : BitVec 14) (c st : BitVec 2) (below : Bool) : Option Hist :=
  let fresh : Hist := { tag := tag, rung := c, conf := if st < c then 3 else 1, p := false }
  match e with
  | none => some fresh
  | some e =>
    if e.p then none
    else if e.tag != tag then some fresh
    else if st < c then some { e with rung := c, conf := 3 }
    else if below then
      if e.conf.toNat ≤ 1 then
        some { e with rung := if e.conf == 1 then BitVec.ofNat 2 (e.rung.toNat - 1) else e.rung, conf := if e.conf == 1 then 1 else 0 }
      else some { e with conf := e.conf - 1 }
    else if e.rung == c then some { e with conf := if e.conf == 3 then 3 else e.conf + 1 }
    else some { e with rung := c, conf := 1 }

/-- Update the committing die's table (R279). -/
def State.histUpdate (s : State) (g : Nat) : State :=
  let x := (s.wgD g).tx
  let h := s.histKey g
  let k := dieOf (s.wgD g).core * 1024 + histIndex h
  match histNew (s.hist.get? k) (histTag h) x.rung x.start (belowHalf (s.txmonOf g) x.mon) with
  | some e => { s with hist := s.hist.set k e }
  | none => s

/-! ## Opening and joining (R260 to R262, R281) -/

/-- The declared write regions of an attempt (R262): the templates' and those that `TDECL` declared before it opened. -/
def State.writeRegions (s : State) (g : Nat) : List Region :=
  (s.halves g).flatMap fun h =>
    ((s.regionsOf h).map (·.2) ++ (s.wgD h).regions.vals).filter Region.writable

/-- Open an attempt (R281): its counters are zero, and handles and tiles are remembered (R227). -/
def State.openTx (s : State) (g : Nat) : State :=
  let ws := s.writeRegions g
  let s := (s.halves g).foldl (fun s h =>
    let hs := (s.wgD h).handles
    let snaps := hs.map fun b => (b.2, s.tileD b.2)
    s.updTx h fun x => { x with st := .opened, binds := hs, snaps := snaps }) s
  s.updTx g fun x =>
    { x with n := 0, u := 0, td := 0, half := 0, nf := 0, gate := none, writes := ws, status := x.status &&& 0x900 }

/-- `TXBEGIN` (R281). -/
def execTxbegin (h : Hd) (early : Bool) (d : Option Dst) (s : State) : Out :=
  perform s h [] fun c w e =>
    let g := s.txHome w.wg
    let st := (s.wgD g).tx.st
    if !w.converged e then .trap (trapOf .illegalConvergence)
    else if !s.isTxn g || s.inAttempt w || st == .done then .trap (trapOf .queueMisuse)
    else
      let s := if st == .none then s.openTx g else s
      let hdr := match s.hdrOf g with | some x => x.early | none => false
      let s := s.updTx g fun x => { x with early := x.early || early || hdr }
      let rung := (s.wgD g).tx.rung
      let s := s.put c fun w => { w with joined := true }
      optNext s c e h d false (rung.zeroExtend 64)

/-! ## Aborts (R283) -/

/-- Use the attempt that the wave has joined; otherwise trap QUEUE_MISUSE (R282, R283, R286). -/
def inTx (s : State) (w : Wave) (k : Nat → Ans) : Ans :=
  if s.inAttempt w then k (s.txHome w.wg) else .trap (trapOf .queueMisuse)

/-- `TXABORT.up` (R283). -/
def execTxabortUp (h : Hd) (s : State) : Out :=
  perform s h [] fun c w e =>
    if e == 0 then plainNext s c
    else inTx s w fun g =>
      let r := (s.wgD g).tx.rung
      if r != 3 then .next ((s.put c fun w => w.count c.path (edgeAfter c.next)).requeue g (r + 1) true)
      else plainNext (s.updTx g fun x => { x with swUp := true, status := x.status ||| 0x100 }) c

/-- The task of a workgroup has no version that others read (R333, R334). -/
def State.noVersion (s : State) (g : Nat) : State :=
  match (s.wgD g).task with
  | some d => s.updDep d fun t => { t with noVer := true }
  | none => s

/-- `TXABORT.drop` (R283): the workgroup ends without requeue, and its grid retires PARTIAL (R321). -/
def execTxabortDrop (h : Hd) (s : State) : Out :=
  perform s h [] fun c w e =>
    if e == 0 then plainNext s c
    else inTx s w fun g => .next (((s.put c fun w => w.count c.path (edgeAfter c.next)).killWg g).noVersion g)

/-! ## Status, prediction, gate (R284 to R286) -/

/-- A count saturated to 32 bits. -/
def sat32 (n : Nat) : Nat := min n 0xFFFFFFFF

/-- The word of `TXSTAT` (R284). -/
def State.txWord (s : State) (w : Wave) (sel : Nat) : BitVec 64 :=
  let x := (s.wgD (s.txHome w.wg)).tx
  if !s.isTxn w.wg then 0
  else match sel with
    | 0 => BitVec.ofNat 64 (x.rung.toNat + x.start.toNat * 4 + (s.inAttempt w).toNat * 16) ||| x.status
    | 1 => BitVec.ofNat 64 (sat32 x.u + sat32 x.n * 2 ^ 32)
    | _ => BitVec.ofNat 64 (sat32 x.td)

/-- `TXSTAT` (R284). -/
def execTxstat (h : Hd) (sel : BitVec 2) (d : Dst) (s : State) : Out :=
  tileData s h (some d) true true fun c w e => dataNext s c e h d true false fun _ => s.txWord w sel.toNat

/-- The hash of the key that `TXPRED` names (R285); its index must fit 32 bits. -/
def predHash (s : State) (w : Wave) (k : BitVec 6) (idx : Src) (wb : BitVec 6) : Except Trap Nat :=
  let x := rdU w idx
  if x.toNat / 2 ^ 32 != 0 then .error (badField .sb)
  else .ok (histHash (w.sreg k.toNat) x (w.sreg wb.toNat) (s.ctxOf w.wg))

/-- `TXPRED.rd` (R285). -/
def execTxpredRd (h : Hd) (d k : BitVec 6) (idx : Src) (wb : BitVec 6) (s : State) : Out :=
  let dst : Dst := { s := true, n := d.zeroExtend 8 }
  tileData s h (some dst) true true fun c w e =>
    andThen (predHash s w k idx wb) fun key =>
      dataNext s c e h dst true false fun _ => match s.histHit (dieOf (s.coreOf w)) key with
        | some x => BitVec.ofNat 64 (x.rung.toNat + x.conf.toNat * 4 + x.p.toNat * 16 + 32)
        | none => 0

/-- Apply a written value word to a die's table (R285). -/
def predWrite (key x : Nat) (t : Tab Hist) (die : Nat) : Tab Hist :=
  let k := die * 1024 + histIndex key
  if x.testBit 5 then
    t.set k { tag := histTag key, rung := BitVec.ofNat 2 x, conf := BitVec.ofNat 2 (x / 4), p := x.testBit 4 }
  else match t.get? k with
    | some e => if e.tag == histTag key then t.del k else t
    | none => t

/-- `TXPRED.wr` (R285): all four tables; inside an attempt it traps (R263). -/
def execTxpredWr (h : Hd) (d k : BitVec 6) (idx : Src) (wb : BitVec 6) (s : State) : Out :=
  tileOp s h false fun c w _ =>
    guardTrap (s.txTrap w false false) <|
    let x := (w.sreg d.toNat).toNat
    if x / 64 != 0 then .trap (badField .dst)
    else andThen (predHash s w k idx wb) fun key =>
      plainNext { s with hist := (List.range 4).foldl (predWrite key x) s.hist } c

/-- `TXGATE` (R286). -/
def execTxgate (h : Hd) (a : BitVec 6) (x : Src) (s : State) : Out :=
  perform s h [] fun c w e =>
    if e == 0 then plainNext s c
    else inTx s w fun g =>
      let va := w.sreg a.toNat
      if (s.wgD g).tx.gate.isSome then .trap (trapOf .queueMisuse)
      else match s.checkAt (s.whoLs w) .load 8 va with
        | .error f => .trap (fltTrap f va ((slotsOf e).headD 0) 0)
        | .ok _ =>
          plainNext (s.updTx g fun t => { t with gate := some { addr := va, epoch := rd32 w 0 x, wave := c.wave } }) c

/-! ## Commit (R272 to R275) -/

/-- `TXCOMMIT` (R282): the wave waits in the blocking set for the commit. -/
def execTxcommit (h : Hd) (s : State) : Out :=
  perform s h [] fun c w e =>
    if !w.converged e then .trap (trapOf .illegalConvergence)
    else inTx s w fun _ =>
      s.done c fun w =>
        { ((w.updPath c.path fun p => p.hold c .reply).updStrands c.mask fun _ st => { st with latN := 0 }).endTurn with commitWait := true }

/-- Every wave that waits in `TXCOMMIT` continues after it. -/
def State.leaveCommit (s : State) (g : Nat) : State :=
  ((s.halves g).flatMap s.liveWaves).foldl (fun s u => s.updWave u fun w =>
    if !w.commitWait then w
    else
      let ps := (w.paths.filter fun p => p.wait == .reply).map (·.born)
      { ps.foldl Wave.leaveWait w with commitWait := false }) s

/-- The waves of both halves that are live. -/
def State.allLive (s : State) (g : Nat) : List Nat := (s.halves g).flatMap s.liveWaves

/-- Every live wave waits in `TXCOMMIT`, and what the attempt posted and issued has completed (R272, R288). -/
def State.commitReady (s : State) (g : Nat) : Bool :=
  let hs := s.halves g
  let live := s.allLive g
  (s.wgD g).tx.st == .opened && !live.isEmpty && live.all (fun u => (s.waveD u).commitWait) &&
  !(s.entries.any fun e => e.2.inTx && hs.contains e.2.wg) && !(s.copies.any fun x => x.2.inTx && hs.contains x.2.wg)

/-- The lowest-numbered live wave of an attempt. -/
def State.firstLive (s : State) (g : Nat) : Nat := (s.allLive g).headD 0

/-- The record appended to the trip log (R274). -/
def State.tripRecord (s : State) (g : Nat) (status : BitVec 64) : List (BitVec 8) :=
  let w := s.wgD g
  toBytes 8 (s.gridOf g).entry.toNat ++ toBytes 4 w.x.toNat ++ toBytes 4 w.y.toNat ++ toBytes 4 w.z.toNat ++
    toBytes 4 (status.toNat % 2 ^ 32) ++ toBytes 4 (sat32 w.tx.u) ++ toBytes 4 (sat32 w.tx.td)

/-- Append to the trip log (R274), checked at the level of the `TXCOMMIT` (R152): nothing is written and LOGFAIL is set when
an access would fault. -/
def State.tripLog (s : State) (g : Nat) : State :=
  let pol := (s.gridOf g).lat.txpol.toNat
  let base := BitVec.ofNat 64 (field pol 12 44 * 4096)
  let u := s.firstLive g
  let a := s.whoLs (s.waveD u)
  let fails := s.updTx g fun x => { x with status := x.status ||| 0x1000 }
  let word := s.txWord (s.waveD u) 0 &&& ~~~0x10#64 ||| 0x2000
  match s.checkAsuRw a 8 base with
  | .error _ => fails
  | .ok p =>
    let n := s.homeRead p 8
    let va := base + 64 + BitVec.ofNat 64 (32 * (n % 2 ^ field pol 4 4))
    match s.checkAt a .store 32 va with
    | .error _ => fails
    | .ok q =>
      let asid := s.asidOf a.ctx
      let c := (asuCell p).getD p
      (s.writeBytes (homeDie c) asid c (toBytes 8 (n + 1))).writeBytes a.die asid q (s.tripRecord g word)

/-- The task has retired. -/
def Dep.over (e : Dep) : Bool := e.st == .retired || e.st == .draining

/-- The region gets a version, which has not drained (R331). -/
def Dep.undrained (e : Dep) (q : Nat × Region) : Bool := q.2.writable && q.2.fitsTile && !e.drained.contains q.1

/-- An entry holds back what later tasks write to a region (R330): its task has not retired, or a version of it that conflicts
has not drained. -/
def Dep.holdsBack (e : Dep) (r : Region) : Bool := e.regions.any fun q => q.2.meets r && (!e.over || e.undrained q)

/-- An earlier task of the context holds back what a task wrote to one of its regions (R330). -/
def State.heldBack (s : State) (d : Dep) (r : Region) : Bool :=
  s.deps.any fun e => e.2.ctx == d.ctx && e.2.order < d.order && e.2.holdsBack r

/-- The bytes of a version that lie in one of the regions. -/
def verIn (ver : Tab (BitVec 8 × BitVec 2)) (rs : List Region) : Tab (BitVec 8 × BitVec 2) :=
  ver.keep fun a _ => rs.any fun r => (r.locate (BitVec.ofNat 64 a)).isSome

/-- The bytes of a version that lie in none of the regions. -/
def verOut (ver : Tab (BitVec 8 × BitVec 2)) (rs : List Region) : Tab (BitVec 8 × BitVec 2) :=
  ver.keep fun a _ => !rs.any fun r => (r.locate (BitVec.ofNat 64 a)).isSome

/-- Regions of a workgroup's task in which what an attempt wrote stays with the task at the commit, until it may drain (R330,
R334). -/
def State.keptRegions (s : State) (g : Nat) : List Region :=
  match s.depOf g with
  | none => []
  | some d => (d.regions.filter fun q => d.undrained q && s.heldBack d q.2).map (·.2)

/-- Publish the versions (R190): each sector translates again, and one that fails is lost, counted and sets PUBFAIL. What an
earlier task holds back stays with the task. -/
def State.publishTx (s : State) (g : Nat) : State :=
  let cx := s.ctxOf g
  let a := s.whoLs (s.waveD (s.firstLive g))
  let lost := fun (s : State) (c : Cause) =>
    (s.countFault cx 6 c).updTx g fun x => { x with status := x.status ||| 0x4000 }
  let ver := (s.wgD g).ver
  let kept := (s.halves g).map fun h => (h, s.keptRegions h)
  let s := s.publish a ((s.halves g).map fun h => (s.wgD h).core) (verOut ver (kept.flatMap (·.2))) lost
  kept.foldl (fun s h => s.updWg h.1 fun w => { w with ver := verIn ver h.2 }) s

/-- The held maximum updates are performed at the commit (R258), or, in deterministic mode, left for the round's atomics
(R259). -/
def State.commitMaxes (s : State) (g : Nat) : State :=
  let l := (s.wgD g).tx.maxes
  if s.isDet g then
    l.foldl (fun s m => s.updWg (s.waveD m.wave).wg fun w => { w with maxes := w.maxes ++ [((s.waveD m.wave).idx, m)] }) s
  else
    l.foldl (fun s m =>
      let a := s.whoMx (s.ctxOf g) (clusterOf (s.wgD g).core) m.priv
      match s.checkAsuRw a 4 m.addr with
      | .ok _ => (s.maxWord a m.addr m.val).2
      | .error f => (s.countFault (s.ctxOf g) 6 f.cause).updTx g fun x => { x with status := x.status ||| 0x4000 }) s

/-- A slot that a wave holds stops being speculative (R282, R238). -/
def State.keepSlots (s : State) (g : Nat) : State :=
  (s.allLive g).foldl (fun s u =>
    if (s.slotOf (s.waveD u) u).isSome then s.updWave u fun w => { w with owed := true } else s) s

/-- The transaction has ended: the waves continue outside any attempt. -/
def State.endTx (s : State) (g : Nat) (bits : BitVec 64) : State :=
  let s := s.keepSlots g
  let s := (s.halves g).foldl (fun s h => s.updTx h fun x =>
    { x with st := .done, status := x.status ||| bits, gate := none, writes := [], maxes := [], binds := [], snaps := [] }) s
  s.leaveCommit g

/-- Step 6 of R272: publish, append to the trip log, update the history, continue. -/
def State.commitTx (s : State) (g : Nat) : State :=
  let x := (s.wgD g).tx
  let s := if x.toptrip then s.updTx g fun x => { x with status := x.status ||| 0x200 } else s
  let s := (s.publishTx g).commitMaxes g
  let s := if x.toptrip && field (s.gridOf g).lat.txpol.toNat 0 2 == 2 then s.tripLog g else s
  (s.histUpdate g).endTx g 0x2000

/-- Contents of the tiles that were bound at the opening return (R265 step 2). -/
def State.revertContents (s : State) (g : Nat) : State :=
  (s.wgD g).tx.snaps.foldl (fun s e =>
    s.updTile e.1 fun t => { t with bytes := e.2.bytes, recs := e.2.recs, st := e.2.st, err := e.2.err, cause := e.2.cause,
                                    eaddr := e.2.eaddr, esub := e.2.esub }) s

/-- The gate refused the commit (R275): the versions are discarded as R265 step 2 gives, and the waves continue. -/
def State.gateRefused (s : State) (g : Nat) : State :=
  let s := (s.halves g).foldl (fun s h =>
    ((s.dropEngine h).revertContents h).updWg h fun w => { w with ver := [] }) s
  s.endTx g 0x2400

/-- Read the gate word (R275): an acquire at .dev on LS, checked as the wave of the `TXGATE`. `seen`: the state whose memory
the read returns (R289). A failing check traps that wave at its `TXCOMMIT`. -/
def State.readGate (s seen : State) (g : Nat) : State :=
  match (s.wgD g).tx.gate with
  | none => s
  | some t =>
    let u := if (s.allLive g).contains t.wave then t.wave else s.firstLive g
    let w := s.waveD u
    match s.checkAt (s.whoLs w) .load 8 t.addr with
    | .error f =>
      let c := w.issueAt u ((w.paths.headD blankPath).born)
      let s := s.updTx g fun x => { x with st := .opened }
      let s := s.updWave u fun w => { w with commitWait := false }
      s.takeTrap c (fltTrap f t.addr ((slotsOf c.mask).headD 0) 0) .precise
    | .ok pa =>
      let x := ofBytes (seen.readBytes (dieOf (s.coreOf w)) pa 8)
      let e := BitVec.ofNat 32 x
      let s := s.l1DropAll (s.coreOf w)
      if (e - t.epoch).toInt < 0 then s
      else if e == t.epoch && x / 2 ^ 32 == 0 then s.commitTx g
      else s.gateRefused g

/-- Steps 5 and 6 of R272. -/
def State.afterTests (s seen : State) (g : Nat) : State :=
  if (s.wgD g).tx.gate.isSome then (s.updTx g fun x => { x with st := .gating }).readGate seen g else s.commitTx g

/-- TXPOL decides a trip at rung 3 (R273). -/
def State.topRung (s seen : State) (g : Nat) : State :=
  let s := s.updTx g fun x => { x with toptrip := true }
  if field (s.gridOf g).lat.txpol.toNat 0 2 == 1 then
    let s := s.updTx g fun x => { x with st := .trapped }
    let u := s.firstLive g
    let w := s.waveD u
    let c := w.issueAt u ((w.paths.headD blankPath).born)
    s.takeTrap c { cause := .topRungTrip, info := s.txWord w 0 &&& 0xFFFFFFFF } .precise
  else s.afterTests seen g

/-- The commit proceeds (R272 steps 2 to 6); after a top-rung trap whose handler returned it goes on (R273). -/
def State.proceed (s seen : State) (g : Nat) : State :=
  let x := (s.wgD g).tx
  if x.toptrip then s.afterTests seen g else
  let t := trips (s.txmonOf g) x.mon
  let bits := BitVec.ofNat 64 (t.1.toNat * 0x20 + t.2.1.toNat * 0x40 + t.2.2.toNat * 0x80)
  let tripped := t.1 || t.2.1 || t.2.2
  if tripped && x.rung != 3 then s.requeue g (x.rung + 1) false
  else
    let s := s.updTx g fun x => { x with status := x.status ||| bits }
    if tripped || x.swUp then s.topRung seen g else s.afterTests seen g

/-- The event `TX_COMMIT_PROCEED` (R272); in deterministic mode the release round does it (R289). -/
def execTxCommitProceed (wg : Nat) (s : State) : Out :=
  let g := s.txHome wg
  if !s.isDet g && s.commitReady g && !s.stalling then .next (s.proceed s g) else .next s

/-- The gate of a commit is being read. -/
def State.gating (s : State) (g : Nat) : Bool := (s.wgD g).tx.st == .gating && !(s.allLive g).isEmpty

/-- The event `GATE_READ` (R275); in deterministic mode the word is read once per round (R289). -/
def execGateRead (wg : Nat) (s : State) : Out :=
  let g := s.txHome wg
  if !s.isDet g && s.gating g && !s.stalling then .next (s.readGate s g) else .next s

end Sys2Proof.Machine
end

