-- ==== Sys2Proof/Machine/Tasks.lean ====
section
/-! DEFINITION. Machine/Tasks.lean: launch records, task descriptors and kernel headers (12_tasks R320 to R325, R343, 02_encoding
R50, R51), acceptance into queues and into the dependence table (R326, R329, R330, R338), the lottery (R327), and the
instructions of the task class (R342 to R348). -/

namespace Sys2Proof.Machine

/-! ## Records, descriptors, headers -/

/-- The number in bytes `o` to `o + n - 1`. -/
def bytesAt (b : List (BitVec 8)) (o n : Nat) : Nat := ofBytes ((b.drop o).take n)

/-- A launch record (R320), with its field errors noted (R321). -/
def parseRecord (b : List (BitVec 8)) : LaunchRec :=
  let nx := bytesAt b 8 4
  let ny := bytesAt b 12 2
  let nz := bytesAt b 14 2
  let nstr := bytesAt b 16 1
  let fl := bytesAt b 17 1
  let sig := bytesAt b 24 8
  let ok := bytesAt b 0 8 % 64 = 0 && 0 < nx && 0 < ny && 0 < nz && nx * ny * nz < 2 ^ 32 && 1 ≤ nstr && nstr ≤ 32 &&
    fl < 4 && bytesAt b 20 4 = 0 && sig % 8 = 0 && (fl % 2 = 1 || sig = 0) && bytesAt b 36 28 = 0
  { kernel := BitVec.ofNat 64 (bytesAt b 0 8), nx := nx, ny := ny, nz := nz, nstr := nstr, sigen := fl % 2 = 1
    qbar := fl / 2 % 2 = 1, stagger := bytesAt b 18 2, sigaddr := BitVec.ofNat 64 sig
    sigval := BitVec.ofNat 32 (bytesAt b 32 4), args := (List.range 8).map fun i => BitVec.ofNat 64 (bytesAt b (64 + 8 * i) 8)
    bad := !ok }

/-- MODE of a region (R50, R343). -/
def regionMode (n : Nat) : RegionMode := match n with | 0 => .read | 1 => .write | _ => .rw

/-- The limits of R202. -/
def regionOk (rows rowBytes : Nat) (pitch : Int) : Bool :=
  0 < rows && rows ≤ 1048575 && 0 < rowBytes && rowBytes ≤ 1048575 && (rows = 1 || (rowBytes : Int) ≤ pitch)

/-- A region-template record of 64 bytes (R50); none when it is out of range. -/
def parseTemplate (b : List (BitVec 8)) : Option Template :=
  let rows := bytesAt b 32 4
  let rb := bytesAt b 36 4
  let pitch := signedOf 64 (bytesAt b 40 8)
  if regionOk rows rb pitch && bytesAt b 48 1 < 3 && bytesAt b 49 1 < 32 && bytesAt b 50 14 = 0 then
    let at_ := fun o => BitVec.ofNat 64 (bytesAt b o 8)
    some { base := at_ 0, stepx := at_ 8, stepy := at_ 16, stepz := at_ 24, rows := rows, rowBytes := rb, pitch := pitch
           mode := regionMode (bytesAt b 48 1), handle := bytesAt b 49 1 }
  else none

/-- The ranges of a header's fields (R50, R51). -/
def headerOk (b : List (BitVec 8)) : Bool :=
  let wregs := bytesAt b 4 2
  let waves := bytesAt b 6 2
  bytesAt b 0 4 = 0x4B584843 && 4 ≤ wregs && wregs ≤ 256 && wregs % 4 = 0 && 1 ≤ waves && waves ≤ 32 &&
  bytesAt b 12 1 < 4 && bytesAt b 13 1 < 8 && bytesAt b 14 1 ≤ 32 && bytesAt b 15 1 < 4 && bytesAt b 32 2 ≤ 16 &&
  bytesAt b 34 2 ≤ 256 && bytesAt b 36 28 = 0 && wregs * 32 * waves ≤ 65536 && bytesAt b 8 4 + waves * 2704 ≤ 196608

/-- Read and check a kernel header with its tables, as the front end reads them (R51, R152); none: BAD_HEADER. -/
def State.readHeader (s : State) (cx : Nat) (kernel : BitVec 64) : Option Header :=
  let a := s.whoHub cx
  let get := fun (va : BitVec 64) (n : Nat) => (s.readRange a va n).toOption
  match get kernel 64 with
  | none => none
  | some b =>
    if !headerOk b then none
    else
      let nreg := bytesAt b 32 2
      let nsplit := bytesAt b 34 2
      match get (kernel + BitVec.ofNat 64 (bytesAt b 24 8)) (64 * nreg), get (kernel + BitVec.ofNat 64 (bytesAt b 16 8)) (8 * nsplit) with
      | some r, some q =>
        match (chunks 64 r nreg).mapM parseTemplate with
        | none => none
        | some ts =>
          let txn := bytesAt b 12 1
          let rg := bytesAt b 13 1
          let fl := bytesAt b 15 1
          some { wregs := bytesAt b 4 2, waves := bytesAt b 6 2, localSz := bytesAt b 8 4, txn := txn % 2 = 1
                 early := txn / 2 = 1, rung := BitVec.ofNat 2 rg, pinned := rg / 4 = 1, cores := fl % 2 = 1
                 pair := fl / 2 = 1, templs := ts
                 splits := (chunks 8 q nsplit).map fun e => (BitVec.ofNat 32 (bytesAt e 0 4), BitVec.ofNat 32 (bytesAt e 4 4)) }
      | _, _ => none

/-- A task descriptor (R343): its record, index, regions and predicate address. -/
structure TaskDesc where
  lrec : LaunchRec
  x : BitVec 32
  y : BitVec 32
  z : BitVec 32
  regions : List (Nat × Region)
  pred : BitVec 64
  deriving DecidableEq, Repr

/-- A region of a descriptor: 32 bytes (R343). -/
def parseRegion (b : List (BitVec 8)) : Option (Nat × Region) :=
  let rows := bytesAt b 8 4
  let rb := bytesAt b 12 4
  let pitch := signedOf 64 (bytesAt b 16 8)
  if regionOk rows rb pitch && bytesAt b 24 1 < 3 && bytesAt b 25 1 < 32 && bytesAt b 26 6 = 0 then
    some (bytesAt b 25 1, { base := BitVec.ofNat 64 (bytesAt b 0 8), rows := rows, rowBytes := rb, pitch := pitch
                            mode := regionMode (bytesAt b 24 1) })
  else none

/-- A task descriptor, with its field errors noted (R343). `cond`: it is a `TASKC`'s. -/
def parseTask (cond : Bool) (b : List (BitVec 8)) : TaskDesc :=
  let n := bytesAt b 20 1
  let nstr := bytesAt b 21 1
  let pred := bytesAt b 24 8
  let rs := (chunks 32 (b.drop 64) n).mapM parseRegion
  let hs := (rs.getD []).map (·.1)
  let ok := bytesAt b 0 8 % 64 = 0 && n ≤ 16 && 1 ≤ nstr && nstr ≤ 32 && bytesAt b 22 2 = 0 && rs.isSome &&
    hs.eraseDups.length == hs.length && (if cond then pred % 4 = 0 else pred = 0)
  let at_ := fun o => BitVec.ofNat 32 (bytesAt b o 4)
  { lrec := { kernel := BitVec.ofNat 64 (bytesAt b 0 8), nx := 1, ny := 1, nz := 1, nstr := nstr
              args := (List.range 4).map fun i => BitVec.ofNat 64 (bytesAt b (32 + 8 * i) 8), bad := !ok }
    x := at_ 8, y := at_ 12, z := at_ 16, regions := rs.getD [], pred := BitVec.ofNat 64 pred }

/-! ## Accepting grids (R323, R324, R338) -/

/-- The CSRs latched into a launch (R323): `csr` reads one by its number. -/
def latchOf (csr : Nat → BitVec 64) : Latched :=
  { seed := csr 0x100, txmon := csr 0x104, txpol := csr 0x105, detctl := csr 0x107, detq := csr 0x108 }

/-- The grid runs in deterministic mode (R337). -/
def Grid.det (g : Grid) : Bool := g.lat.detctl.getLsbD 0

/-- A grid at the beginning of a round (R338): which of its indices become live. -/
def Grid.nextRound (g : Grid) : Grid :=
  if !g.det then g
  else match g.round with
    | none => { g with round := some 0, ready := List.range (min 1024 g.size), gone := [] }
    | some n =>
      { g with round := some (n + 1), gone := [], ready := g.ready ++ (g.gone.map (· + 1024)).filter fun i => i < g.size }

/-- The waves of a context's deterministic grids begin their parts of a round (R339). -/
def State.freshParts (s : State) (cx : Nat) : State :=
  { s with waves := s.waves.mapVals fun _ w =>
      if (s.gridOf w.wg).ctx == cx && s.isDet w.wg then { w with roundN := 0, partEnd := false } else w }

/-- The L1s of the cores of a context's partition are emptied, at the boundary of a release round (R154, R176). -/
def State.l1DropDies (s : State) (cx : Nat) : State :=
  s.updMem fun m => { m with l1 := m.l1.filter fun x => !(s.ctxD cx).dies.getLsbD (dieOf x.core) }

/-- A release round of a context begins (R338, R176, R378); there is none when no grid of it is in deterministic mode. -/
def State.beginRound (s : State) (cx : Nat) : State :=
  let mine := fun (g : Grid) => g.ctx == cx && g.det
  let s := { s with grids := s.grids.mapVals fun _ g => if mine g then g.nextRound else g }
  let s := { s with wgs := s.wgs.mapVals fun _ w => if mine (s.gridD w.grid) then { w with live := true } else w }
  (s.l1DropDies cx).updCtx cx fun c => { c with roundOpen := s.grids.any fun e => mine e.2 }

/-- Accept a grid: it gets its number, its parent one more child, and a first deterministic grid opens a round. -/
def State.acceptGrid (s : State) (g : Grid) : Nat × State :=
  let (k, s) := s.newUid
  let n := (s.ctxD g.ctx).accepted
  let s := { s with grids := s.grids.set k { g with number := n } }
  let s := s.updCtx g.ctx fun c => { c with accepted := n + 1 }
  let s := match g.parent with
    | some u => s.updWave u fun w => { w with kids := w.kids + 1 }
    | none => s
  (k, if g.det && !(s.ctxD g.ctx).roundOpen then ((s.freshParts g.ctx).beginRound g.ctx).readCsrs g.ctx else s)

/-! ## The dependence table (R329, R330) -/

/-- Dies of a context's partition, ascending (R16). -/
def Ctx.dieList (c : Ctx) : List Nat := (List.range 4).filter fun d => c.dies.getLsbD d

/-- The version of an earlier entry is not renamed past: a task that reads what the earlier one writes (R330). -/
def Dep.rawOn (t e : Dep) : Bool :=
  e.regions.any fun r => t.regions.any fun q => r.2.writable && q.2.mode != .write && r.2.meets q.2

/-- A region of the task that is not renamed is written directly, and so after every earlier conflict: after what earlier
tasks did, and after the drains of their versions (R331, R336). -/
def Dep.plainWait (t e : Dep) : Bool := t.regions.any fun q => q.2.writable && !q.2.fitsTile && e.holdsBack q.2

/-- The task reads what a sibling wrote whose version has not drained (R353). -/
def Dep.sibWait (t e : Dep) : Bool :=
  e.regions.any fun r => e.undrained r && t.regions.any fun q => q.2.mode != .write && r.2.meets q.2

/-- The task cannot be dispatched because of an entry (R330, R353). -/
def Dep.waitsFor (t e : Dep) : Bool :=
  e.ctx == t.ctx && e.order < t.order && !(e.sib && e.grid == t.grid) &&
  (t.plainWait e || (t.rawOn e && !e.over) || (e.sib && t.sibWait e))

/-- The die whose dependence table holds a context's tasks (R329): the one at position c mod D of its partition. -/
def State.tableDie (s : State) (cx : Nat) : Nat :=
  let ds := (s.ctxD cx).dieList
  ds.getD (cx % max 1 ds.length) 0

/-- Entries in use of the table that holds a context's tasks: contexts may share it (R329). -/
def State.depCount (s : State) (cx : Nat) : Nat := (s.deps.filter fun e => e.2.die == s.tableDie cx).length

/-- Enter a workgroup of a grid as a task, in task order (R329). A task that reads what a killed task wrote will not run
(R333). -/
def State.addDep (s : State) (k lin : Nat) : State :=
  let g := s.gridD k
  let (d, s) := s.newUid
  let (x, y, z) := g.index lin
  let t : Dep := { ctx := g.ctx, die := s.tableDie g.ctx, grid := k, lin := lin, regions := g.regions x y z, order := d, det := g.det, num := g.number }
  let t := match g.kind with
    | .task _ _ _ _ p inv => { t with pred := p, inv := inv }
    | .siblings _ _ _ => { t with sib := true }
    | .launch => t
  let dead := s.deps.any fun e => (e.2.poison || e.2.status == some 6) && e.2.ctx == g.ctx && t.rawOn e.2
  { s with deps := s.deps.set d { t with poison := dead } }

/-- The workgroups of the grid are tasks (R329, R353). -/
def Grid.hasDeps (g : Grid) : Bool :=
  match g.kind with
  | .launch => match g.hdr with | some h => !h.templs.isEmpty | none => false
  | _ => true

/-- Accept the next workgroups of a grid, ascending, while the table has room; the front end waits otherwise (R329). -/
def State.acceptMore (s : State) (k : Nat) : Nat → State
  | 0 => s
  | n + 1 =>
    let g := s.gridD k
    if g.started && g.fail.isNone && g.hasDeps && g.next < g.size && s.depCount g.ctx < 4096 then
      ((s.addDep k g.next).updGrid k fun g => { g with next := g.next + 1 }).acceptMore k n
    else s

/-- Entries became free: the grids that wait for some of the table are served in acceptance order. -/
def State.acceptWaiting (s : State) (cx : Nat) : State :=
  (s.grids.filter fun e => s.tableDie e.2.ctx == s.tableDie cx).foldl (fun s e => s.acceptMore e.1 4096) s

/-! ## Cores with room (R16, R328, R394) -/

/-- A cluster that a context's workgroups may use: released, and of its world (R415, R394). -/
def State.clusterFor (s : State) (c : Ctx) (k : Nat) : Bool :=
  decide (k / 8 < s.hub.groups) && s.secCluster k == c.world.getLsbD 0

/-- Cores of a die that a context may use. -/
def State.coresOfDie (s : State) (cx d : Nat) : List Nat :=
  ((List.range 240).map (240 * d + ·)).filter fun k => s.clusterFor (s.ctxD cx) (clusterOf k)

/-- Resident waves on a core. -/
def State.residentOn (s : State) (core : Nat) : Nat := ((s.wavesOn core).filter (·.2.resident)).length

/-- The core with room that has the fewest resident waves, the lowest on a tie (R328). -/
def State.pickCore (s : State) (h : Header) (cores : List Nat) : Option Nat :=
  cores.foldl (fun best k =>
    if !s.roomFor h k then best
    else match best with
      | none => some k
      | some b => if s.residentOn k < s.residentOn b then some k else some b) none

/-- Cores of a cluster. -/
def coresOf (cluster : Nat) : List Nat := (List.range 4).map (4 * cluster + ·)

/-- Two cores of one pair site whose clusters have room for the tiles, the even half's first: the site with the fewest resident
waves on them. -/
def State.pickPair (s : State) (h : Header) (cx d : Nat) (room : Nat → Bool) : Option (Nat × Nat) :=
  (List.range 30).foldl (fun best i =>
    let c := 60 * d + 2 * i
    if !(s.clusterFor (s.ctxD cx) c && s.clusterFor (s.ctxD cx) (c + 1) && room c && room (c + 1)) then best
    else match s.pickCore h (coresOf c), s.pickCore h (coresOf (c + 1)), best with
      | some a, some b, none => some (a, b)
      | some a, some b, some (p, q) =>
        if s.residentOn a + s.residentOn b < s.residentOn p + s.residentOn q then some (a, b) else some (p, q)
      | _, _, _ => best) none

/-! ## Making workgroups -/

/-- A workgroup record of a grid's index L on a core (R50, R202, R323). -/
def State.newWg (s : State) (k lin core : Nat) (st : WgSt) : Nat × State :=
  let g := s.gridD k
  let (n, s) := s.newUid
  let (x, y, z) := g.index lin
  let w : Wg := { grid := k, lin := lin, x := x, y := y, z := z, core := core, st := st,
                  regions := Tab.setAll ([] : Tab Region) (g.regions x y z) }
  (n, { s with wgs := s.wgs.set n w })

/-- Make workgroup L of a launch resident on a core (R328). -/
def State.placeWg (s : State) (k lin core : Nat) : Nat × State :=
  let (g, s) := s.newWg k lin core .running
  let s := (s.startWaves g core).initTx g (dieOf core)
  (g, s.updGrid k fun x => { x with next := x.next + 1, ready := x.ready.filter (· != lin) })

/-- Make a pair resident: L and L + 1 on two cores of a pair site. -/
def State.placePair (s : State) (k lin : Nat) (cores : Nat × Nat) : State :=
  let (a, s) := s.placeWg k lin cores.1
  let (b, s) := s.placeWg k (lin + 1) cores.2
  let s := (s.updWg a fun w => { w with pair := some b }).updWg b fun w => { w with pair := some a }
  s.initTx a (dieOf cores.1)

/-- Tile-table entries that each workgroup of a grid takes when it is dispatched (R331, R332). -/
def Grid.tileCount (g : Grid) : Nat := ((g.regions 0 0 0).filter fun e => e.2.fitsTile).length

/-- A cluster has entries for one more workgroup of a grid, of the 512 of its table (R197). -/
def State.tilesFor (s : State) (k cluster : Nat) : Bool :=
  let n := (s.gridD k).tileCount
  let mine := (s.wgs.filter fun e => e.2.grid == k && e.2.handles.isEmpty && clusterOf e.2.core == cluster).length
  s.tilesIn cluster + n * (mine + 1) ≤ 512

/-- Place workgroup L, or the pair that begins at L, in a die. -/
def State.placeIn (s : State) (k lin d : Nat) : Option State :=
  let g := s.gridD k
  match g.hdr with
  | none => none
  | some h =>
    let room := s.tilesFor k
    if h.pair then (s.pickPair h g.ctx d room).map (s.placePair k lin)
    else (s.pickCore h ((s.coresOfDie g.ctx d).filter fun c => room (clusterOf c))).map fun c => (s.placeWg k lin c).2

/-- The dies of a partition in the order in which an index is offered to them (R328). -/
def offerOrder (dies : List Nat) (n : Nat) : List Nat :=
  let i := n % max 1 dies.length
  dies.drop i ++ dies.take i

/-- Place workgroup L in the first die of the order that has room. -/
def State.placeFirst (s : State) (k lin : Nat) : List Nat → Option State
  | [] => none
  | d :: r => match s.placeIn k lin d with
    | some s => some s
    | none => s.placeFirst k lin r

/-- Place every workgroup of a grid at once, from index `lin` on (R328). -/
def State.placeAll (s : State) (k : Nat) : Nat → Nat → Option State
  | 0, _ => some s
  | n + 1, lin =>
    let g := s.gridD k
    let step := match g.hdr with | some h => if h.pair then 2 else 1 | none => 1
    if g.size ≤ lin then some s
    else match s.placeFirst k lin (offerOrder (s.ctxD g.ctx).dieList (lin / step)) with
      | none => none
      | some s => s.placeAll k n (lin + step)

/-- A co-resident grid could fit on the partition with every cluster of it empty (R23, R328): its waves, the entries of its
tiles, and, when its workgroups are tasks, those of the dependence table. -/
def State.couldFit (s : State) (k : Nat) : Bool :=
  let g := s.gridD k
  g.size ≤ (if g.hasDeps then 4096 else 61440) &&
  (({ s with wgs := [], waves := [], claims := [], tiles := [] } : State).placeAll k g.size 0).isSome

/-! ## Decided failures and the lottery (R321, R326, R327) -/

/-- The failure of a grid decided before dispatch (R321), with its header read (R51). -/
def State.prepare (s : State) (k : Nat) : State :=
  let g := s.gridD k
  let hdr := s.readHeader g.ctx g.lrec.kernel
  let s := s.updGrid k fun g => { g with started := true, hdr := hdr }
  let task := match g.kind with | .task _ _ _ _ _ _ => true | _ => false
  let fail : Option Nat :=
    if g.lrec.bad then some 1
    else match hdr with
      | none => some 2
      | some h =>
        if task && (h.pair || h.cores) then some 1
        else if h.pair && g.lrec.nx % 2 == 1 then some 1
        else if h.cores && !s.couldFit k then some 3
        else none
  s.updGrid k fun g => { g with fail := fail }

/-- A launch of the device is being dispatched (R326). -/
def Grid.dispatching (g : Grid) : Bool := g.started && g.fail.isNone && g.next < g.size && g.kind == .launch

/-- The first pending record of a queue (R326). -/
def HwQueue.first (q : HwQueue) : Option Nat := (q.kids ++ q.recs).head?

/-- A queue's first record may start (R326): with QBAR, every launch that its queue has started before it has retired. -/
def State.mayStart (s : State) (k : Nat) : Bool :=
  let g := s.gridD k
  !g.lrec.qbar || !(s.grids.any fun e => e.2.ctx == g.ctx && e.2.queue == g.queue && e.2.kind == .launch && e.2.started)

/-- Eligible queues in ascending (context, queue) order: context, queue, tickets, record (R326). -/
def State.eligibleQueues (s : State) : List (Nat × Nat × Nat × Nat) :=
  if 64 ≤ (s.grids.filter fun e => e.2.dispatching).length then []
  else s.ctxs.flatMap fun c =>
    if c.2.st != .running then []
    else c.2.queues.filterMap fun q => match q.2.first with
      | some k => if s.mayStart k then some (c.1, q.1, q.2.tickets, k) else none
      | none => none

/-- One step of the lottery's generator (R327). -/
def lotteryStep (x : BitVec 32) : BitVec 32 :=
  let x := x ^^^ (x <<< 13)
  let x := x ^^^ (x >>> 17)
  x ^^^ (x <<< 5)

/-- Walk the eligible queues by tickets (R327). -/
def lotteryWalk : Nat → List (Nat × Nat × Nat × Nat) → Option Nat
  | _, [] => none
  | r, (_, _, t, k) :: rest => if r < t then some k else lotteryWalk (r - t) rest

/-- The queue that a draw picks. -/
def lotteryPick (x : BitVec 32) (qs : List (Nat × Nat × Nat × Nat)) : Option Nat :=
  let t := qs.foldl (fun n q => n + q.2.2.1) 0
  if t = 0 then qs.head?.map (·.2.2.2) else lotteryWalk (x.toNat % t) qs

/-- The event `LOTTERY_DRAW` (R327): the chosen queue's first record becomes the next launch, and its tasks are accepted. -/
def execLotteryDraw (s : State) : Out :=
  let qs := s.eligibleQueues
  if qs.isEmpty then .next s
  else
    let x := lotteryStep s.hub.lottery
    let s := s.updHub fun h => { h with lottery := x }
    match lotteryPick x qs with
    | none => .next s
    | some k => .next (((s.unqueue k).prepare k).acceptMore k 4096)

/-! ## LAUNCH, TASK, TASKC (R344) -/

/-- Every access of the wave is performed (R325). -/
def State.waveQuiet (s : State) (u : Nat) : Bool :=
  !s.posted u 0xFFFFFFFF && !(s.copies.any fun x => x.2.wave == u) && !(s.entries.any fun x => x.2.wave == u) &&
  !(s.xfers.any fun x => x.2.wave == u) && !(s.loads.any fun x => x.2.wave == u)

/-- Bytes that a wave reads as an acquire on LS, over its own versions (R344). -/
def State.snapshot (s : State) (w : Wave) (va : BitVec 64) (n slot : Nat) : Except Trap (List (BitVec 8)) :=
  match s.readRange (s.whoLs w) va n with
  | .error (f, at_) => .error (fltTrap f at_ slot 0)
  | .ok bs => .ok (s.seen w.wg va bs s.free)

/-- A child of the issuing wave (R324): the grid without its record. -/
def State.childOf (s : State) (c : Issue) (w : Wave) (q : Nat) (kind : GridKind) (r : LaunchRec) : Grid :=
  let g := s.gridOf w.wg
  { ctx := g.ctx, queue := q, kind := kind, lrec := r, parent := some c.wave, depth := g.depth + 1, lat := latchOf (s.csrFor w.wg) }

/-- The frame of the three instructions (R344): checks, the release round, and the wait for earlier accesses. -/
def childAns (s : State) (c : Issue) (w : Wave) (e : BitVec 32) (va : BitVec 64) (k : Nat → Ans) : Ans :=
  if e == 0 then plainNext s c
  else guardTrap (s.txTrap w false false)
    (if 10 < (s.gridOf w.wg).depth + 1 then .trap (trapOf .nestingOverflow)
    else
      let slot := (slotsOf e).headD 0
      match s.checkAt (s.whoLs w) .load 64 va with
      | .error f => .trap (fltTrap f va slot 0)
      | .ok _ => if s.stages c w then .stage else if !s.waveQuiet c.wave then .wait false else k slot)

/-- Retire after starting a child: the strands of the path defer, and the acquire empties the L1. -/
def childDone (s : State) (c : Issue) (w : Wave) : Ans :=
  deferNext ((s.l1DropAll (s.coreOf w)).drew 1024) c

/-- `LAUNCH` (R344). -/
def execLaunch (h : Hd) (a : BitVec 6) (q : BitVec 6) (same : Bool) (s : State) : Out :=
  perform s h [] fun c w e =>
    let va := w.sreg a.toNat
    childAns s c w e va fun slot =>
      andThen (s.snapshot w va 128 slot) fun b =>
        let q := if same then (s.gridOf w.wg).queue else q.toNat
        let (k, s) := s.acceptGrid (s.childOf c w q .launch (parseRecord b))
        let s := s.updCtx (s.ctxOf w.wg) fun x =>
          let hq := x.queues.getD q {}
          { x with queues := x.queues.set q { hq with kids := hq.kids ++ [k] } }
        childDone s c w

/-! ## JOINC, QRY, DETSYNC, TASKQ -/

/-- Retire an instruction of the blocking set with a result (R39): its own latch is the one that is valid. -/
def blockData (s : State) (c : Issue) (e : BitVec 32) (h : Hd) (d : Dst) (w64 : Bool) (x : BitVec 64) : Ans :=
  s.done c fun w => w.retireBlockData c e h.nwb d w64 x

/-- `JOINC` (R345): waits in the blocking set; its return is an acquire at .dev. -/
def execJoinc (h : Hd) (d : Dst) (s : State) : Out :=
  tileData s h (some d) false false fun c w e =>
    if 0 < w.kids then .wait true
    else
      let s := (s.l1DropAll (s.coreOf w)).put c fun w => { w with kidMask := 0 }
      blockData s c e h d false (w.kidMask.zeroExtend 64)

/-- The value of `QRY` (R346). -/
def State.query (s : State) (w : Wave) (o : QrySel) : Nat :=
  let g := s.gridOf w.wg
  match o with
  | .split idx => match g.hdr with
    | some h => (((h.splits.find? fun e => e.1 == rd32 w 0 idx).map (·.2.toNat))).getD 0
    | none => 0
  | .depth => g.depth
  | .lin => (s.wgD w.wg).lin
  | .nwg => g.size
  | .kids => w.kids
  | .tasks => 4096 - s.depCount g.ctx
  | .round => if g.det then g.round.getD 0 else 0

/-- `QRY` (R346). -/
def execQry (h : Hd) (d : Dst) (o : QrySel) (s : State) : Out :=
  tileData s h (some d) true false fun c w e => dataNext s c e h d true false fun _ => BitVec.ofNat 64 (s.query w o)

/-- `DETSYNC` (R347). -/
def execDetsync (h : Hd) (s : State) : Out :=
  tileOp s h false fun c w _ => if s.stages c w then .stage else plainNext s c

/-- A queue of the issuing context. -/
def State.hwQueue (s : State) (w : Wave) (q : Nat) : HwQueue := (s.ctxD (s.ctxOf w.wg)).queues.getD q {}

/-- `TASKQ.rd` (R348). -/
def execTaskqRd (h : Hd) (d : Dst) (q : Src) (s : State) : Out :=
  tileData s h (some d) true false fun c w e =>
    let n := (rdU w q).toNat
    if 63 < n then .trap (badField .sa)
    else
      let x := s.hwQueue w n
      dataNext s c e h d true false fun _ => BitVec.ofNat 64 (x.tickets + x.first.isSome.toNat * 256)

/-- `TASKQ.wr` (R348). -/
def execTaskqWr (h : Hd) (q t : Src) (s : State) : Out :=
  tileOp s h false fun c w _ =>
    let n := (rdU w q).toNat
    let x := (rdU w t).toNat
    if 63 < n then .trap (badField .sa)
    else if 255 < x then .trap (badField .sb)
    else plainNext (s.updCtx (s.ctxOf w.wg) fun cx =>
      { cx with queues := cx.queues.set n { cx.queues.getD n {} with tickets := x } }) c

end Sys2Proof.Machine
end

