-- ==== Sys2Proof/Machine/Place.lean ====
section
/-! DEFINITION. Machine/Place.lean: dispatch (12_tasks R328, 10_transactions R265, R290), tasks and their versions and staged tiles
(R330 to R335, 13_groups_stamps R353), and the swap area of the ticket unit (R338). -/

namespace Sys2Proof.Machine

/-! ## What a wave waits for -/

/-- The instruction at which a path of a wave stands, in the window that it has entered. -/
def State.standsAt (s : State) (w : Wave) (p : Path) : Option Instr :=
  let pc := w.pathPc p
  match fetchWord (s.decCtx w) pc (p.buf.drop (pc.toNat % 32)) with
  | .word i _ => some i
  | .trap _ _ _ => none

/-- The wave waits in `JOINC` (R324). -/
def State.joining (s : State) (u : Nat) : Bool :=
  let w := s.waveD u
  w.st == .running && 0 < w.kids && !w.paths.isEmpty && w.paths.all fun p =>
    p.wait == .retry true && (match s.standsAt w p with | some (.joinc _ _) => true | _ => false)

/-- Request pre-emption of a workgroup: of both halves of a pair, and of every sibling of an open group (R387, R359). -/
def State.requestDrop (s : State) (g : Nat) : State :=
  let k := (s.wgD g).grid
  let open_ := (s.wgD g).sib.isSome && !(s.gridD k).sgDone
  let all := if open_ then (s.wgs.filter fun e => e.2.grid == k).map (·.1) else s.halves g
  all.foldl (fun s h => (s.wgD h).waves.foldl (fun s u =>
    s.updWave u fun w => if w.st == .running || w.st == .halted then { w with dropReq := true } else w) s) s

/-- A workgroup of the context whose every live wave waits in `JOINC` (R324). -/
def State.joiner (s : State) (cx : Nat) : Option Nat :=
  (s.wgs.find? fun e => e.2.st == .running && s.ctxOf e.1 == cx && !s.isDet e.1 && !(s.liveWaves e.1).isEmpty &&
    (s.liveWaves e.1).all s.joining).map (·.1)

/-- No core has room for a child: a workgroup that waits for its children is pre-empted for it (R324). -/
def State.makeRoom (s : State) (k : Nat) : State :=
  if (s.gridD k).parent.isNone then s
  else match s.joiner (s.gridD k).ctx with
    | some o => s.requestDrop o
    | none => s

/-- Replays that wait in a queue of a context. -/
def State.replaysOf (s : State) (cx q : Nat) : List Nat :=
  (s.wgs.filter fun e => e.2.st == .replay && s.ctxOf e.1 == cx && (s.gridOf e.1).queue == q).map (·.1)

/-! ## The swap area (R338) -/

/-- The workgroup has finished its part of the round: its waves have ended their parts, or can do nothing more in it. -/
def State.partOver (s : State) (g : Nat) : Bool :=
  (s.liveWaves g).all fun u => (s.waveD u).partEnd || s.waveIdle u

/-- Put a workgroup into the swap area, with its other half. -/
def State.swapOut (s : State) (g : Nat) : State :=
  (s.halves g).foldl (fun s h => s.updWg h fun w => { w with st := .swapped, live := false }) s

/-- A workgroup of a context's deterministic grids on a core of a list that may be swapped out. -/
def State.swappable (s : State) (cx : Nat) (cores : List Nat) : Option Nat :=
  (s.wgs.find? fun e => s.isDet e.1 && s.ctxOf e.1 == cx && cores.contains e.2.core &&
    (s.halves e.1).all fun h => (s.wgD h).st == .running && s.partOver h).map (·.1)

/-- A swapped workgroup whose next part has not run. -/
def State.swapPending (s : State) (k : Nat) : Option Nat :=
  (s.wgs.find? fun e => e.2.grid == k && e.2.st == .swapped && e.2.live).map (·.1)

/-- Room for a swapped workgroup on its core: its waves, its registers and its local store; and no claim waits there (R311). -/
def State.roomSwap (s : State) (g : Nat) : Bool :=
  let core := (s.wgD g).core
  (s.claims.getD core []).isEmpty &&
  let regs := (s.wgD g).waves.foldl (fun n u =>
    let w := s.waveD u
    n + if w.resident then 32 * w.win else 0) 0
  match s.hdrOf g with
  | none => false
  | some h => s.slotsOn core + h.waves ≤ 64 && regs ≤ s.regFree core && s.localUsed core + h.localTotal ≤ 196608

/-- Find room for something, putting as many workgroups on some cores into the swap area as it takes (R338). -/
def State.swapUntil (s : State) (cx : Nat) (cores : List Nat) (f : State → Option State) : Nat → Option State
  | 0 => f s
  | n + 1 => match f s with
    | some t => some t
    | none => match s.swappable cx cores with
      | none => none
      | some o => (s.swapOut o).swapUntil cx cores f n

/-- Bring a workgroup back from the swap area, swapping others out for it where that helps. -/
def State.swapIn (s : State) (g : Nat) : State :=
  let hs := s.halves g
  let back := fun (t : State) =>
    if hs.all t.roomSwap then some (hs.foldl (fun t h => t.updWg h fun w => { w with st := .running }) t) else none
  (s.swapUntil (s.ctxOf g) (hs.map fun h => (s.wgD h).core) back 128).getD s

/-! ## Dependences (R330) -/

/-- Every entry that a task waits for has let it go. -/
def State.depClear (s : State) (d : Dep) : Bool := !(s.deps.any fun e => d.waitsFor e.2)

/-- In deterministic mode, the task's index is live (R338). -/
def State.liveDep (s : State) (d : Dep) : Bool :=
  let g := s.gridD d.grid
  !g.det || ((s.ctxD d.ctx).roundOpen && g.ready.contains d.lin)

/-- The task may be dispatched, room aside. -/
def State.depReady (s : State) (d : Dep) : Bool :=
  d.st == .waiting && !d.poison && d.pred.isNone && (s.ctxD d.ctx).st == .running && (s.gridD d.grid).fail.isNone &&
  s.liveDep d && s.depClear d

/-- Tasks that read what a task was to write will not run (R333). -/
def State.poisonAfter (s : State) (d : Dep) : State :=
  { s with deps := s.deps.mapVals fun _ e =>
      if e.ctx == d.ctx && d.order < e.order && e.st == .waiting && e.rawOn d then { e with poison := true } else e }

/-- Take an entry out of the table, with its version tiles (R198, R331); tasks that wait for room are accepted (R329). -/
def State.freeDep (s : State) (d : Nat) : State :=
  match s.deps.get? d with
  | none => s
  | some e =>
    let s := { s with deps := s.deps.del d }
    let s := e.tiles.foldl (fun s t =>
      (s.updTile t.2 fun x => { x with vers := false, st := if x.st == .draining then .ready else x.st }).dropHold t.2) s
    s.acceptWaiting e.ctx

/-- A task that does not run retires with a status (R333, R335). -/
def State.skipTask (s : State) (d : Nat) (code : Nat) : State :=
  match s.deps.get? d with
  | none => s
  | some e =>
    let s := if code == 5 then s.poisonAfter e else s
    let s := s.updGrid e.grid fun g =>
      let g := { g with retired := g.retired + 1, ready := g.ready.filter (· != e.lin), gone := g.gone ++ [e.lin] }
      match g.kind with
      | .task _ _ _ _ _ _ => { g with fail := some code }
      | _ => if code == 5 then { g.lose [e.lin] with poisoned := true } else g
    (s.unshare e.grid).freeDep d

/-! ## Which versions may drain (R330) -/

/-- Siblings of one group drain in ascending index (R353). -/
def State.sibBefore (s : State) (e : Dep) : Bool :=
  e.sib && s.deps.any fun x => x.2.grid == e.grid && x.2.lin < e.lin && !x.2.noVer

/-- The regions whose versions may drain now (R330): the task has retired, it is not held (R353), and no earlier task holds
them back. -/
def State.readyRegions (s : State) (e : Dep) : List (Nat × Region) :=
  if e.st != .retired || e.held || s.sibBefore e then [] else e.regions.filter fun q => e.undrained q && !s.heldBack e q.2

/-- Some version of an entry is due to drain, or all have drained (R330). -/
def State.drainDue (s : State) (e : Dep) : Bool :=
  e.st == .retired && !e.held && !s.sibBefore e && (!(s.readyRegions e).isEmpty || !e.regions.any e.undrained)

/-- The entry's drain may be performed now: no migration holds accesses (R159). -/
def State.drainReady (s : State) (e : Dep) : Bool := s.drainDue e && !s.stalling

/-! ## Versions, staged and shared tiles (R331, R332, R353) -/

/-- Regions of a task that get a tile: whether it is a version, and whether it is staged. -/
def tileRegions (sib : Bool) (rs : List (Nat × Region)) : List (Nat × Region × Bool × Bool) :=
  (rs.filter fun e => e.2.fitsTile && (e.2.writable || !sib)).map fun e => (e.1, e.2, e.2.writable, e.2.mode != .write)

/-- Make one tile of a task and bind it. An unfilled version is ready, as its drain needs it (R198, R330). -/
def State.makeTile (s : State) (g d cluster : Nat) (x : Nat × Region × Bool × Bool) : State :=
  let (t, s) := s.newUid
  let tile : Tile := { cluster := cluster, ctx := s.ctxOf g, planar := false, rows := x.2.1.rows, width := x.2.1.width
                       vers := x.2.2.1, st := if x.2.2.2 then .filling else .ready }
  let s := { s with tiles := s.tiles.set t tile }
  let s := s.updWg g fun w => { w with handles := w.handles.set x.1 t }
  if x.2.2.1 then s.updDep d fun e => { e with tiles := e.tiles ++ [(x.1, t)] } else s

/-- Bind a shared tile to a sibling: the tile itself on its cluster, else a copy of it (R353). -/
def State.shareTile (s : State) (g cluster : Nat) (x : Nat × Nat) : State :=
  let t := s.tileD x.2
  let (k, s) := if t.cluster == cluster then (x.2, s)
    else
      let (k, s) := s.newUid
      (k, { s with tiles := s.tiles.set k { t with cluster := cluster, refs := 0, vers := false, released := false, st := .ready } })
  s.updWg g fun w => { w with handles := w.handles.set x.1 k, shared := w.shared ||| slotBit x.1 }

/-- Tile-table entries that a task needs in a cluster. -/
def State.tilesNeeded (s : State) (d : Dep) (cluster : Nat) : Nat :=
  (tileRegions d.sib d.regions).length +
    ((s.gridD d.grid).sharedTiles.filter fun x => (s.tileD x.2).cluster != cluster).length

/-- Dispatch a task to a core (R330 to R332): its versions and staged tiles are made, its waves seated. -/
def State.placeTask (s : State) (d core : Nat) : Nat × State :=
  let e := (s.deps.getD d { ctx := 0, grid := 0, lin := 0, regions := [] })
  let k := e.grid
  let (g, s) := s.newWg k e.lin core .staging
  let s := s.updWg g fun w => { w with task := some d }
  let s := match (s.gridD k).kind with
    | .siblings obj pa _ => s.updWg g fun w => { w with sib := some { obj := obj, pa := pa, index := e.lin } }
    | _ => s
  let s := (s.gridD k).sharedTiles.foldl (fun s x => s.shareTile g (clusterOf core) x) s
  let s := (tileRegions e.sib e.regions).foldl (fun s x => s.makeTile g d (clusterOf core) x) s
  let s := (s.startWaves g core).initTx g (dieOf core)
  let s := s.updDep d fun e => { e with st := .staging, wg := some g }
  (g, s.updGrid k fun x => { x with ready := x.ready.filter (· != e.lin) })

/-- A cluster has room for a task's tiles (R197). -/
def State.tileRoom (s : State) (d : Dep) (cluster : Nat) : Bool := s.tilesIn cluster + s.tilesNeeded d cluster ≤ 512

/-- The other half's entry of a task of a pair launch. -/
def State.otherHalf (s : State) (d : Dep) : Option Nat :=
  s.deps.findKey fun _ e => e.grid == d.grid && e.lin == (if d.lin % 2 == 0 then d.lin + 1 else d.lin - 1)

/-- Dispatch a task in a die: with the other half, when it is a pair's. -/
def State.taskIn (s : State) (k : Nat) (d : Dep) (die : Nat) : Option State :=
  match (s.gridD d.grid).hdr with
  | none => none
  | some h =>
    if h.pair then
      match s.otherHalf d, s.pickPair h d.ctx die (s.tileRoom d) with
      | some o, some (a, b) =>
        if !(s.depReady (s.deps.getD o d)) then none
        else
          let (i, j) := if d.lin % 2 == 0 then (k, o) else (o, k)
          let (x, s) := s.placeTask i a
          let (y, s) := s.placeTask j b
          some (((s.updWg x fun w => { w with pair := some y }).updWg y fun w => { w with pair := some x }).initTx x (dieOf a))
      | _, _ => none
    else (s.pickCore h ((s.coresOfDie d.ctx die).filter fun c => s.tileRoom d (clusterOf c))).map fun c => (s.placeTask k c).2

/-- Dispatch a task in the first die of the partition that has room, from the one of its index on. -/
def State.taskFirst (s : State) (k : Nat) (d : Dep) : List Nat → Option State
  | [] => none
  | x :: r => match s.taskIn k d x with
    | some s => some s
    | none => s.taskFirst k d r

/-- Dispatch a ready task where there is room. -/
def State.placeDep (s : State) (k : Nat) : Option State :=
  match s.deps.get? k with
  | none => none
  | some d =>
    let dies := (s.ctxD d.ctx).dieList
    let place := fun (t : State) => t.taskFirst k d (offerOrder dies d.lin)
    if !s.depReady d then none
    else if d.det then s.swapUntil d.ctx (dies.flatMap (s.coresOfDie d.ctx)) place 61440
    else place s

/-! ## Predicates (R335) -/

/-- A conditional task's predicate can be read now (R335): its last dependence has resolved. -/
def State.predReady (s : State) (d : Dep) : Bool :=
  d.pred.isSome && d.st == .waiting && !d.poison && (s.ctxD d.ctx).st == .running && s.depClear d

/-- The predicate word (R335): a byte that the task declares as read is what R330 gives the task (R428). -/
def State.predWord (s : State) (d : Dep) (a : Who) (va : BitVec 64) (pa : Nat) : Nat :=
  ofBytes (((List.range 4).zip (s.readBytes a.die pa 4)).map fun x =>
    let v := va + BitVec.ofNat 64 x.1
    if d.regions.any fun q => q.2.mode != .write && (q.2.locate v).isSome then (s.olderByte d v).getD x.2 else x.2)

/-- Read the predicate of a conditional task, which then waits for its dispatch, or retires (R335). -/
def State.readPred (s : State) (k : Nat) : State :=
  match s.deps.get? k with
  | none => s
  | some d =>
    match d.pred with
    | none => s
    | some va =>
      if !s.predReady d then s
      else
        let a := s.whoHub d.ctx
        match s.checkAt a .load 4 va with
        | .error f => (s.countFault d.ctx 2 f.cause).skipTask k 1
        | .ok pa =>
          if (s.predWord d a va pa != 0) != d.inv then s.updDep k fun e => { e with pred := none } else s.skipTask k 4

/-- Read every predicate whose task's last dependence has just resolved (R335): a task that is skipped may be the last
dependence of another. -/
def State.readPreds (s : State) : Nat → State
  | 0 => s
  | n + 1 => match s.deps.findKey fun _ d => s.predReady d with
    | some k => (s.readPred k).readPreds n
    | none => s

/-- Dependences may have resolved (R335). -/
def State.resolved (s : State) : State := s.readPreds s.deps.length

/-- The event `CONDITIONAL_PREDICATE_READ` (R335), where the context did not run when the last dependence resolved. -/
def execConditionalPredicateRead (k : Nat) (s : State) : Out := .next (s.readPred k).resolved

/-- The event `TASK_DISPATCH` (R330, R333): replays of the queue go first (R265). Where no core has room for it, a workgroup
that waits for its children makes room (R324). -/
def execTaskDispatch (k : Nat) (s : State) : Out :=
  match s.deps.get? k with
  | none => .next s
  | some d =>
    if d.poison && d.st == .waiting then .next (s.skipTask k 5).resolved
    else if (match (s.gridD d.grid).hdr with | some h => h.cores | none => false) then .next s
    else if !s.depReady d || !(s.replaysOf d.ctx (s.gridD d.grid).queue).isEmpty then .next s
    else .next ((s.placeDep k).getD (s.makeRoom d.grid))

/-- One row of a staged tile: from the newest version, else from memory, and zero bytes up to the width (R332). -/
def State.stageRow (s : State) (d : Dep) (a : Who) (r : Region) (i : Nat) : Except CpErr (List (BitVec 8)) :=
  let va := r.base + BitVec.ofInt 64 ((i : Int) * r.pitch)
  match s.readRange a va r.rowBytes with
  | .error (f, at_) => .error { cause := f.cause.code, sub := f.sub, addr := at_ }
  | .ok bs =>
    let under := ((List.range bs.length).zip bs).map fun x => (s.olderByte d (va + BitVec.ofNat 64 x.1)).getD x.2
    match s.poisonIn a (r.rowBytes + 1) va r.rowBytes with
    | some at_ => .error { cause := 0x13, addr := at_ }
    | none => .ok (padTo r.width 0 under)

/-- Fill a staged tile: a CP copy by the scheduler, at level 0 (R332, R152). -/
def State.stageTile (s : State) (d : Dep) (g : Nat) (h : Nat) (r : Region) : State :=
  match (s.wgD g).handles.get? h with
  | none => s
  | some t =>
    let a := s.whoCp d.ctx (clusterOf (s.wgD g).core) 0
    match allOk (s.stageRow d a r) (List.range r.rows) with
    | .ok rows => s.updTile t fun x => { x with bytes := byteTable (rows.flatMap id), st := .ready, err := false }
    | .error e => s.updTile t fun x => x.settled (some e)

/-- The workgroups that start with a task: its half, and for a co-resident grid all of them, once all are staged. -/
def State.startGroup (s : State) (d : Dep) : List Nat :=
  match d.wg with
  | none => []
  | some g =>
    let k := s.gridD d.grid
    if (match k.hdr with | some h => h.cores | none => false) then
      ((s.wgs.filter fun e => e.2.grid == d.grid).map (·.1))
    else s.halves g

/-- Start the waves of staged workgroups, when each of them is staged (R332, R328). -/
def State.startStaged (s : State) (gs : List Nat) : State :=
  let staged := fun g => match s.depOf g with | some e => e.st == .running | none => true
  if gs.all staged then
    gs.foldl (fun s g => s.updWg g fun w => if w.st == .staging then { w with st := .running } else w) s
  else s

/-- The event `TASK_STAGED_START` (R332): the staged tiles become ready and the task starts. -/
def execTaskStagedStart (k : Nat) (s : State) : Out :=
  match s.deps.get? k with
  | none => .next s
  | some d =>
    match d.wg with
    | none => .next s
    | some g =>
      if d.st != .staging then .next s
      else
        let s := ((tileRegions d.sib d.regions).filter (·.2.2.2)).foldl (fun s x => s.stageTile d g x.1 x.2.1) s
        let s := s.updDep k fun e => { e with st := .running }
        .next (s.startStaged (s.startGroup d))

/-! ## TASK and TASKC (R344) -/

/-- Start a task from its descriptor (R329, R343): one with a field error, or a bad header, ends without running. A
predicate without dependences is read now (R335). -/
def State.startTask (s : State) (c : Issue) (w : Wave) (d : TaskDesc) (cond inv : Bool) : State :=
  let kind := GridKind.task d.x d.y d.z d.regions (if cond then some d.pred else none) inv
  let (k, s) := s.acceptGrid (s.childOf c w (s.gridOf w.wg).queue kind d.lrec)
  ((s.prepare k).acceptMore k 1).resolved

/-- `TASK` and `TASKC` (R344); with the table full they stall (R329). -/
def taskAns (s : State) (c : Issue) (w : Wave) (e : BitVec 32) (a : BitVec 6) (cond inv : Bool) : Ans :=
  let va := w.sreg a.toNat
  childAns s c w e va fun slot =>
    if 4096 ≤ s.depCount (s.ctxOf w.wg) then .wait false
    else andThen (s.snapshot w va 64 slot) fun b =>
      andThen (s.snapshot w (va + 64) (32 * bytesAt b 20 1) slot) fun r =>
        childDone (s.startTask c w (parseTask cond (b ++ r)) cond inv) c w

/-- `TASK` (R344). -/
def execTask (h : Hd) (a : BitVec 6) (s : State) : Out := perform s h [] fun c w e => taskAns s c w e a false false

/-- `TASKC` (R344, R335). -/
def execTaskc (h : Hd) (a : BitVec 6) (inv : Bool) (s : State) : Out := perform s h [] fun c w e => taskAns s c w e a true inv

/-! ## Workgroups of launches (R328, R265) -/

/-- The first core of a cluster with room (R265). -/
def State.firstCore (s : State) (h : Header) (cluster : Nat) : Option Nat := (coresOf cluster).find? (s.roomFor h)

/-- Tiles that a workgroup's handles and queues name. -/
def Wg.tileNames (g : Wg) : List Nat := (g.handles.vals ++ g.queues.flatMap fun q => q.2.tiles.map (·.2)).eraseDups

/-- Entries that a workgroup's tiles need in a cluster's table when it comes back (R393). -/
def State.tilesBack (s : State) (g : Nat) : List Nat := (s.wgD g).tileNames.filter fun t => (s.tileD t).away

/-- Staged read regions of a task are staged again (R393, R332). -/
def State.restage (s : State) (g : Nat) : State :=
  match (s.wgD g).task, s.depOf g with
  | some _, some d =>
    if d.st == .staging then s
    else ((tileRegions d.sib d.regions).filter fun x => !x.2.2.1 && x.2.2.2).foldl (fun s x => s.stageTile d g x.1 x.2.1) s
  | _, _ => s

/-- Tiles that a context switch took away are in the table of the workgroup's cluster again (R393): the versions of its task
as they were, the others empty and in error state, and staged read regions filled anew. -/
def State.bringTiles (s : State) (g : Nat) : State :=
  let c := clusterOf (s.wgD g).core
  let ts := s.tilesBack g
  let s := ts.foldl (fun s t => s.updTile t fun x => { x with away := false, cluster := c }) s
  if ts.isEmpty then s else s.restage g

/-- The tiles of a workgroup that are away have room in its cluster. -/
def State.roomTiles (s : State) (g : Nat) : Bool := s.tilesIn (clusterOf (s.wgD g).core) + (s.tilesBack g).length ≤ 512

/-- The workgroup's task is still being staged (R332). -/
def State.unstaged (s : State) (g : Nat) : Bool := match s.depOf g with | some d => d.st == .staging | none => false

/-- Seat a replay in the cluster that ran the attempt, or in its pair site (R265): a task that had not been staged is staged
first (R332), and tiles that a context switch took away come back (R393, R290). -/
def State.seatReplay (s : State) (g : Nat) : Option State :=
  match s.hdrOf g with
  | none => none
  | some h =>
    let hs := s.halves g
    let cores := hs.map fun x => s.firstCore h (clusterOf (s.wgD x).core)
    if cores.all (·.isSome) && hs.all s.roomTiles then
      some ((hs.zip cores).foldl (fun s x =>
        let s := s.startWaves x.1 (x.2.getD 0)
        let rs := s.regionsOf x.1
        (s.updWg x.1 fun w =>
          { w with st := if s.unstaged x.1 then .staging else .running, regions := Tab.setAll ([] : Tab Region) rs }).bringTiles x.1) s)
    else none

/-- Dispatch a replay (R265); in deterministic mode others may go to the swap area for it (R338). -/
def State.replay (s : State) (g : Nat) : State :=
  let cores := (s.halves g).flatMap fun x => coresOf (clusterOf (s.wgD x).core)
  (if s.isDet g then s.swapUntil (s.ctxOf g) cores (fun t => t.seatReplay g) 512 else s.seatReplay g).getD s

/-- A task could be dispatched in a die now (R328: before workgroups of launches). -/
def State.taskFits (s : State) (die : Nat) : Bool :=
  s.deps.any fun e => (s.ctxD e.2.ctx).dies.getLsbD die && s.depReady e.2 &&
    !(match (s.gridD e.2.grid).hdr with | some h => h.cores | none => false) &&
    (s.replaysOf e.2.ctx (s.gridD e.2.grid).queue).isEmpty && (s.taskIn e.1 e.2 die).isSome

/-- The index that a launch offers next (R328, R338). -/
def Grid.offer (g : Grid) : Option Nat :=
  if g.det then g.ready.foldl (fun m i => match m with | none => some i | some j => some (min i j)) none
  else if g.next < g.size then some g.next else none

/-- The die to which a grid's next index is offered. -/
def State.offerDie (s : State) (k lin : Nat) : Nat :=
  let g := s.gridD k
  let step := match g.hdr with | some h => if h.pair then 2 else 1 | none => 1
  g.die.getD ((offerOrder (s.ctxD g.ctx).dieList (lin / step)).headD 0)

/-- The grid's workgroups are offered one after the other (R328): a started launch without tasks that is not co-resident. -/
def State.offers (s : State) (k : Nat) : Bool :=
  let g := s.gridD k
  g.started && g.fail.isNone && g.kind == .launch && !g.hasDeps && (s.ctxD g.ctx).st == .running &&
  (match g.hdr with | some h => !h.cores | none => false) && (!g.det || (s.ctxD g.ctx).roundOpen)

/-- Place the next workgroup of a launch in the die it is offered to; in deterministic mode another workgroup may go to the
swap area for it (R338). -/
def State.placeNext (s : State) (k : Nat) : Option State :=
  match (s.gridD k).offer with
  | none => none
  | some lin =>
    let g := s.gridD k
    let d := s.offerDie k lin
    if g.det then s.swapUntil g.ctx (s.coresOfDie g.ctx d) (fun t => t.placeIn k lin d) 15360 else s.placeIn k lin d

/-- The event `WORKGROUP_DISPATCH` (R328): a replay first, then a workgroup back from the swap area, then the next index. While
the context is switched out, dispatch has stopped (R393), and a workgroup comes back from the swap area for its next part. -/
def execWorkgroupDispatch (k : Nat) (s : State) : Out :=
  let g := s.gridD k
  let runs := (s.ctxD g.ctx).st == .running
  let replay := (s.replaysOf g.ctx g.queue).find? fun r => runs && (s.wgD r).grid == k
  match replay, s.swapPending k with
  | some r, _ => .next (s.replay r)
  | none, some o => .next (if runs || (s.ctxD g.ctx).st == .leaving then s.swapIn o else s)
  | none, none =>
      if !(s.replaysOf g.ctx g.queue).isEmpty || !s.offers k then .next s
      else match g.offer with
        | none => .next s
        | some lin =>
          if s.taskFits (s.offerDie k lin) then .next s
          else match s.placeNext k with
            | none => .next s
            | some s => .next (s.updGrid k fun x => { x with die := none })

/-- The die after one in a partition (R328). -/
def nextDie (dies : List Nat) (d : Nat) : Nat := ((dies.find? fun x => d < x).orElse fun _ => dies.head?).getD d

/-- The event `DISPATCH_OFFER_TIMEOUT` (R328): the offer passes to the next die. Where no die has room for a child, a workgroup
that waits for its children may be pre-empted (R324). -/
def execDispatchOfferTimeout (k : Nat) (s : State) : Out :=
  let g := s.gridD k
  if !s.offers k then .next s
  else match g.offer with
    | none => .next s
    | some lin =>
      let d := s.offerDie k lin
      if (s.placeIn k lin d).isSome then .next s
      else
        let dies := (s.ctxD g.ctx).dieList
        let full := dies.all fun x => (s.placeIn k lin x).isNone
        let s := s.updGrid k fun x => { x with die := some (nextDie dies d) }
        .next (if full then s.makeRoom k else s)

/-- Dispatch every task of a co-resident grid at once. -/
def State.placeDeps (s : State) : List Nat → Option State
  | [] => some s
  | d :: r =>
    if ((s.deps.get? d).any fun e => e.st == .waiting) then
      match s.placeDep d with
      | some s => s.placeDeps r
      | none => none
    else s.placeDeps r

/-- Place every workgroup of a co-resident grid (R328). -/
def State.placeCores (s : State) (k : Nat) : Option State :=
  let g := s.gridD k
  if g.hasDeps then s.placeDeps ((s.deps.filter fun e => e.2.grid == k).map (·.1)) else s.placeAll k g.size 0

/-- Every workgroup of a co-resident grid waits for its placement. -/
def State.coresWait (s : State) (k : Nat) : Bool :=
  let g := s.gridD k
  (match g.hdr with | some h => h.cores | none => false) && g.started && g.fail.isNone && (s.ctxD g.ctx).st == .running &&
  (!g.det || (s.ctxD g.ctx).roundOpen) &&
  if g.hasDeps then
    let ds := s.deps.filter fun e => e.2.grid == k
    g.next == g.size && !ds.isEmpty && ds.all fun e => s.depReady e.2
  else g.next == 0

/-- The event `CORESIDENT_PLACEMENT` (R328): every workgroup is placed at once, or none. Replays of the queue and ready tasks go
first (R265); in deterministic mode other workgroups may go to the swap area for it (R338). -/
def execCoresidentPlacement (k : Nat) (s : State) : Out :=
  let g := s.gridD k
  let dies := (s.ctxD g.ctx).dieList
  if !s.coresWait k || !(s.replaysOf g.ctx g.queue).isEmpty || (!g.hasDeps && dies.any s.taskFits) then .next s
  else
    let t := if g.det then s.swapUntil g.ctx (dies.flatMap (s.coresOfDie g.ctx)) (fun t => t.placeCores k) 61440
      else s.placeCores k
    .next (t.getD (s.makeRoom k))

end Sys2Proof.Machine
end

