-- ==== Sys2Proof/Machine/Groups.lean ====
section
/-! DEFINITION. Machine/Groups.lean: sample groups (13_groups_stamps R349 to R359, R370 to R372). -/

namespace Sys2Proof.Machine

/-! ## The object (R349, R350) -/

/-- Physical address of a byte of an object: its lines may lie on two pages. -/
def State.objPa (s : State) (cx : Nat) (va : BitVec 64) (pa off : Nat) : Nat :=
  if va.toNat % 4096 + off < 4096 then pa + off
  else
    let a : Who := { ctx := cx, priv := 2, die := homeDie ((asuCell pa).getD 0), sec := s.secAsu (asuOf ((asuCell pa).getD 0)) }
    match s.translate a .load (va + BitVec.ofNat 64 off) with
    | .ok p => p
    | .error _ => pa + off

/-- An object in memory: its context and addresses, and the core whose wave acts on it, if one does. -/
structure ObjAt where
  ctx : Nat
  va  : BitVec 64
  pa  : Nat
  core : Option Nat := none
  deriving DecidableEq, Repr

/-- Read bytes of an object. -/
def State.objRead (s : State) (o : ObjAt) (off n : Nat) : Nat := s.homeRead (s.objPa o.ctx o.va o.pa off) n

/-- Write bytes of an object; the L1 of the acting wave's core loses the line (R154). -/
def State.objWrite (s : State) (o : ObjAt) (off n x : Nat) : State :=
  let p := s.objPa o.ctx o.va o.pa off
  let c := (asuCell p).getD p
  let s := s.writeBytes (homeDie c) (s.asidOf o.ctx) c (toBytes n x)
  match o.core with
  | some k => s.l1Drop k (p / 64)
  | none => s

/-- A page of the object is stalled for a migration (R159). -/
def State.objStalled (s : State) (o : ObjAt) : Bool := s.stalledAt (s.objPa o.ctx o.va o.pa 0) || s.stalledAt (s.objPa o.ctx o.va o.pa 639)

/-- The header of a group (R349). -/
structure SgHdr where
  g        : Nat
  status   : Nat
  valid    : Nat
  reported : Nat
  cancel   : Nat
  budget   : Nat
  timedout : Nat
  bad      : Bool
  deriving DecidableEq, Repr

/-- STATUS.OPEN. -/
def SgHdr.open (h : SgHdr) : Bool := h.status.testBit 0
/-- STATUS.DONE. -/
def SgHdr.done (h : SgHdr) : Bool := h.status.testBit 2

/-- Read the header, and whether it is malformed (R351). -/
def State.sgHdr (s : State) (o : ObjAt) : SgHdr :=
  let rd := s.objRead o
  let g := rd 0 4
  let masks := [rd 8 8, rd 16 8, rd 24 8, rd 40 8]
  { g := g, status := rd 4 4, valid := rd 8 8, reported := rd 16 8, cancel := rd 24 8, budget := rd 32 8, timedout := rd 40 8
    bad := g < 1 || 64 < g || rd 4 4 / 32 != 0 || rd 48 8 != 0 || rd 56 8 != 0 || masks.any fun m => m / 2 ^ g != 0 }

/-- The sibling grid of an object's open group. -/
def State.sgGrid (s : State) (o : ObjAt) : Option Nat :=
  (s.grids.find? fun e => !e.2.sgDone && e.2.ctx == o.ctx && match e.2.kind with
    | .siblings _ pa _ => pa == o.pa
    | _ => false).map (·.1)

/-! ## Statistics (R355) -/

/-- An FP32 operation rounded at nearest even, with subnormals kept (R355). -/
def rne32 (f : Fmt → FEnv → FVal → FVal → FRes) (a b : Nat) : Nat :=
  (f fmt32 plainEnv (fmt32.read false a) (fmt32.read false b)).1

/-- The FP32 pattern is NaN or infinite. -/
def nonfinite32 (x : Nat) : Bool := field x 23 8 == 255

/-- What the statistics are: μ, variance, σ, n, advantages by index, and the STATUS bits they set. -/
structure SgStats where
  mean : Nat
  var  : Nat
  sigma : Nat
  n    : Nat
  adv  : Tab Nat
  bits : Nat
  deriving DecidableEq, Repr

/-- The statistics of R355 over the rewards of the valid siblings, by index. -/
def sgStats (rew : List (Nat × Nat)) (eps : Nat) : SgStats :=
  let n := rew.length
  let nf := smallToFp 32 23 127 (n : Int)
  let s := rew.foldl (fun s x => rne32 fadd s x.2) 0
  let mu := if n = 0 then 0 else rne32 fdiv s nf
  let q := rew.foldl (fun q x => let d := rne32 fsub x.2 mu; rne32 fadd q (rne32 fmul d d)) 0
  let var := if n = 0 then 0 else rne32 fdiv q nf
  let sg := if n = 0 then 0 else (fsqrt fmt32 plainEnv (fmt32.read false var)).1
  let zero := n ≤ 1 || sg % 2 ^ 31 == 0
  let e := rne32 fadd sg eps
  { mean := mu, var := var, sigma := sg, n := n
    adv := if zero then [] else rew.map fun x => (x.1, rne32 fdiv (rne32 fsub x.2 mu) e)
    bits := 4 + (if zero then 8 else 0) + if rew.any fun x => nonfinite32 x.2 then 16 else 0 }

/-- At DONE, versions of valid siblings may drain and all others are discarded (R353). -/
def State.releaseVersions (s : State) (k valid : Nat) : State :=
  let s := s.updGrid k fun g => { g with sgDone := true }
  (s.deps.filter fun e => e.2.grid == k).foldl (fun s e =>
    if valid.testBit e.2.lin then s.updDep e.1 fun d => { d with held := false }
    else
      let s := s.updDep e.1 fun d => { d with held := false, noVer := true, ver := [] }
      if e.2.st == .retired then s.freeDep e.1 else s) s

/-- Compute and write the statistics when every valid sibling has reported (R355). -/
def State.sgFinish (s : State) (o : ObjAt) : State :=
  let h := s.sgHdr o
  if !h.open || h.valid &&& h.reported != h.valid then s
  else
    let is := (List.range h.g).filter h.valid.testBit
    let t := sgStats (is.map fun i => (i, s.objRead o (64 + 4 * i) 4)) (s.objRead o 588 4)
    let s := (List.range 64).foldl (fun s i => s.objWrite o (320 + 4 * i) 4 (t.adv.getD i 0)) s
    let s := (((s.objWrite o 576 4 t.mean).objWrite o 580 4 t.var).objWrite o 584 4 t.sigma).objWrite o 592 4 t.n
    let s := s.objWrite o 4 4 (t.bits + if h.status.testBit 1 then 2 else 0)
    match s.sgGrid o with
    | some k => s.releaseVersions k h.valid
    | none => s

/-! ## Cancelling (R354) -/

/-- Discard the waves of sibling `i` (R354): one that has not started never runs. -/
def State.discardSibling (s : State) (k i : Nat) : State :=
  match s.deps.find? fun e => e.2.grid == k && e.2.lin == i with
  | none => s
  | some (d, e) =>
    match e.wg with
    | none => if e.st == .waiting then s.skipTask d 0 else s
    | some g =>
      let s := (s.wgD g).waves.foldl State.endWave s
      s.updWg g fun w => { w with sib := w.sib.map fun x => { x with reported := true } }

/-- Cancel a sibling in the object (R354) and discard its waves. -/
def State.sgCancel (s : State) (o : ObjAt) (i : Nat) (timeout : Bool) : State :=
  let h := s.sgHdr o
  let s := s.objWrite o 8 8 (h.valid &&& (2 ^ 64 - 1 - 2 ^ i))
  let s := s.objWrite o 24 8 (h.cancel ||| 2 ^ i)
  let s := if timeout then s.objWrite o 40 8 (h.timedout ||| 2 ^ i) else s
  match s.sgGrid o with
  | some k => s.discardSibling k i
  | none => s

/-! ## Operations at the unit (R351, R371, R372) -/

/-- SG_MISUSE with a reason. -/
def sgMisuse (reason : Nat) : Trap := { cause := .sgMisuse, info := BitVec.ofNat 64 reason }

/-- Perform an operation on a group. -/
def State.asuSg (s : State) (r : AsuReq) : Reply × State :=
  let o : ObjAt := { ctx := r.ctx, va := r.va, pa := r.pa, core := some (s.wgD r.wg).core }
  let h := s.sgHdr o
  let i := r.x.toNat
  let live := h.open || h.done
  let fin := fun (x : Nat) (s : State) => (Reply.val (BitVec.ofNat 64 x), (s.sgFinish o).asuL1 r)
  if h.bad then (.trap (sgMisuse 2), s)
  else match r.op with
    | .sginfo sel => (.val (BitVec.ofNat 64 (match sel with
        | 0 => h.status + h.g * 2 ^ 32
        | 1 => h.valid
        | 2 => h.reported
        | 3 => h.cancel
        | _ => h.timedout)), s.asuL1 r)
    | .sgreward =>
      if !live then (.trap (sgMisuse 7), s)
      else if h.g ≤ i then (.trap (sgMisuse 3), s)
      else if h.done || h.cancel.testBit i then fin 0 s
      else if h.reported.testBit i then (.trap (sgMisuse 4), s)
      else fin 1 ((s.objWrite o (64 + 4 * i) 4 (r.y.toNat % 2 ^ 32)).objWrite o 16 8 (h.reported ||| 2 ^ i))
    | .sgcancel =>
      if !live then (.trap (sgMisuse 7), s)
      else if h.g ≤ i then (.trap (sgMisuse 3), s)
      else fin 0 (if h.open then s.sgCancel o i false else s)
    | _ =>
      if !live then (.trap (sgMisuse 7), s)
      else if !h.open then fin 0 s
      else
        let s := s.objWrite o 4 4 (h.status ||| 2)
        let is := (List.range h.g).filter fun i => h.valid.testBit i && !h.reported.testBit i
        fin 0 (is.foldl (fun s i => s.sgCancel o i false) s)

/-! ## Instructions -/

/-- The checks of an object (R351): every line of it, as R293 gives. -/
def State.checkObj (s : State) (w : Wave) (va : BitVec 64) (slot : Nat) : Except Trap Nat :=
  let bad := (List.range 10).findSome? fun i =>
    match s.checkAsuRw (s.whoLs w) 64 (va + BitVec.ofNat 64 (64 * i)) with
    | .error f => some (fltTrap f (va + BitVec.ofNat 64 (64 * i)) slot 0)
    | .ok _ => none
  match bad, s.checkAsuRw (s.whoLs w) 64 va with
  | some t, _ => .error t
  | none, .ok pa => .ok pa
  | none, .error f => .error (fltTrap f va slot 0)

/-- No return slot is free for the wave (R369, R294). -/
def State.slotless (s : State) (w : Wave) : Bool := 32 ≤ s.slotsUsed (s.coreOf w) w.lane

/-- The frame of the sample-group instructions (R369): collective, with a checked object. -/
def sgOp (s : State) (h : Hd) (srcs : List Src) (obj : BitVec 6) (within : Bool) (k : Issue → Wave → BitVec 64 → Nat → Ans) :
    Out :=
  perform s h srcs fun c w e =>
    if !w.converged e then .trap (trapOf .illegalConvergence)
    else guardTrap (s.txTrap w false within)
      (let va := w.sreg obj.toNat
       andThen (s.checkObj w va ((slotsOf e).headD 0)) fun pa => k c w va pa)

/-- `SGREWARD` (R371). -/
def execSgreward (h : Hd) (d : Dst) (obj : BitVec 6) (idx rew : Src) (s : State) : Out :=
  sgOp s h [] obj false fun c w va pa =>
    preciseAns s c w { s.mkReq c w w.liveMask .sgreward va pa with
                       x := rdU w idx, y := rdTy .f32 w 0 rew, d := some d, nwb := h.nwb } true State.asuSg

/-- `SGCANCEL` (R371). -/
def execSgcancel (h : Hd) (obj : BitVec 6) (idx : Src) (s : State) : Out :=
  sgOp s h [] obj false fun c w va pa =>
    preciseAns s c w { s.mkReq c w w.liveMask .sgcancel va pa with x := rdU w idx } true State.asuSg

/-- `SGCLOSE` (R371). -/
def execSgclose (h : Hd) (obj : BitVec 6) (s : State) : Out :=
  sgOp s h [] obj false fun c w va pa => preciseAns s c w (s.mkReq c w w.liveMask .sgclose va pa) true State.asuSg

/-- `SGINFO` (R372). -/
def execSginfo (h : Hd) (sel : BitVec 3) (d : Dst) (obj : BitVec 6) (s : State) : Out :=
  sgOp s h [] obj true fun c w va pa =>
    preciseAns s c w { s.mkReq c w w.liveMask (.sginfo sel.toNat) va pa with d := some d, w64 := true, nwb := h.nwb } false
      State.asuSg

/-- `SGWAIT` (R372): in the blocking set. -/
def execSgwait (h : Hd) (d : Dst) (obj : BitVec 6) (s : State) : Out :=
  sgOp s h [] obj true fun c w va pa =>
    let x := s.sgHdr { ctx := s.ctxOf w.wg, va := va, pa := pa }
    if s.slotless w then .wait false
    else if x.bad then .trap (sgMisuse 2)
    else if x.done then blockData (s.l1DropAll (s.coreOf w)) c w.liveMask h d false (BitVec.ofNat 64 x.status)
    else if x.open then .wait true
    else .trap (sgMisuse 7)

/-- What the shared tiles of an `SGFORK` come to (R353): their handles and tiles, or a trap, or a stall. -/
def sharedTiles (s : State) (g : Nat) (rmask : BitVec 32) (k : List (Nat × Nat) → Ans) : Ans :=
  let hs := (slotsOf rmask).map fun n => (n, s.tileOf g n)
  match hs.find? fun x => x.2.isNone || x.2.any (·.2.err) with
  | some (n, some (_, t)) => .trap (copyError t (BitVec.ofNat 5 n))
  | some (_, none) => .trap (trapOf .tileUndeclared)
  | none =>
    if hs.any fun x => x.2.any fun t => t.2.st != .ready then .wait false
    else k (hs.filterMap fun x => x.2.map fun t => (x.1, t.1))

/-- The object as `SGFORK` leaves it (R370). -/
def State.initObj (s : State) (o : ObjAt) (g : Nat) (budget sgeps : BitVec 64) : State :=
  let s := (List.range 80).foldl (fun s i => s.objWrite o (8 * i) 8 0) s
  let s := ((s.objWrite o 0 4 g).objWrite o 4 4 1).objWrite o 8 8 (2 ^ g - 1)
  (s.objWrite o 32 8 budget.toNat).objWrite o 588 4 (sgeps.toNat % 2 ^ 32)

/-- Start the sibling grid (R352, R353). -/
def State.fork (s : State) (c : Issue) (w : Wave) (o : ObjAt) (ker : BitVec 64) (hd : Header) (g nstr : Nat)
    (shared : List (Nat × Nat)) : State :=
  let args := (List.range 4).map w.sreg ++ [o.va]
  let r : LaunchRec := { kernel := ker, nx := g, ny := 1, nz := 1, nstr := nstr, args := args }
  let kid := s.childOf c w (s.gridOf w.wg).queue (.siblings o.va o.pa shared) r
  let (k, s) := s.acceptGrid { kid with hdr := some hd, started := true }
  let s := shared.foldl (fun s x => s.updTile x.2 fun t => { t with refs := t.refs + g }) s
  s.acceptMore k g

/-- `SGFORK` (R370). -/
def execSgfork (h : Hd) (obj ker bud : BitVec 6) (g1 : BitVec 6) (rmask : BitVec 32) (nstr1 : BitVec 5) (s : State) : Out :=
  perform s h [] fun c w e =>
    if !w.converged e then .trap (trapOf .illegalConvergence)
    else guardTrap (s.txTrap w false false)
      (if 10 < (s.gridOf w.wg).depth + 1 then .trap (trapOf .nestingOverflow)
      else
        let va := w.sreg obj.toNat
        let kp := w.sreg ker.toNat
        let cx := s.ctxOf w.wg
        let n := g1.toNat + 1
        andThen (s.checkObj w va ((slotsOf e).headD 0)) fun pa =>
          match if kp.toNat % 64 == 0 then s.readHeader cx kp else none with
          | none => .trap (sgMisuse 5)
          | some hd =>
            if hd.pair || hd.cores || hd.txn then .trap (sgMisuse 5)
            else sharedTiles s w.wg rmask fun shared =>
              let o : ObjAt := { ctx := cx, va := va, pa := pa, core := some (s.coreOf w) }
              if hd.templs.any fun t => t.mode != .read && !(t.region 0 0 0).fitsTile then .trap (sgMisuse 6)
              else if s.stages c w then .stage
              else if !s.waveQuiet c.wave || s.objStalled o || 4096 < s.depCount cx + n || (!c.go && s.slotless w) then .wait false
              else if (s.objRead o 4 4).testBit 0 then .trap (sgMisuse 1)
              else
                let budget := w.sreg bud.toNat
                let s := s.initObj o n budget (s.csrFor w.wg 0x103)
                let s := (s.l1DropAll (s.coreOf w)).fork c w o kp hd n (nstr1.toNat + 1) shared
                deferNext s c)

/-! ## Budgets and retirement (R354) -/

/-- The object of a sibling. -/
def State.objOf (s : State) (g : Nat) (x : Sibling) : ObjAt := { ctx := s.ctxOf g, va := x.obj, pa := x.pa }

/-- Instructions that a sibling's waves have retired, those run again included (R354). -/
def State.sibRetired (s : State) (g : Nat) (x : Sibling) : Nat :=
  (s.wgD g).waves.foldl (fun n u => n + (s.waveD u).icount.toNat) x.retired

/-- The unit cancels sibling `i` of an object that is valid and has not reported (R354), and the group may become DONE. -/
def State.unitCancel (s : State) (o : ObjAt) (i : Nat) (timeout : Bool) : State :=
  let h := s.sgHdr o
  if h.bad || !h.open || !h.valid.testBit i || h.reported.testBit i then s else (s.sgCancel o i timeout).sgFinish o

/-- The sibling's instructions have reached the BUDGET of the object, and nothing has been decided about it (R354, R353). -/
def State.budgetOver (s : State) (g : Nat) : Bool :=
  match (s.wgD g).sib with
  | none => false
  | some x =>
    let h := s.sgHdr (s.objOf g x)
    !x.reported && h.budget != 0 && h.budget ≤ s.sibRetired g x && (s.wgD g).st != .ended && !(s.gridOf g).sgDone &&
    !s.objStalled (s.objOf g x)

/-- The unit cancels a sibling that has used its budget up or retires, unless it has reported (R354). -/
def State.sibCancel (s : State) (g : Nat) (timeout : Bool) : State :=
  match (s.wgD g).sib with
  | none => s
  | some x =>
    (s.updWg g fun w => { w with sib := some { x with reported := true } }).unitCancel (s.objOf g x) x.index timeout

/-- The unit cancels the siblings of a grid that retired without running (R354). -/
def State.settleLost (s : State) (k : Nat) : State :=
  let g := s.gridD k
  match g.kind with
  | .siblings va pa _ =>
    g.lost.foldl (fun s i => s.unitCancel { ctx := g.ctx, va := va, pa := pa } i false) (s.updGrid k fun g => { g with lost := [] })
  | _ => s

/-- The event `SIBLING_BUDGET_EXPIRY` (R354); in deterministic mode the release round does it. -/
def execSiblingBudgetExpiry (g : Nat) (s : State) : Out :=
  if s.budgetOver g && !s.isDet g then .next (s.sibCancel g true) else .next s

end Sys2Proof.Machine
end

