-- ==== Sys2Proof/Machine/Stamps.lean ====
section
/-! DEFINITION. Machine/Stamps.lean: stamped words and the sweeper (13_groups_stamps R360 to R365, R373 to R375), and random
numbers (R366, R367, R376). -/

namespace Sys2Proof.Machine

/-! ## Stamped words (R360 to R363) -/

/-- STEP as an instruction of a workgroup reads it (R361, R378). -/
def State.stepOf (s : State) (g : Nat) : BitVec 64 := s.csrFor g 0x101

/-- A stamped word from its parts. -/
def stampWord (val st sel : Nat) : Nat := val % 2 ^ 32 + st % 2 ^ 16 * 2 ^ 32 + sel % 2 ^ 8 * 2 ^ 48

/-- SEL of a word. -/
def stampSel (w : Nat) : Nat := field w 48 8
/-- STAMP of a word. -/
def stampOf (w : Nat) : Nat := field w 32 16
/-- VAL of a word. -/
def stampVal (w : Nat) : Nat := field w 0 32

/-- STALE_STAMP with a reason (R363). -/
def staleStamp (reason : Nat) (addr : BitVec 64) : Trap := { cause := .staleStamp, addr := addr, info := BitVec.ofNat 64 reason }

/-- The age of a word (R363). -/
def stampAge (w st : Nat) (addr : BitVec 64) : Except Trap Nat :=
  if w = 0 then .ok 0
  else if field w 56 8 != 0 then .error (staleStamp 2 addr)
  else
    let a := (st + 65536 - stampOf w) % 65536
    if 32768 ≤ a then .error (staleStamp 0 addr) else .ok a

/-- The power of R363: bits of the age from `b` on, `n` of them. -/
def gpowFrom (a : Nat) : Nat → Nat → Nat → Nat → Nat
  | 0, _, _, p => p
  | n + 1, b, g, p =>
    gpowFrom a n (b + 1) (rne32 fmul g g) (if a.testBit b then rne32 fmul p g else p)

/-- gpow (R363). -/
def gpow (g a : Nat) : Nat := gpowFrom a 15 0 g 0x3F800000

/-- decay (R363) with a known γ. -/
def decayBy (gamma w a : Nat) : Nat := rne32 fmul (stampVal w) (gpow gamma a)

/-- The address of an entry of the decay table (R362). -/
def gammaAddr (decaytab : BitVec 64) (sel : Nat) : BitVec 64 := BitVec.ofNat 64 (field decaytab.toNat 10 46 * 1024 + 4 * sel)

/-- γ of a selector (R362), with the table `t`: read for an agent as a fresh 4-byte load, with the address of a failure. A
poisoned entry is uncorrectable (R161). -/
def State.gamma (s : State) (a : Who) (g : Option Nat) (t : BitVec 64) (sel : Nat) : Except (Flt × BitVec 64) Nat :=
  if !t.getLsbD 0 then .ok 0x3F800000
  else
    let va := gammaAddr t sel
    match s.checkAt a .load 4 va with
    | .error f => .error (f, va)
    | .ok pa =>
      if s.poisoned pa 4 then .error (⟨.uncorrectable, 0⟩, va)
      else
        let bs := s.readBytes a.die pa 4
        .ok (ofBytes (match g with | some g => s.seen g va bs s.free | none => bs))

/-- DECAYTAB as an instruction of a workgroup reads it (R362, R401). -/
def State.tabOf (s : State) (g : Nat) : BitVec 64 := s.csrFor g 0x102

/-- γ as an instruction reads it (R362). -/
def State.gammaFor (s : State) (w : Wave) (slot sel : Nat) : Except Trap Nat :=
  match s.gamma (s.whoLs w) (some w.wg) (s.tabOf w.wg) sel with
  | .ok x => .ok x
  | .error (f, va) =>
    .error (if f.cause == .uncorrectable then { cause := f.cause, addr := va, info := BitVec.ofNat 64 slot } else fltTrap f va slot 0)

/-- A fresh load of the wave reads a line: the L1 of its core loses it (R154) and the die's L2 obtains it (R155). -/
def State.freshRead (s : State) (w : Wave) (pa : Nat) : State :=
  (s.l1Drop (s.coreOf w) (pa / 64)).updMem fun m => m.l2Fill (dieOf (s.coreOf w)) pa

/-- What reading γ of a word does to the caches (R362). -/
def State.gammaRead (s : State) (w : Wave) (x : Nat) : State :=
  let t := s.tabOf w.wg
  if x = 0 || !t.getLsbD 0 then s
  else match s.checkAt (s.whoLs w) .load 4 (gammaAddr t (stampSel x)) with
    | .ok pa => s.freshRead w pa
    | .error _ => s

/-- The trap of an instruction that reads stamped words, after what earlier lines did (R5): poison is reported when the
instruction has retired (R161), anything else at it. -/
def stampTrap (s : State) (c : Issue) (retired : Wave → Wave) (t : Trap) : Ans :=
  if t.cause == .uncorrectable then .next ((s.put c retired).takeTrap { c with pc := c.next } t (.imprecise c.pc))
  else trapAfter s c t

/-- The decayed value of a word that an instruction reads (R363). -/
def State.decayed (s : State) (w : Wave) (slot x st : Nat) (addr : BitVec 64) : Except Trap Nat :=
  if x = 0 then .ok 0
  else match stampAge x st addr with
    | .error t => .error t
    | .ok a => match s.gammaFor w slot (stampSel x) with
      | .error t => .error t
      | .ok g => .ok (decayBy g x a)

/-- The address of `DLD`, `DSET` and `DADD` (R368). -/
def stampAddr (w : Wave) (i : Nat) (a c : Src) : BitVec 64 := rd64 w i a + (rd32 w i c).signExtend 64 * 8

/-- Evaluate each slot in order; the first trap decides. -/
def slotsM {α : Type} (f : Nat → Except Trap α) : List Nat → Except Trap (List (Nat × α))
  | [] => .ok []
  | i :: r => match f i with
    | .error t => .error t
    | .ok x => match slotsM f r with
      | .error t => .error t
      | .ok l => .ok ((i, x) :: l)

/-- The value for a slot in a list, or for the first when the instruction is uniform. -/
def pick {α : Type} (d : α) (l : List (Nat × α)) (uniform : Bool) (i : Nat) : α :=
  if uniform then ((l.head?).map (·.2)).getD d else ((l.find? fun x => x.1 == i).map (·.2)).getD d

/-- The accesses of a checked list, one per slot. -/
def flatElems (el : List (Nat × List (Option (BitVec 64 × Nat)))) : List (Nat × BitVec 64 × Nat) :=
  el.filterMap fun x => match x.2 with
    | [some (va, pa)] => some (x.1, va, pa)
    | _ => none

/-- `DLD` (R373): a fresh load, performed at issue; poison traps imprecisely (R161). -/
def execDld (h : Hd) (d : Dst) (a c : Src) (s : State) : Out :=
  perform s h [a, c] fun i w e =>
    if e == 0 then dataNext s i e h d false false fun _ => 0
    else guardTrap (s.txTrap w false true)
      (let slots := if d.s then [(slotsOf e).headD 0] else slotsOf e
       let st := (s.stepOf w.wg).toNat % 65536
       andThen (checkSlots (s.checkAt (s.whoLs w) .load 8) (fun j => oneAt (stampAddr w j a c)) slots) fun el =>
        let el := flatElems el
        if s.posted i.wave i.mask then .wait false
        else
          let retired := fun (w : Wave) => w.retireData i 0 h.nwb d false false fun _ => 0
          let s := el.foldl (fun s x => s.freshRead w x.2.2) s
          match el.find? fun x => s.poisoned x.2.2 8 with
          | some x => stampTrap s i retired { cause := .uncorrectable, addr := x.2.1, info := BitVec.ofNat 64 x.1 }
          | none =>
            let word := fun va pa => ofBytes (s.seen w.wg va (s.readBytes (dieOf (s.coreOf w)) pa 8) s.free)
            let val := fun j => match el.find? fun x => x.1 == j with
              | none => Except.ok 0
              | some (_, va, pa) => s.decayed w j (word va pa) st va
            let t := el.foldl (fun t x => t.gammaRead w (word x.2.1 x.2.2)) (s.drew 256)
            match slotsM val slots with
            | .error x => stampTrap t i retired x
            | .ok l => dataNext t i e h d false false fun j => BitVec.ofNat 64 (pick 0 l d.s j))

/-- `DSET` at the unit (R373). -/
def State.asuDset (s : State) (r : AsuReq) : Reply × State := (.val 0, (s.homeWrite r r.pa 8 r.x.toNat).asuL1 r)

/-- `DSET` (R373): a relaxed atomic without a result. -/
def execDset (h : Hd) (sel : BitVec 8) (a x c : Src) (s : State) : Out :=
  perform s h [a, x, c] fun i w e =>
    if e == 0 then plainNext s i
    else guardTrap (s.txTrap w false false)
      (let uni := Src.uniform a && Src.uniform x && Src.uniform c
       let slots := if uni then [(slotsOf e).headD 0] else slotsOf e
       let st := (s.stepOf w.wg).toNat % 65536
       andThen (checkSlots (s.checkAsu (s.whoLs w) .store 8) (fun j => oneAt (stampAddr w j a c)) slots) fun el =>
        let el := flatElems el
        if s.stages i w then .stage
        else if el.any fun y => s.stalledAt y.2.2 then .wait false
        else
          let rs := el.map fun y =>
            { s.mkReq i w (if uni then e else slotBit y.1) .dset y.2.1 y.2.2 with
              x := BitVec.ofNat 64 (stampWord (rdTy .f32 w y.1 x).toNat st sel.toNat) }
          let s := s.put i fun w => s.deferIn (w.retire i fun _ st => st) (if uni then i.mask else e)
          .next (s.sendAll i.go State.asuDset rs))

/-- The new word of a `DADD` (R373). -/
def State.daddNew (s : State) (w : Wave) (slot old st sel x : Nat) (addr : BitVec 64) : Except Trap Nat :=
  if old = 0 then .ok (stampWord (rne32 fadd 0 x) st sel)
  else if 0 < signedOf 16 (stampOf old + 65536 - st) then
    .ok (old / 2 ^ 32 * 2 ^ 32 + rne32 fadd (stampVal old) x)
  else match s.decayed w slot old st addr with
    | .error t => .error t
    | .ok v => .ok (stampWord (rne32 fadd v x) st (stampSel old))

/-- The updates of a `DADD`'s strands, in slot order, each seeing what the one before left (R373); the strands performed, and
the trap of one that is not: what came before it stands (R5). -/
def State.daddAll (s : State) (c : Issue) (w : Wave) (sel st : Nat) (x : Nat → Nat) :
    List (Nat × BitVec 64 × Nat) → BitVec 32 × Option Trap × State
  | [] => (0, none, s)
  | (i, va, pa) :: r =>
    let q := s.mkReq c w (slotBit i) .dset va pa
    let s := s.homeTake q
    let old := s.homeRead pa 8
    match s.daddNew w i old st sel (x i) va with
    | .error t => (0, some t, s.gammaRead w old)
    | .ok y =>
      let s := if old = 0 || 0 < signedOf 16 (stampOf old + 65536 - st) then s else s.gammaRead w old
      let z := ((s.homeWrite q pa 8 y).asuL1 q).daddAll c w sel st x r
      (slotBit i ||| z.1, z.2)

/-- `DADD` (R373): performed at issue, so that a fault of `age()` is precise. -/
def execDadd (h : Hd) (sel : BitVec 8) (a x c : Src) (s : State) : Out :=
  perform s h [a, x, c] fun i w e =>
    if e == 0 then plainNext s i
    else guardTrap (s.txTrap w false false)
      (let uni := Src.uniform a && Src.uniform x && Src.uniform c
       let slots := if uni then [(slotsOf e).headD 0] else slotsOf e
       let st := (s.stepOf w.wg).toNat % 65536
       andThen (checkSlots (s.checkAsu (s.whoLs w) .store 8) (fun j => oneAt (stampAddr w j a c)) slots) fun el =>
        let el := flatElems el
        if s.stages i w then .stage
        else if (el.any fun y => s.stalledAt y.2.2) || s.posted i.wave i.mask then .wait false
        else
          let r := s.daddAll i w sel.toNat st (fun j => (rdTy .f32 w j x).toNat) el
          let s := r.2.2
          let retired := fun (w : Wave) => w.retire i fun _ st => st
          match r.2.1 with
          | none => .next (s.put i fun w => s.deferIn (retired w) (if uni then i.mask else e))
          | some t => stampTrap (s.put i fun w => s.deferIn w r.1) i retired t)

/-- The merged word of `DMERGE` (R374). -/
def State.merge (s : State) (w : Wave) (slot a b st : Nat) : Except Trap Nat :=
  if a = 0 then .ok b
  else if b = 0 then .ok a
  else if stampSel a != stampSel b then .error (staleStamp 1 0)
  else match stampAge a st 0, stampAge b st 0 with
    | .error t, _ => .error t
    | _, .error t => .error t
    | .ok aa, .ok ab =>
      let (nw, od) := if aa ≤ ab then (a, b) else (b, a)
      match s.gammaFor w slot (stampSel nw) with
      | .error t => .error t
      | .ok g =>
        let v := rne32 fadd (stampVal nw) (rne32 fmul (stampVal od) (gpow g (max aa ab - min aa ab)))
        .ok (stampWord v (stampOf nw) (stampSel nw))

/-- `DMERGE` (R374). -/
def execDmerge (h : Hd) (d : Dst) (a b : Src) (s : State) : Out :=
  perform s h [a, b] fun c w e =>
    if e == 0 then dataNext s c e h d true false fun _ => 0
    else guardTrap (s.txTrap w false true)
      (let slots := if d.s then [(slotsOf e).headD 0] else slotsOf e
       let st := (s.stepOf w.wg).toNat % 65536
       let val := fun i => ((rd64 w i a).toNat, (rd64 w i b).toNat)
       let t := slots.foldl (fun (t : State) i =>
        if (val i).2 = 0 || stampSel (val i).1 != stampSel (val i).2 then t else t.gammaRead w (val i).1) (s.drew 256)
       match slotsM (fun i => s.merge w i (val i).1 (val i).2 st) slots with
       | .error x => stampTrap t c (fun w => w.retireData c 0 h.nwb d true false fun _ => 0) x
       | .ok l => dataNext t c e h d true false fun i => BitVec.ofNat 64 (pick 0 l d.s i))

/-! ## The sweeper (R364) -/

/-- The sixteen region records of a decay table, read by the sweeper at level 0; a record that faults is counted. -/
def State.sweepRegions (s : State) (cx : Nat) : List (BitVec 64 × Nat) × State :=
  (List.range 16).foldl (fun (acc : List (BitVec 64 × Nat) × State) j =>
    let va := gammaAddr (s.ctxD cx).decaytab 0 + BitVec.ofNat 64 (1024 + 16 * j)
    match acc.2.readRange (s.whoHub cx) va 16 with
    | .error (f, _) => (acc.1, acc.2.countFault cx 5 f.cause)
    | .ok b =>
      let n := bytesAt b 8 4
      if n = 0 then acc else (acc.1 ++ [(BitVec.ofNat 64 (bytesAt b 0 8), n)], acc.2)) ([], s)

/-- STEP crosses a multiple of 8,192 with the table in use: a sweep starts (R364). -/
def State.startSweep (s : State) (cx : Nat) : State :=
  let r := s.sweepRegions cx
  r.2.updCtx cx fun c => { c with sweep := some { regions := r.1 } }

/-- A visit rewrites the word (R364): it is old, and neither zero nor malformed. -/
def sweeps (w st : Nat) : Bool :=
  let a := (st + 65536 - stampOf w) % 65536
  w != 0 && field w 56 8 == 0 && 16384 ≤ a && a < 32768

/-- The word after a visit (R364). -/
def sweptWord (gamma w st : Nat) : Nat :=
  if sweeps w st then stampWord (decayBy gamma w ((st + 65536 - stampOf w) % 65536)) st (stampSel w) else w

/-- Visit the next word of a context's sweep (R364); a fault ends the sweep of its region. A page stalled for a migration
holds it (R159). -/
def State.sweepVisit (s : State) (cx : Nat) : State :=
  let set := fun (s : State) (l : List (BitVec 64 × Nat)) =>
    s.updCtx cx fun c => { c with sweep := if l.isEmpty then none else some { regions := l } }
  match (s.ctxD cx).sweep with
  | none => s
  | some sw =>
    match sw.regions with
    | [] => set s []
    | (va, n) :: r =>
      let a := s.whoHub cx
      match s.checkAsuRw a 8 va with
      | .error f => set (s.countFault cx 5 f.cause) r
      | .ok pa =>
        let c := (asuCell pa).getD pa
        let take := fun (s : State) => s.updMem fun m => m.l2Take (c / 64) (homeDie c) (s.asidOf cx)
        let w := (take s).homeRead pa 8
        let st := (s.ctxD cx).stepv.toNat % 65536
        let rest := if n ≤ 1 then r else (va + 8, n - 1) :: r
        if s.stalledAt pa then s
        else if !sweeps w st then set (take s) rest
        else match s.gamma a none (s.ctxD cx).decaytab (stampSel w) with
        | .error (f, _) => set (s.countFault cx 5 f.cause) r
        | .ok g => set ((take s).writeBytes (homeDie c) (s.asidOf cx) c (toBytes 8 (sweptWord g w st))) rest

/-- The event `SWEEP_VISIT` (R364). -/
def execSweepVisit (ctx : BitVec 6) (s : State) : Out := .next (s.sweepVisit ctx.toNat)

/-- A whole sweep, as it lies between two release rounds (R378). -/
def State.sweepAll (s : State) (cx : Nat) : Nat → State
  | 0 => s
  | n + 1 => if (s.ctxD cx).sweep.isSome then (s.sweepVisit cx).sweepAll cx n else s

/-- Visits that a sweep still makes. -/
def Ctx.visits (c : Ctx) : Nat :=
  match c.sweep with
  | none => 0
  | some w => w.regions.foldl (fun n r => n + r.2) 1

/-- `STEPADV` (R375). -/
def execStepadv (h : Hd) (d : Dst) (t : BitVec 6) (s : State) : Out :=
  tileData s h (some d) true false fun c w e =>
    let cx := s.ctxOf w.wg
    let x := s.ctxD cx
    let t := w.sreg t.toNat
    let old := x.stepv
    let crosses := old.toNat / 8192 < t.toNat / 8192
    if old < t && 8192 < t.toNat - old.toNat then .trap (badField .sa)
    else if s.stages c w then .stage
    else if (old < t && crosses && x.sweep.isSome) || s.posted c.wave c.mask then .wait false
    else
      let s := if old < t then s.setCsr cx 0x101 t else s
      let s := if old < t && crosses && x.decaytab.getLsbD 0 then s.startSweep cx else s
      dataNext s c e h d true false fun _ => (s.ctxD cx).stepv

/-! ## Random numbers (R366, R376) -/

/-- One round of the generator (R366). -/
def genRound (k x : BitVec 64) (rnd : Nat) : BitVec 64 :=
  let x := (x ^^^ (k + BitVec.ofNat 64 (rnd * 0x9E3779B97F4A7C15))) * 0xD1342543DE82EF95
  x ^^^ (x >>> 29)

/-- gen (R366). -/
def gen (seed : BitVec 64) (stream : BitVec 32) (c : BitVec 64) : BitVec 32 :=
  let k := (seed <<< 32) + stream.zeroExtend 64
  ((List.range 6).foldl (genRound k) c).extractLsb' 32 32

/-- The seed of a workgroup's launch (R366). -/
def State.seedOf (s : State) (g : Nat) : BitVec 64 := (s.gridOf g).lat.seed &&& 0xFFFFFFFF

/-- A number below 2^24 times 2^-24, in FP32 (R376). -/
def unitF32 (k : Nat) : Nat :=
  if k = 0 then 0
  else
    let e := log2 k
    (e + 103) * 2 ^ 23 + (k * 2 ^ 23 / 2 ^ e - 2 ^ 23)

/-- The frame of `RNG`, `RNGF` and `RNGMASK` without a store. -/
def rngOp (s : State) (h : Hd) (d : Dst) (srcs : List Src) (f : BitVec 64 → Wave → Nat → BitVec 32) : Out :=
  perform s h srcs fun c w e =>
    guardTrap (if e == 0 then none else s.txTrap w false true)
      (dataNext s c e h d false false fun i => (f (s.seedOf w.wg) w i).zeroExtend 64)

/-- `RNG` (R376). -/
def execRng (h : Hd) (d : Dst) (a b : Src) (s : State) : Out :=
  rngOp s h d [a, b] fun seed w i => gen seed (rd32 w i a) (rd64 w i b)

/-- `RNGF` (R376). -/
def execRngf (h : Hd) (d : Dst) (a b : Src) (s : State) : Out :=
  rngOp s h d [a, b] fun seed w i => BitVec.ofNat 32 (unitF32 ((gen seed (rd32 w i a) (rd64 w i b)).toNat / 256))

/-- The mask of `RNGMASK` (R376). -/
def rngMask (seed : BitVec 64) (stream : BitVec 32) (c : BitVec 64) (thr : BitVec 32) : BitVec 32 :=
  maskOf ((List.range 32).filter fun j => gen seed stream (c + BitVec.ofNat 64 j) < thr)

/-- `RNGMASK` (R376). -/
def execRngmask (h : Hd) (d : Dst) (a b c : Src) (s : State) : Out :=
  rngOp s h d [a, b, c] fun seed w i => rngMask seed (rd32 w i a) (rd64 w i b) (rd32 w i c)

/-- `RNGMASK.st` (R376): a plain 4-byte store of the mask. -/
def execRngmaskSt (h : Hd) (d : Dst) (a b x : Src) (s : State) : Out :=
  perform s h [a, b, x] fun c w e =>
    if e == 0 then plainNext s c
    else guardTrap (s.txTrap w false false)
      (let uni := d.s && Src.uniform a && Src.uniform b && Src.uniform x
       let slots := if uni then [(slotsOf e).headD 0] else slotsOf e
       let addr := fun i => if d.s then w.sreg d.n.toNat else (w.strand i).v64 d.n.toNat
       andThen (checkSlots (s.checkStore w 4) (fun i => oneAt (addr i)) slots) fun el =>
        if s.anyStalled el || s.orderedBefore c.wave el then .wait false
        else
          let data := fun i _ => toBytes 4 (rngMask (s.seedOf w.wg) (rd32 w i a) (rd64 w i b) (rd32 w i x)).toNat
          let s := s.storeAll c.wave false el data
          .next (s.put c fun w => s.deferIn (w.retire c fun _ st => st) (if uni then c.mask else e)))

end Sys2Proof.Machine
end

