-- ==== Sys2Proof/Machine/System.lean ====
section
/-! DEFINITION. Machine/System.lean: the system class (14_system R398 to R403). Machine/Csr.lean holds the registers,
Machine/Ops.lean trap entry and return. -/

namespace Sys2Proof.Machine

/-- The level check of an instruction (R40 step 7): it does not depend on the guard. -/
def levelTrap (ok : Bool) : Option Trap := if ok then none else some (trapOf .privilege)

/-- An instruction of the class acts once for the wave when its guard holds in an enabled strand (R398); its level is checked
first, whatever the guard (R40). -/
def sysOp (s : State) (h : Hd) (level : Wave → Option Trap) (k : Issue → Wave → BitVec 32 → Ans) : Out :=
  perform s h [] fun c w e =>
    guardTrap (level w) (if e == 0 then plainNext s c else guardTrap (s.txTrap w false true) (k c w e))

/-! ## TRAP, BRK, HALT -/

/-- `TRAP` (R399). -/
def execTrap (h : Hd) (code : Src) (s : State) : Out :=
  sysOp s h (fun _ => none) fun _ w _ => .trap { cause := .software, info := rdU w code }

/-- `BRK` (R399). -/
def execBrk (h : Hd) (code : Src) (s : State) : Out :=
  sysOp s h (fun _ => none) fun _ w _ => .trap { cause := .breakpoint, info := rdU w code }

/-- `HALT` (R403): the wave stops after it, and is reported. -/
def execHalt (h : Hd) (code : Src) (s : State) : Out :=
  sysOp s h (fun w => levelTrap (w.priv == 2)) fun c w _ =>
    .next ((s.put c fun w => { w with icount := w.icount + 1, roundN := w.roundN + 1 }).haltWave c (rdU w code))

/-! ## TRET -/

/-- Every grid of a context is ended with status ABORTED (R386 code 4). -/
def State.abortGrids (s : State) (cx : Nat) : State :=
  ((s.grids.filter fun e => e.2.ctx == cx && e.2.status.isNone).map (·.1)).foldl (fun s k => s.killGrid k true) s

/-- The context is aborted (R386 code 4): its grids end, and it accepts no launch until it is reset. -/
def State.abortCtx (s : State) (cx : Nat) : State := (s.abortGrids cx).updCtx cx fun c => { c with st := .aborted }

/-- Codes 2 to 4 of `TRET` (R386). -/
def State.tretEnd (s : State) (g code : Nat) : State :=
  match code with
  | 2 => s.killWg g
  | 3 => s.kill3 g
  | _ => s.abortCtx (s.ctxOf g)

/-- `TRET` 0 or 1 of the wave that took TOP_RUNG_TRIP (R273): the commit goes on, and the wave waits in its `TXCOMMIT`. -/
def State.tretCommit (s : State) (c : Issue) (w : Wave) : State :=
  let hold := fun (p : Path) => { p with wait := Wait.reply, edge := .window, buf := [], next := w.rpNext }
  let s := s.put c fun w => (w.leaveTrap c w.rp).updPath c.path hold
  s.updTx (s.txHome w.wg) fun x => { x with st := .opened }

/-- Codes 0 and 1 of `TRET` (R386, R400). -/
def tretGo (s : State) (c : Issue) (w : Wave) (skip : Bool) (dest : Option (BitVec 6)) : Ans :=
  let t := if !skip then w.rp else match dest with | some r => w.sreg r.toNat | none => w.rpNext
  if w.trapstat.getLsbD 0 then .next (s.tretEnd w.wg 2)
  else if (s.wgD (s.txHome w.wg)).tx.st == .trapped then .next (s.tretCommit c w)
  else guardTrap (checkTarget ((slotsOf c.mask).headD 0) t) (s.done c fun w => w.leaveTrap c t)

/-- `TRET` (R400, R386, R273, R290, R291). -/
def execTret (h : Hd) (act : Src) (dest : Option (BitVec 6)) (s : State) : Out :=
  sysOp s h (fun w => levelTrap (w.priv == 1)) fun c w _ =>
    let n := (rdU w act).toNat
    if 4 < n || (dest.isSome && n != 1) then .trap (badField .sa)
    else if n == 1 && dest.isNone && w.rpNoLen then .trap (badField .sa)
    else
      let home := s.wgD (s.txHome w.wg)
      if home.misalign && n == 0 then .next (s.requeue (s.txHome w.wg) home.tx.rung false)
      else if home.misalign && n == 1 then .next (s.tretEnd w.wg 2)
      else if 2 ≤ n then .next (s.tretEnd w.wg n)
      else tretGo s c w (n == 1) dest

/-! ## CSRR, CSRW, CSRX -/

/-- `CSRR` (R401); the number, the level and a uniform destination for `STRAND` are checked whatever the guard (R40). -/
def execCsrr (h : Hd) (d : Dst) (n : BitVec 12) (s : State) : Out :=
  perform s h [] fun c w e =>
    guardTrap (csrCheck w.priv n false)
      (if n == 0 then
        if d.s then .trap (badField .dst) else dataNext s c e h d false false fun i => BitVec.ofNat 64 i
      else dataNext s c e h d d.s false fun _ => s.readCsr w n.toNat)

/-- Write a CSR (R401): per-wave ones in issue order, the others as one 8-byte access. -/
def State.writeCsr (s : State) (c : Issue) (w : Wave) (n : Nat) (x : BitVec 64) : State :=
  if sharedCsr n then s.setCsr (s.ctxOf w.wg) n x else s.put c fun w => w.setCsr n x

/-- The CSR as a write finds it. -/
def State.oldCsr (s : State) (w : Wave) (n : Nat) : BitVec 64 :=
  if sharedCsr n then s.csr (s.ctxOf w.wg) n else s.readCsr w n

/-- The frame of a write (R401), after the check of the access: the value's own rule, and the staging point. `new`: the
value before merging, from the old one. -/
def csrWriteAns (s : State) (c : Issue) (w : Wave) (n : BitVec 12) (new : BitVec 64 → BitVec 64) (k : State → BitVec 64 → Ans) :
    Ans :=
  let old := s.oldCsr w n.toNat
  let x := csrMerge n.toNat old (new old)
  if csrForbids n.toNat x then .trap (badField .imm)
  else if sharedCsr n.toNat && s.stages c w then .stage
  else k (s.writeCsr c w n.toNat x) old

/-- `CSRW` (R401). -/
def execCsrw (h : Hd) (x : Src) (n : BitVec 12) (s : State) : Out :=
  sysOp s h (fun w => csrCheck w.priv n true) fun c w _ => csrWriteAns s c w n (fun _ => rdU w x) fun s _ => plainNext s c

/-- What `CSRX` writes, from the old value (R401). -/
def csrxNew (op : CsrxOp) (x old : BitVec 64) : BitVec 64 :=
  match op with
  | .swap => x
  | .set => old ||| x
  | .clr => old &&& ~~~x

/-- `CSRX` (R401): one indivisible step; the strands of the path defer (R388). -/
def execCsrx (h : Hd) (op : CsrxOp) (d : Dst) (x : Src) (n : BitVec 12) (s : State) : Out :=
  perform s h [] fun c w e =>
    guardTrap (csrCheck w.priv n true)
      (if e == 0 then dataNext s c e h d d.s false fun _ => 0
       else guardTrap (s.txTrap w false true) (csrWriteAns s c w n (csrxNew op (rdU w x)) fun s old =>
        .next (s.put c fun w => s.deferIn (w.retireData c e h.nwb d d.s false fun _ => old) c.mask)))

/-! ## TLBINV -/

/-- The ASID that the instruction names: its own context's, or a number (R402). -/
def State.tlbAsid (s : State) (w : Wave) (a : Option Src) : BitVec 12 :=
  match a with
  | some x => (rdU w x).extractLsb' 0 12
  | none => BitVec.ofNat 12 (s.ctxD (s.ctxOf w.wg)).asid.toNat

/-- The TLB entries that are removed (R402). -/
def State.tlbHits (s : State) (w : Wave) (o : TlbSel) (e : TlbEntry) : Bool :=
  match o with
  | .va v a =>
    let x := (w.sreg v.toNat).toNat % 2 ^ 56
    e.asid == s.tlbAsid w a && e.va ≤ x && x < e.va + e.size
  | .asid a => e.asid == s.tlbAsid w a
  | .all => true

/-- The context's `WORLD`, `ASID` and `PTBASE` govern its translations from now on (R391). -/
def Ctx.govern (c : Ctx) : Ctx := { c with worldNow := c.world, asidNow := c.asid, ptbaseNow := c.ptbase }

/-- Changes of the translation CSRs that a `TLBINV` covers come into force (R391): of every context with `.all`, with the
region table; of the contexts of its ASID with `.asid`. -/
def State.governBy (s : State) (w : Wave) (o : TlbSel) : State :=
  match o with
  | .va _ _ => s
  | .asid a =>
    let k := s.tlbAsid w a
    { s with ctxs := s.ctxs.mapVals fun _ c =>
        if BitVec.ofNat 12 c.asid.toNat == k || BitVec.ofNat 12 c.asidNow.toNat == k then c.govern else c }
  | .all =>
    let s := { s with ctxs := s.ctxs.mapVals fun _ c => c.govern }
    s.updHub fun h => { h with regionsNow := h.regiontab }

/-- The level that a `TLBINV` needs (R402). -/
def tlbLevel : TlbSel → Nat
  | .va _ (some _) => 2
  | .asid (some _) => 2
  | .all => 2
  | _ => 1

/-- An LS write of the wave has not been performed: a request, or in deterministic mode a staged store (R402, R339). -/
def State.writesOpen (s : State) (u : Nat) : Bool :=
  let w := s.waveD u
  s.posted u 0xFFFFFFFF || (s.isDet w.wg && (s.wgD w.wg).staged.any fun x => x.wave == w.idx)

/-- `TLBINV` (R402). -/
def execTlbinv (h : Hd) (o : TlbSel) (s : State) : Out :=
  sysOp s h (fun w => levelTrap (tlbLevel o ≤ w.priv.toNat)) fun c w _ =>
    if s.writesOpen c.wave then .wait false
    else
      let s := s.updMem fun m => { m with tlb := m.tlb.filter fun e => !s.tlbHits w o e }
      plainNext (s.governBy w o) c

end Sys2Proof.Machine
end

