-- ==== Sys2Proof/Machine/Preempt.lean ====
section
/-! DEFINITION. Machine/Preempt.lean: pre-emption (14_system R387 to R390, 03_control R67, R71, R72, 08_tiles R226, 09_matrix R238,
10_transactions R266, R289, R290, 11_sync R313, R316, 13_groups_stamps R359), and switching a context out (R393). -/

namespace Sys2Proof.Machine

/-! ## When a wave may be dropped -/

/-- The wave is deferred (R388, R238, R313). -/
def State.deferred (s : State) (u : Nat) : Bool :=
  let w := s.waveD u
  (slotsOf w.liveMask).any (fun i => (w.strand i).defer) || w.priv == 1 || w.st == .halted ||
    (!s.inAttempt w && (w.owed || (s.slotOf w u).isSome || w.win != w.win0))

/-- The wave stands just after an `IDEM` at which every live strand was in the path (R72). -/
def Wave.justIdem (w : Wave) : Bool :=
  w.ckAll && w.ck.icount == w.icount && w.ck.mask == w.liveMask && w.paths.length == 1

/-- The path whose turn it is stands at a window boundary, or just after an event of R39 (R67). -/
def Wave.atPoint (w : Wave) : Bool :=
  match w.turnOf.bind w.path? with
  | some p => p.edge != .mid
  | none => true

/-- A wave with a pending request may be dropped now (R387, R389, R72, R289). -/
def State.mayDrop (s : State) (u : Nat) : Bool :=
  let w := s.waveD u
  let g := w.wg
  w.dropReq && (w.st == .running || w.st == .halted) && w.atPoint &&
  ((w.forced && !(s.isDet g && s.txPending g)) ||
    (if s.txPending g then !s.isDet g && (s.allLive g).all fun v => !s.deferred v
     else !s.deferred u && (!s.isDet g || w.justIdem)))

/-! ## Dropping a wave (R387, R226) -/

/-- A copy that completes though its wave is dropped (R226). -/
def Copy.survives (x : Copy) : Bool := x.kind == .store || x.cw.ben || x.cw.wen || x.cw.sen

/-- Cancel a copy: its tile ends ready, in error state with cause 0x00 (R226, R201). -/
def State.cancelCopy (s : State) (k : Nat) (x : Copy) : State :=
  let s := { s with copies := s.copies.del k }
  let s := s.updTile x.tile fun t => t.settled (some { cause := 0 })
  let s := match x.kind with
    | .plane src => s.unref src
    | _ => s
  s.settleTile x.tile

/-- Withdraw a wave's arrivals at a named barrier: a forced discard withdraws them, and an arrival of part of a wave's strands,
which has not taken effect, goes with any drop (R300, R316, log 17). -/
def NamedBar.withdraw (b : NamedBar) (u : Nat) (forced : Bool) : NamedBar :=
  if !forced && b.waves.contains u then b else
  let a := b.arrived.filter fun x => x.1 != u
  { b with arrived := a, waves := b.waves.filter fun v => v != u, kind := if a.isEmpty then none else b.kind }

/-- What of a wave survives its drop (R387, R71): the checkpoint, the tokens, the children, and what the model counts of its
round; the rest starts anew when it resumes. -/
def Wave.dropped (w : Wave) : Wave :=
  { w with
    st := .dropped, paths := [], turnOf := none, turnOver := false, rpred := [], kwaits := [], openB := [], sealedB := []
    dfault := none, commitWait := false, owed := false, priv := if w.priv == 2 then 2 else 0, stopped := [], saved := []
    dropReq := false, forced := false
    roundN := w.roundN - (w.icount.toNat - w.ck.icount.toNat)
    strands := w.strands.mapVals fun _ st => { st with live := false, defer := false } }

/-- Instructions that a sibling's wave retired since its checkpoint still count against its budget (R354). -/
def Wg.bank (g : Wg) (n : Nat) : Wg := { g with sib := g.sib.map fun x => { x with retired := x.retired + n } }

/-- Drop one wave (R387): as R56 gives for an ending wave, with R226 for its copies. -/
def State.dropWave (s : State) (u : Nat) : State :=
  let w := s.waveD u
  let cx := s.ctxOf w.wg
  let forced := s.deferred u
  let s := if forced then
      (s.updErr cx fun e => { e with forced := e.forced + 1 }).updCtx cx fun c => { c with forcedOut := true }
    else s
  let s := { s with
    loads := s.loads.keep fun _ l => l.wave != u
    waiters := s.waiters.keep fun _ x => x.wave != u
    claims := s.claims.mapVals fun _ q => q.filter fun c => c.1 != u
    reqs := s.reqs.mapVals fun _ r => if r.wave == u then { r with d := none, precise := false } else r }
  let s := { s with reqs := s.reqs.keep fun _ r => !(r.wave == u && r.reply.isSome) }
  let mine := s.copies.filter fun e => e.2.wave == u && !e.2.survives
  let s := mine.foldl (fun s e => s.cancelCopy e.1 e.2) s
  let s := s.updWave u Wave.dropped
  let s := s.updWg w.wg fun g =>
    { g.bank (w.icount.toNat - w.ck.icount.toNat) with bars := g.bars.mapVals fun _ b => b.withdraw u forced }
  s.endEngine (clusterOf (s.coreOf w)) u

/-- The workgroup is suspended once every wave of it has been dropped or has ended (R387): in place, but for one that stands in
the swap area (R338). -/
def State.suspendWg (s : State) (g : Nat) : State :=
  let ws := (s.wgD g).waves
  let gone := ws.all fun u => (s.waveD u).st == .dropped || (s.waveD u).st == .ended
  let some_ := ws.any fun u => (s.waveD u).st == .dropped
  if gone && some_ then s.updWg g fun w => { w with st := if w.st == .swapped then .saved else .dropped } else s

/-- The event `WAVE_DROP` (R387): before its commit, a transactional workgroup is discarded whole and requeued at its rung
(R266). -/
def execWaveDrop (u : Nat) (s : State) : Out :=
  let w := s.waveD u
  if !s.mayDrop u then .next s
  else if s.txPending w.wg then
    let g := s.txHome w.wg
    let cx := s.ctxOf g
    let n := ((s.allLive g).filter s.deferred).length
    let s := if n = 0 then s
      else (s.updErr cx fun e => { e with forced := e.forced + BitVec.ofNat 64 n }).updCtx cx fun c => { c with forcedOut := true }
    .next (s.requeue g (s.wgD g).tx.rung false)
  else .next ((s.dropWave u).suspendWg w.wg)

/-! ## Saving and resuming (R387, R71, R359) -/

/-- The event `WORKGROUP_SAVE` (R387): a suspended workgroup goes to the save area. -/
def execWorkgroupSave (g : Nat) (s : State) : Out :=
  if (s.wgD g).st == .dropped then .next (s.updWg g fun w => { w with st := .saved }) else .next s

/-- A strand as its record restores it (R71). -/
def Strand.restore (st : Strand) : Strand :=
  { st with
    live := true, pc := st.ckr.start, pred := st.ckr.pred ||| 1, fc := 0, defer := false
    l0 := 0, l1 := 0, l2 := 0, l3 := 0, latN := 0
    v := st.ckr.v.keep fun i _ => st.ckr.vvalid.getLsbD i }

/-- Addresses of a list, each once, in order. -/
def distinct (l : List (BitVec 64)) : List (BitVec 64) := l.foldl (fun l a => if l.contains a then l else l ++ [a]) []

/-- A wave as its checkpoint restores it (R71); its batches are numbered from 0 again (R214, R226). -/
def Wave.resumed (w : Wave) (lane : Nat) (args : List (BitVec 64)) : Wave :=
  let live := slotsOf w.ck.mask
  let strands := w.strands.mapVals fun i st => if live.contains i then st.restore else { st with live := false }
  let pcOf := fun i => (strands.getD i {}).pc
  let groups := distinct (live.map pcOf)
  let paths := ((List.range groups.length).zip groups).map fun x =>
    ({ born := w.nextBorn + x.1, mask := maskOf (live.filter fun i => pcOf i == x.2) } : Path)
  let s := (argRegs args).setAll (w.ck.s.keep fun j _ => w.ck.svalid.getLsbD j)
  { w with
    lane := lane, st := .running, strands := strands, s := s, win := w.win0
    paths := paths, nextBorn := w.nextBorn + groups.length, turnOf := none, turnOver := false
    icount := w.ck.icount, quantum := 16, turnQ := 16
    fpctl := w.ck.fp.extractLsb' 0 4, fpflags := w.ck.fp.extractLsb' 4 5
    trapcause := 0, trappc := 0, trapaddr := 0, trapinfo := 0, trapstat := 0, lrung := 0
    openB := [], sealedB := [], nextB := 0, mmapN := 0 }

/-- Make a suspended workgroup resident on a core and restore its waves. -/
def State.resumeWg (s : State) (g core : Nat) : State :=
  let args := (s.gridOf g).lrec.args
  let ws := (s.wgD g).waves
  let s := s.seatWaves g core ws.length fun s i lane =>
    let w := s.waveD (ws.getD i 0)
    if w.st == .dropped then w.resumed lane args else w
  (s.updWg g fun w => { w with st := if s.unstaged g then .staging else .running }).bringTiles g

/-- The core on which a suspended workgroup can resume (R387): its own when it stayed in place, else the first of its
cluster with room. -/
def State.resumeCore (s : State) (g : Nat) : Option Nat :=
  let w := s.wgD g
  let cl := clusterOf w.core
  match s.hdrOf g with
  | none => none
  | some h =>
    if !s.roomTiles g then none
    else match w.st with
      | .dropped => if s.roomBack h w.core then some w.core else none
      | .saved => s.firstCore h cl
      | _ => none

/-- Resume each workgroup of a list, or none when one has no room. -/
def State.resumeAll (s : State) : List Nat → Option State
  | [] => some s
  | g :: r => match s.resumeCore g with
    | none => none
    | some c => (s.resumeWg g c).resumeAll r

/-- The workgroup is suspended. -/
def State.suspended (s : State) (g : Nat) : Bool := (s.wgD g).st == .dropped || (s.wgD g).st == .saved

/-- The workgroups that resume together with one: both halves of a pair, and every sibling of an open group whose waves have
not ended (R359). -/
def State.resumeSet (s : State) (g : Nat) : List Nat :=
  let k := (s.wgD g).grid
  if (s.wgD g).sib.isSome && !(s.gridD k).sgDone then
    (s.wgs.filter fun e => e.2.grid == k && !(s.liveWaves e.1).isEmpty).map (·.1)
  else (s.halves g).filter fun h => !(s.liveWaves h).isEmpty

/-- No wave of the workgroup is still to be dropped. -/
def State.dropsDone (s : State) (g : Nat) : Bool := (s.wgD g).waves.all fun u => !(s.waveD u).dropReq

/-- The workgroup can resume (R387, R359, R393). -/
def State.mayResume (s : State) (g : Nat) : Bool :=
  s.suspended g && (s.ctxD (s.ctxOf g)).st == .running && (s.resumeSet g).all fun h => s.suspended h && s.dropsDone h

/-- The event `WORKGROUP_RESUME` (R71, R387). -/
def execWorkgroupResume (g : Nat) (s : State) : Out :=
  if s.mayResume g then .next ((s.resumeAll (s.resumeSet g)).getD s) else .next s

/-! ## Switching a context out (R393, R389) -/

/-- Workgroups of a context that are on a core or wait for one. -/
def State.ctxWgs (s : State) (cx : Nat) : List Nat := (s.wgs.filter fun e => s.ctxOf e.1 == cx).map (·.1)

/-- Begin to switch a context out (R393 steps 1 and 2): pre-emption of every workgroup is requested. -/
def State.beginSwitch (s : State) (cx : Nat) (deadline : BitVec 64) : State :=
  let s := s.updCtx cx fun c => { c with st := .leaving, deadline := deadline, expired := false, forcedOut := false }
  (s.ctxWgs cx).foldl State.requestDrop s

/-- Every workgroup of the context is suspended, and what must complete has (R393): `TSTORE`s and memory drains in progress,
and the versions of retired tasks that may drain. -/
def State.switchReady (s : State) (cx : Nat) : Bool :=
  (s.ctxWgs cx).all (fun g => (s.wgD g).waves.all fun u => (s.waveD u).st == .dropped || (s.waveD u).st == .ended) &&
  !(s.entries.any fun e => e.2.ctx == cx) && !(s.copies.any fun x => x.2.ctx == cx && x.2.kind == .store && x.2.started) &&
  !(s.deps.any fun e => e.2.ctx == cx && (e.2.st == .draining || s.drainDue e.2))

/-- Versions that come back with their tasks (R393): those of tasks that have not retired, or are held, or that a suspended
earlier task holds back (log 21). -/
def State.keptTiles (s : State) (cx : Nat) : List Nat :=
  s.deps.flatMap fun e => if e.2.ctx == cx then e.2.tiles.map (·.2) else []

/-- A tile-table entry of a context that is switched out (R393, R201): a version is saved, any other entry is discarded. -/
def Tile.takeAway (t : Tile) (kept : Bool) : Tile :=
  if kept then { t with away := true }
  else { t with away := true, st := .empty, err := true, cause := 0, eaddr := 0, esub := 0, bytes := [], recs := [], refs := 0 }

/-- Finish the switch (R393 steps 3 to 5): copies that are left are cancelled, the context's tile-table entries, cluster queues
and cached parameter blocks (R208) go, and its workgroups are saved. -/
def State.finishSwitch (s : State) (cx : Nat) : State :=
  let mine := s.copies.filter fun e => e.2.ctx == cx
  let s := mine.foldl (fun s e => s.cancelCopy e.1 e.2) s
  let kept := s.keptTiles cx
  let s := { s with
    blocks := s.blocks.filter fun b => !(s.ctxD cx).dies.getLsbD (dieOfCluster b.cluster)
    cqueues := s.cqueues.keep fun _ q => s.ctxOf q.owner != cx
    tiles := s.tiles.mapVals fun t x => if x.ctx == cx then x.takeAway (kept.contains t) else x }
  let named := fun t => s.tileHeld t || kept.contains t
  let s := { s with tiles := s.tiles.keep fun t x => x.ctx != cx || !x.away || named t }
  let park := fun (w : Wg) => if w.st == .dropped then { w with st := .saved } else w
  let s := (s.ctxWgs cx).foldl (fun s g => s.updWg g park) s
  s.updCtx cx fun c => { c with st := .switchedOut }

/-- The event `SWITCH_DEADLINE_EXPIRY` (R389): every wave that is left is dropped at its next point, whatever its flags. -/
def execSwitchDeadlineExpiry (cx : BitVec 6) (s : State) : Out :=
  let n := cx.toNat
  let c := s.ctxD n
  if c.st != .leaving || c.deadline == 0 || c.expired then .next s
  else
    let s := s.updCtx n fun c => { c with expired := true }
    let force := fun (w : Wave) => if w.st == .running || w.st == .halted then { w with dropReq := true, forced := true } else w
    let ws := (s.ctxWgs n).flatMap fun g => (s.wgD g).waves
    .next (ws.foldl (fun s u => s.updWave u force) s)

/-! ## Halted waves (R403) -/

/-- The event `HALT_RESUME` (R403): the wave goes on after its `HALT`, or is discarded as `WEXIT` does. -/
def execHaltResume (u : Nat) (discard : Bool) (s : State) : Out :=
  if (s.waveD u).st != .halted then .next s
  else if discard then .next (s.endWaveChecked u)
  else .next (s.updWave u fun w => { w with st := .running })

end Sys2Proof.Machine
end

