-- ==== Sys2Proof/Machine/Arrive.lean ====
section
/-! DEFINITION. Machine/Arrive.lean: what comes back to a wave: instruction-cache lines (03_control R61, R65), the end of a
quantum (R60), page walks (06_memory R153), load data (R158, R161, R168), and the operations and replies of the atomic
service units (11_sync R293, R294). -/

namespace Sys2Proof.Machine

/-! ## Instruction cache and quantum -/

/-- The path whose window has missed (R61). -/
def Wave.missing (w : Wave) : Option Path := w.paths.find? fun p => p.wait == .icache

/-- The event `ICACHE_MISS_FILL` (R65): the line of the missing window comes from the die's L2, and the path can issue. -/
def execIcacheMissFill (u : Nat) (s : State) : Out :=
  let w := s.waveD u
  match w.missing with
  | none => .next s
  | some p =>
    let s := match s.translate (s.whoLs w) .fetch (windowOf (w.pathPc p)) with
      | .ok pa => s.icacheFill (s.coreOf w) pa
      | .error _ => s
    .next (s.updWave u fun w => w.updPath p.born fun p => { p with wait := .none })

/-- The event `QUANTUM_EXPIRY` (R60): a path at a window boundary has used up its quantum. -/
def execQuantumExpiry (u : Nat) (s : State) : Out :=
  if (s.waveD u).st == .running && (s.waveD u).turnExpired then .next (s.updWave u Wave.endTurn) else .next s

/-! ## Page walks (R153) -/

/-- Accesses of a core's load-store units for a context. -/
def State.whoCore (s : State) (cx core : Nat) : Who :=
  { ctx := cx, priv := 0, die := dieOf core, core := some core, cluster := some (clusterOf core),
    sec := s.secCluster (clusterOf core) }

/-- Put an entry into a TLB of `cap` entries: the oldest entry goes when it is full. -/
def tlbPut (t : List TlbEntry) (e : TlbEntry) (cap : Nat) : List TlbEntry :=
  let same := fun (x : TlbEntry) => x.cluster == e.cluster && x.core == e.core
  let mine := t.filter same
  let t := if mine.length < cap then t
    else match mine with
      | [] => t
      | old :: _ => t.erase old
  t ++ [e]

/-- The event `PAGE_WALK` (R151, R153): a translation that succeeds goes to the core's TLB and to its cluster's; a fault is
not kept. -/
def execPageWalk (core : Nat) (ctx : BitVec 6) (va : BitVec 64) (s : State) : Out :=
  let cx := ctx.toNat
  let a := s.whoCore cx core
  let t := s.regionTable
  if 960 ≤ core || (s.ctxD cx).st != .running || va.toNat / 2 ^ 56 != 0 || (s.tlbHit a va.toNat).isSome then .next s
  else match s.walk a t va.toNat with
    | .error _ => .next s
    | .ok pte =>
      let size := 2 ^ leafBits pte
      let e : TlbEntry := { cluster := clusterOf core, core := some core, asid := s.asidOf cx
                            va := va.toNat / size * size, size := size, pte := BitVec.ofNat 64 pte, secure := t }
      .next (s.updMem fun m => { m with tlb := tlbPut (tlbPut m.tlb e 64) { e with core := none } 1024 })

/-! ## Loads -/

/-- The data of a load may arrive: older stores, atomics and loads of its wave to the same lines have been performed (R167,
R183). -/
def State.loadReady (s : State) (k : Nat) (l : Load) : Bool :=
  l.all.all fun x => !s.olderReq l.wave k (lineKey x.2.2.2) && !s.olderLoad l.wave k (lineKey x.2.2.2)

/-- The trap of a load that read poison (R161). -/
def poisonTrap (x : Nat × Nat × BitVec 64) : Trap :=
  { cause := .uncorrectable, addr := x.2.2, info := BitVec.ofNat 64 (x.1 + x.2.1 * 2 ^ 5) }

/-- The event `LOAD_DATA_ARRIVAL` (R158, R168): the accesses are performed and the data written; a poisoned sector traps the
wave at its next instruction (R161, R383). -/
def execLoadDataArrival (k : Nat) (s : State) : Out :=
  match s.loads.get? k with
  | none => .next s
  | some l =>
    let w := s.waveD l.wave
    if !s.loadReady k l then .next s
    else match s.loadPoison l with
      | none => .next ((({ s with loads := s.loads.del k } : State).landLoad l))
      | some x =>
        match w.issueOf l.wave l.mask with
        | none => .next { s with loads := s.loads.del k }
        | some c =>
          if w.st == .running && ((w.path? c.path).map w.mayIssue).getD false then
            .next (({ s with loads := s.loads.del k } : State).takeTrap c (poisonTrap x) (.imprecise l.pc))
          else .next s

/-! ## Atomic service units (R292 to R294) -/

/-- Perform a request at its unit, which takes the line exclusively (R292). -/
def State.asuPerform (s : State) (r : AsuReq) : Reply × State :=
  let s := if r.stores then s else s.homeTake r
  match r.op with
  | .rmw _ _ => s.asuAtomic r
  | .cas _ => s.asuAtomic r
  | .dqpush => s.asuDeque r
  | .dqpop => s.asuDeque r
  | .dqsteal => s.asuDeque r
  | .gqrel => s.asuGqrel r
  | .sgreward => s.asuSg r
  | .sgcancel => s.asuSg r
  | .sgclose => s.asuSg r
  | .sginfo _ => s.asuSg r
  | .dset => s.asuDset r
  | .write _ => (.val 0, s.storeOut r)

/-- The unit can perform a request: it has not, the wave's older requests on the line have been (R294), and the pages
that it writes are not stalled for a migration (R159). -/
def State.reqReady (s : State) (k : Nat) (r : AsuReq) : Bool :=
  r.reply.isNone && !s.olderReq r.wave k (lineKey r.pa) && !s.stalledAt r.pa && !(r.op.far && s.stalling)

/-- The event `ASU_OPERATION` (R292, R294). -/
def execAsuOperation (k : Nat) (s : State) : Out :=
  match s.reqs.get? k with
  | none => .next s
  | some r => if !r.stores && s.reqReady k r then .next (s.replied k r (s.asuPerform r)) else .next s

/-- The load-store units perform a plain store that has issued (R7, R183). -/
def State.storeLands (s : State) (k : Nat) : State :=
  match s.reqs.get? k with
  | none => s
  | some r => if r.stores && s.reqReady k r then s.replied k r (s.asuPerform r) else s

/-- The first store that can be performed. -/
def State.storeNext (s : State) : Option Nat := (s.reqs.find? fun r => r.2.stores && s.reqReady r.1 r.2).map (·.1)

/-- The issue that waits for the reply of a precise request. -/
def AsuReq.issue (r : AsuReq) (p : Path) : Issue := { wave := r.wave, path := r.path, mask := p.mask, pc := r.pc, next := r.next }

/-- A returned value is written to its destination and to the latch that waits for it (R38, R294). -/
def Wave.takeReply (w : Wave) (r : AsuReq) (x : BitVec 64) : Wave :=
  match r.d with
  | none => w
  | some d =>
    let write := fun (i : Nat) (st : Strand) =>
      let st := if r.nwb || d.s then st else st.setD r.w64 d.n.toNat x
      st.landLatch (r.ages.getD i st.pushes) (latchVal r.w64 x)
    let w := w.updStrands r.slots write
    if d.s && !r.nwb then w.setS d.n.toNat (sVal r.w64 r.sgn x) else w

/-- The instruction that waited for its reply retires with it, or traps (R293). -/
def State.takePrecise (s : State) (r : AsuReq) (c : Issue) (x : Reply) : State :=
  match x with
  | .trap t => s.takeTrap c t .precise
  | .val v => s.put c fun w => match r.d with
    | none => w.retire c fun _ st => st
    | some d => w.retireData c r.slots r.nwb d r.w64 r.sgn fun _ => v

/-- The event `ASU_REPLY_ARRIVAL` (R294). -/
def execAsuReplyArrival (k : Nat) (s : State) : Out :=
  match s.reqs.get? k with
  | none => .next s
  | some r =>
    let w := s.waveD r.wave
    let gone : State := { s with reqs := s.reqs.del k }
    match r.reply with
    | none => .next s
    | some x =>
      if w.st == .ended || w.st == .dropped then .next gone
      else if r.precise then
        match w.path? r.path with
        | none => .next gone
        | some p => if w.st == .running && w.mayIssue p then .next (gone.takePrecise r (r.issue p) x) else .next s
      else match x with
        | .trap _ => .next gone
        | .val v => .next (gone.updWave r.wave fun w => w.takeReply r v)

end Sys2Proof.Machine
end

