-- ==== Sys2Proof/Machine/Sync.lean ====
section
/-! DEFINITION. Machine/Sync.lean: named barriers (11_sync R299 to R301), named queues (R302 to R306), the register pool
(R309 to R313), and what they do to pre-emption, transactions and deterministic mode (R316 to R318). -/

namespace Sys2Proof.Machine

/-! ## Named barriers -/

/-- Every strand of the path continues after an instruction of the blocking set. -/
def blockNext (s : State) (c : Issue) : Ans := .next (s.put c fun w => w.retireBlock c id)

/-- An arrival of the enabled strands at a named barrier (R300): `kind` as in `NamedBar.kind`. -/
def barAns (s : State) (c : Issue) (w : Wave) (e : BitVec 32) (id : Nat) (kind : Option Nat) (waits : Bool) : Ans :=
  let b := (s.wgD w.wg).bars.getD id {}
  let b' := { b with kind := some kind, arrived := b.arrived ++ [(c.wave, e)] }
  let excess := match kind with | some n => n < (s.arrivedWaves w.wg b').length | none => false
  if (b.kind != none && b.kind != some kind) || excess then .trap (trapOf .queueMisuse)
  else if s.posted c.wave e then .wait false
  else
    let s := s.updWg w.wg fun g => { g with bars := g.bars.set id b' }
    if !waits then .next ((s.put c fun w => w.retireBlock c fun w => w).checkBar w.wg id)
    else
      let s := (s.put c fun w => w.updPath c.path fun p => p.hold c (.barrier id)).checkBar w.wg id
      let waiting := ((s.waveD c.wave).path? c.path).any fun p => p.wait == .barrier id
      .next (if waiting then s.put c fun w => (w.updStrands c.mask fun _ st => { st with latN := 0 }).endTurn else s)

/-- `BAR` (R300). -/
def execBar (h : Hd) (id : Src) (s : State) : Out :=
  perform s h [] fun c w e =>
    if e == 0 then blockNext s c
    else guardTrap (s.txTrap w false true)
      (if 15 < (rd32 w 0 id).toNat then .trap (badField .sa) else barAns s c w e (rd32 w 0 id).toNat none true)

/-- `BARS` (R300). -/
def execBars (h : Hd) (arr : Bool) (id n : Src) (s : State) : Out :=
  perform s h [] fun c w e =>
    let k := (rd32 w 0 n).toNat
    if e == 0 then blockNext s c
    else guardTrap (s.txTrap w false true)
      (if 15 < (rd32 w 0 id).toNat then .trap (badField .sa)
      else if k = 0 || 32 < k then .trap (badField .sb)
      else barAns s c w e (rd32 w 0 id).toNat (some k) (!arr))

/-! ## Named queues -/

/-- Number of a cluster queue of a workgroup (R302). -/
def State.cqNo (s : State) (g q : Nat) : Nat := (s.ctxOf g * 240 + clusterOf (s.wgD g).core) * 16 + q

/-- A configured queue; a cluster queue whose owner has ended is unconfigured (R304). -/
def State.queue? (s : State) (g : Nat) (cl : Bool) (q : Nat) : Option Queue :=
  match cl with
  | false => (s.wgD g).queues.get? q
  | true => match s.cqueues.get? (s.cqNo g q) with
    | some x => if (s.wgs.get? x.owner).any fun o => o.st != .ended then some x else none
    | none => none

/-- Set a queue. -/
def State.setQueue (s : State) (g : Nat) (cl : Bool) (q : Nat) (x : Queue) : State :=
  if cl then { s with cqueues := s.cqueues.set (s.cqNo g q) x } else s.updWg g fun w => { w with queues := w.queues.set q x }

/-- Two waiters of one queue, both pushers or both poppers (R305). -/
def State.sameQueue (s : State) (g : Nat) (push cl : Bool) (q : Nat) (x : Waiter) : Bool :=
  let g' := (s.waveD x.wave).wg
  x.push == push && x.cl == cl && x.q == q && (if cl then s.cqNo g' q == s.cqNo g q else g' == g)

/-- The first waiter of a queue, of its kind (R305). -/
def State.firstWaiter (s : State) (g : Nat) (push cl : Bool) (q : Nat) : Option Nat :=
  s.waiters.findKey fun _ x => s.sameQueue g push cl q x

/-- The wait condition of a push or a pop (R305). -/
def Queue.open (x : Queue) (push : Bool) : Bool := if push then 0 < x.allow else 0 < x.count

/-- Put an entry at the end of a queue (R305): a word into the ring in the owner's local store, or the tile of a handle,
which becomes unbound. -/
def State.putEntry (s : State) (g : Nat) (cl : Bool) (q : Nat) (x : Queue) (val : BitVec 64) (reg : Nat) :
    Except Trap State :=
  let k := (x.head + x.count) % x.cap
  let x' := { x with allow := x.allow - 1, count := x.count + 1 }
  if x.handles then
    match (s.wgD g).handles.get? reg with
    | none => .error (trapOf .tileUndeclared)
    | some t =>
      let s := s.setQueue g cl q { x' with tiles := x.tiles.set k t }
      .ok (s.updWg g fun w => { w with handles := w.handles.del reg, shared := w.shared &&& ~~~slotBit reg })
  else
    let bs := toBytes 4 (val.toNat % 2 ^ 32)
    let cells := ((List.range 4).zip bs).map fun b => (x.base + 4 * k + b.1, b.2)
    .ok ((s.setQueue g cl q x').updWg x.owner fun w => { w with lmem := w.lmem.setAll cells })

/-- A pop that returns an entry acquires at the queue's scope: at .cl it empties the core's L1 (R306, R154). -/
def State.popAcquire (s : State) (g : Nat) (cl : Bool) : State := if cl then s.l1DropAll (s.wgD g).core else s

/-- Take the entry at the head of a queue (R305): the word, or the tile, bound to `reg`. The word of a handle entry is no
number of the manual's: a free value. -/
def State.takeEntry (s : State) (g : Nat) (cl : Bool) (q : Nat) (x : Queue) (ag : Bool) (reg : Nat) : BitVec 64 × State :=
  let n := if ag then 0 else 1
  let x' : Queue := { x with
    head := (x.head + 1) % x.cap, count := x.count - 1, out := x.out + n, allow := x.allow + (1 - n) }
  let free := (Config.freeWord s.free).extractLsb' 0 32 |>.zeroExtend 64
  let s := s.popAcquire g cl
  if x.handles then
    match x.tiles.get? x.head with
    | none => (free, s.setQueue g cl q x')
    | some t =>
      let s := s.unbind g reg
      let s := s.updWg g fun w => { w with handles := w.handles.set reg t }
      (free, (s.setQueue g cl q { x' with tiles := x.tiles.del x.head }).drew 1)
  else
    let bs := localRead (s.wgD x.owner).lmem (x.base + 4 * x.head) 4 s.free
    (BitVec.ofNat 64 (ofBytes bs), (s.setQueue g cl q x').drew 4)

/-- A performed `QPUSH`: it retires, and the strands defer (R316). -/
def State.donePush (s : State) (c : Issue) : State := s.put c fun w => s.deferIn (w.retireBlock c id) c.mask

/-- A performed `QPOP` of a word or a tile: it retires with its result. -/
def State.donePop (s : State) (c : Issue) (hq nwb : Bool) (reg : Nat) (x : BitVec 64) : State :=
  s.put c fun w => s.deferIn (if hq then w.retireBlock c id else w.retireBlockData c c.mask nwb { s := true, n := BitVec.ofNat 8 reg } true x) c.mask

/-- Perform a waiting push or pop (R305); on a queue that is unconfigured, or of the other kind, it traps. -/
def State.serveWaiter (s : State) (k : Nat) (x : Waiter) : State :=
  let w := s.waveD x.wave
  let c := w.issueAt x.wave x.path
  let s := { s with waiters := s.waiters.del k }
  match s.queue? w.wg x.cl x.q with
  | none => s.takeTrap c (trapOf .queueMisuse) .precise
  | some q =>
    if q.handles != x.hq then s.takeTrap c (trapOf .queueMisuse) .precise
    else if x.push then
      match s.putEntry w.wg x.cl x.q q x.val x.reg with
      | .error t => s.takeTrap c t .precise
      | .ok s => s.donePush c
    else
      let r := s.takeEntry w.wg x.cl x.q q x.ag x.reg
      r.2.donePop c x.hq x.nwb x.reg r.1

/-- A waiter can be served now: it is the first of its kind, and its condition holds, or its queue is gone. -/
def State.waiterReady (s : State) (k : Nat) (x : Waiter) : Bool :=
  let g := (s.waveD x.wave).wg
  match s.queue? g x.cl x.q with
  | none => true
  | some q => s.firstWaiter g x.push x.cl x.q == some k && (q.open x.push || q.handles != x.hq)

/-- The event `QUEUE_WAITER_SERVED` (R305). -/
def execQueueWaiterServed (k : Nat) (s : State) : Out :=
  match s.waiters.get? k with
  | none => .next s
  | some x => .next (if s.waiterReady k x then s.serveWaiter k x else s)

/-- Serve every waiter that can be served: in deterministic mode an operation of the release round serves them at once. -/
def State.serveAll : Nat → State → State
  | 0, s => s
  | n + 1, s =>
    match s.waiters.find? fun e => e.2.cl && s.waiterReady e.1 e.2 with
    | none => s
    | some (k, x) => State.serveAll n (s.serveWaiter k x)

/-- What follows an operation on a queue. -/
def State.settleQueue (s : State) (c : Issue) : State := if c.go then s.serveAll s.waiters.length else s

/-- The path joins the waiters of a queue (R305). -/
def State.joinQueue (s : State) (c : Issue) (x : Waiter) : State :=
  let (k, s) := s.newUid
  let s := s.put c fun w => ((w.updPath c.path fun p => p.hold c .queued).updStrands c.mask fun _ st => { st with latN := 0 }).endTurn
  { s with waiters := s.waiters.set k x }

/-- Checks of a queue instruction: the transaction rules (R261, R263), the staging point (R318), the queue and its kind. -/
def queueAns (s : State) (c : Issue) (w : Wave) (cl : Bool) (q : Nat) (hq : Option Bool) (k : Queue → Ans) : Ans :=
  guardTrap (s.txTrap w false (!cl))
    (if cl && s.stages c w then .stage
    else match s.queue? w.wg cl q with
      | none => .trap (trapOf .queueMisuse)
      | some x => if hq.all (x.handles == ·) then k x else .trap (trapOf .queueMisuse))

/-- What a queue instruction pushes: whether it is a handle, the word, the handle. -/
def pushed (w : Wave) : QSrc → Bool × BitVec 64 × Nat
  | .word a => (false, (rd32 w 0 a).zeroExtend 64, 0)
  | .tile t => (true, 0, t.toNat)

/-- The operation can be performed at once: its condition holds and nobody waits before it (R305). -/
def State.queueFree (s : State) (g : Nat) (push cl : Bool) (q : Nat) (x : Queue) : Bool :=
  x.open push && (s.firstWaiter g push cl q).isNone

/-- `QPUSH` (R305). -/
def execQpush (h : Hd) (cl : Bool) (q : BitVec 4) (a : QSrc) (s : State) : Out :=
  perform s h [] fun c w e =>
    let (hq, val, reg) := pushed w a
    if e == 0 then blockNext s c
    else queueAns s c w cl q.toNat (some hq) fun x =>
      if hq && ((s.wgD w.wg).handles.get? reg).isNone then .trap (trapOf .tileUndeclared)
      else if s.posted c.wave 0xFFFFFFFF then .wait false
      else if s.queueFree w.wg true cl q.toNat x then
        andThen (s.putEntry w.wg cl q.toNat x val reg) fun s => .next ((s.donePush c).settleQueue c)
      else
        .next (s.joinQueue c
          { wave := c.wave, path := c.path, push := true, cl := cl, q := q.toNat, hq := hq, ag := false, val := val,
            reg := reg, nwb := false })

/-- `QPOP` (R305). -/
def execQpop (h : Hd) (cl ag : Bool) (q : BitVec 4) (d : QDst) (s : State) : Out :=
  perform s h [] fun c w e =>
    let (hq, reg) := match d with
      | .s n => (false, n.toNat)
      | .tile t => (true, t.toNat)
    if e == 0 then
      if hq then blockNext s c
      else s.done c fun w => w.retireBlockData c 0 h.nwb { s := true, n := BitVec.ofNat 8 reg } true 0
    else queueAns s c w cl q.toNat (some hq) fun x =>
      if s.queueFree w.wg false cl q.toNat x then
        let r := s.takeEntry w.wg cl q.toNat x ag reg
        .next ((r.2.donePop c hq h.nwb reg r.1).settleQueue c)
      else
        .next (s.joinQueue c
          { wave := c.wave, path := c.path, push := false, cl := cl, q := q.toNat, hq := hq, ag := ag, val := 0,
            reg := reg, nwb := h.nwb })

/-- A `QTRY` that succeeds: it retires with its status, and the strands defer (R316). -/
def State.doneTry (s : State) (c : Issue) (e : BitVec 32) (h : Hd) (d : Dst) (x : BitVec 64) : State :=
  s.put c fun w => s.deferIn (w.retireData c e h.nwb d true false fun _ => x) c.mask

/-- `QTRY` (R305): as `QPUSH` or `QPOP` when it need not wait; otherwise nothing changes and the status is 0. -/
def execQtry (h : Hd) (cl : Bool) (q : BitVec 4) (d : BitVec 6) (o : QTryOp) (s : State) : Out :=
  perform s h [] fun c w e =>
    let dst : Dst := { s := true, n := d.zeroExtend 8 }
    if e == 0 then dataNext s c e h dst true false fun _ => 0
    else match o with
      | .push a =>
        let (hq, val, reg) := pushed w a
        queueAns s c w cl q.toNat (some hq) fun x =>
          if hq && ((s.wgD w.wg).handles.get? reg).isNone then .trap (trapOf .tileUndeclared)
          else if s.posted c.wave 0xFFFFFFFF then .wait false
          else if x.open true then
            andThen (s.putEntry w.wg cl q.toNat x val reg) fun s => .next ((s.doneTry c e h dst 0x100000000).settleQueue c)
          else dataNext s c e h dst true false fun _ => 0
      | .pop ag t =>
        queueAns s c w cl q.toNat (some t.isSome) fun x =>
          if x.open false then
            let r := s.takeEntry w.wg cl q.toNat x ag (t.getD 0).toNat
            .next ((r.2.doneTry c e h dst (r.1 ||| 0x100000000)).settleQueue c)
          else dataNext s c e h dst true false fun _ => 0

/-- `QGRANT` (R305): returns allowance. -/
def execQgrant (h : Hd) (cl : Bool) (q : BitVec 4) (n : Src) (s : State) : Out :=
  perform s h [] fun c w e =>
    let k := (rd32 w 0 n).toNat
    if e == 0 then s.done c fun w => w.retire c fun _ st => st
    else queueAns s c w cl q.toNat none fun x =>
      if x.out < k then .trap (trapOf .queueMisuse)
      else
        let s := s.setQueue w.wg cl q.toNat { x with out := x.out - k, allow := x.allow + k }
        .next ((s.put c fun w => s.deferIn (w.retire c fun _ st => st) c.mask).settleQueue c)

/-- The queue that a config word asks for (R304), for an owner with `size` bytes of local store. -/
def queueConfig (owner size : Nat) (x : Nat) : Option Queue :=
  let base := field x 0 18
  let cap := field x 18 13
  let allow := field x 32 13
  let hq := x.testBit 31
  let fits := if hq then cap ≤ 32 && base == 0 else cap ≤ 4096 && base % 4 == 0
  if x / 2 ^ 45 == 0 && 0 < cap && allow ≤ cap && fits && base + 4 * cap ≤ size then
    some { handles := hq, base := base, cap := cap, head := 0, count := 0, allow := allow, out := cap - allow,
           owner := owner }
  else none

/-- `QGRANT.cfg` (R304). -/
def execQgrantCfg (h : Hd) (cl : Bool) (q : BitVec 4) (x : BitVec 6) (s : State) : Out :=
  perform s h [] fun c w e =>
    if e == 0 then s.done c fun w => w.retire c fun _ st => st
    else guardTrap (s.txTrap w false (!cl))
      (if cl && s.stages c w then .stage
      else
        let busy := (s.queue? w.wg cl q.toNat).any fun y => y.count != 0 || y.out != 0 || (cl && y.owner != w.wg)
        match queueConfig w.wg (s.localSize w.wg) (w.sreg x.toNat).toNat with
        | none => .trap (trapOf .queueMisuse)
        | some y =>
          if busy then .trap (trapOf .queueMisuse)
          else
            let old := if cl then (s.cqueues.get? (s.cqNo w.wg q.toNat)).elim [] (·.tiles.vals) else []
            let s := old.foldl State.dropHold (s.setQueue w.wg cl q.toNat y)
            .next ((s.put c fun w => s.deferIn (w.retire c fun _ st => st) c.mask).settleQueue c))

/-! ## The register pool -/

/-- Change the window size of a wave (R310): registers above a smaller window are lost, new ones read zero. -/
def Wave.resize (w : Wave) (win : Nat) : Wave :=
  let cut := fun (_ : Nat) (st : Strand) => { st with v := st.v.keep fun n _ => n < win }
  { w with win := win, owed := true, strands := w.strands.mapVals cut }

/-- n of `REGGIVE` and `REGCLAIM` is a multiple of 4 from 4 to 252 (R310). -/
def validRegs (n : Nat) : Bool := n % 4 == 0 && 4 ≤ n && n ≤ 252

/-- `REGGIVE` (R310). -/
def execReggive (h : Hd) (n : Src) (s : State) : Out :=
  perform s h [] fun c w e =>
    let k := (rd32 w 0 n).toNat
    guardTrap (s.txTrap w false false)
      (if !validRegs k || w.win < k + 4 then .trap (badField .sa)
      else if !w.converged e then .trap (trapOf .illegalConvergence)
      else s.done c fun w => (w.retire c fun _ st => st).resize (w.win - k))

/-- A claim is met (R310): the wave's window grows and `REGCLAIM` retires. -/
def State.grant (s : State) (c : Issue) (n : Nat) : State :=
  s.put c fun w => (w.retireBlock c id).resize (w.win + n)

/-- `REGCLAIM` (R310 to R312). -/
def execRegclaim (h : Hd) (n : Src) (s : State) : Out :=
  perform s h [] fun c w e =>
    let k := (rd32 w 0 n).toNat
    guardTrap (s.txTrap w false false)
      (if !validRegs k || 256 < w.win + k then .trap (badField .sa)
      else if !w.converged e then .trap (trapOf .illegalConvergence)
      else
        let core := s.coreOf w
        let q := s.claims.getD core []
        if q.isEmpty && 32 * k ≤ s.regFree core then .next (s.grant c k)
        else
          let s := s.put c fun w => ((w.updPath c.path fun p => p.hold c .queued).updStrands c.mask fun _ st => { st with latN := 0 }).endTurn
          .next ({ s with claims := s.claims.set core (q ++ [(c.wave, c.path, k)]) }.checkClaims w.wg))

/-- The event `REGCLAIM_SERVE` (R310, R311): the claim at the head of a core's queue, when it can be met. -/
def execRegclaimServe (core : Nat) (s : State) : Out :=
  match s.claims.getD core [] with
  | [] => .next s
  | (u, b, n) :: r =>
    if 32 * n ≤ s.regFree core then
      .next ({ s with claims := s.claims.set core r }.grant ((s.waveD u).issueAt u b) n)
    else .next s

end Sys2Proof.Machine
end

