-- ==== Sys2Proof/Machine/Rounds.lean ====
section
/-! DEFINITION. Machine/Rounds.lean: how workgroups, versions and grids end (03_control R56, 12_tasks R322, R324, R330, R331,
R333, 13_groups_stamps R353, R354), and the release rounds of deterministic mode (R337 to R340, R378, 10_transactions R289,
09_matrix R259, 17_programs_b R422). -/

namespace Sys2Proof.Machine

/-! ## Workgroups retire (R22, R56, R324) -/

/-- A copy goes on by itself: it has started, or its token is there (R211, R217). -/
def State.copyMoves (s : State) (k : Nat) (x : Copy) : Bool :=
  x.started || (x.token && 0 < (s.waveD x.wave).tok x.cw.wtok.toNat && !s.olderConsumer x.wave x.cw.wtok.toNat k)

/-- Both halves have ended, their children have retired, and what they issued has completed (R22, R56). -/
def State.retireReady (s : State) (g : Nat) : Bool :=
  let hs := s.halves g
  hs.all (fun h => (s.wgD h).st == .ended && (s.wgD h).waves.all fun u => (s.waveD u).kids == 0) &&
  !(s.copies.any fun x => hs.contains x.2.wg && s.copyMoves x.1 x.2) && !(s.entries.any fun x => hs.contains x.2.wg) &&
  !(s.reqs.any fun x => hs.contains x.2.wg) && !(s.xfers.any fun x => hs.contains x.2.wg) &&
  hs.all fun h => (s.wgD h).staged.isEmpty && (s.wgD h).maxes.isEmpty &&
    !((s.wgD h).sib.any fun x => s.objStalled (s.objOf h x))

/-- The task of a workgroup that retires (R329 to R334): a killed one takes its versions with it; any other keeps its bytes
until they drain, or, for a sibling, until its group is DONE (R353). -/
def State.retireTask (s : State) (g : Nat) : State :=
  let w := s.wgD g
  match w.task with
  | none => s
  | some d =>
    match s.deps.get? d with
    | none => s
    | some e =>
      let ver := if s.txPending g then [] else w.ver
      let held := e.sib && !(s.gridD w.grid).sgDone
      if e.status == some 6 then (s.poisonAfter e).freeDep d
      else if e.noVer || (!held && ver.isEmpty) then s.freeDep d
      else s.updDep d fun x => { x with st := .retired, ver := ver, held := held }

/-- One workgroup retires: its grid counts it, its handles, queues and waves go. -/
def State.retireWg (s : State) (g : Nat) : State :=
  let w := s.wgD g
  let s := s.sibCancel g false
  let stuck := s.copies.filter fun x => x.2.wg == g
  let s := stuck.foldl (fun s x => s.cancelCopy x.1 x.2) s
  let s := (s.retireTask g).unshare w.grid
  let s := s.updGrid w.grid fun x =>
    { x with retired := x.retired + 1, gone := x.gone ++ [w.lin], part := x.part || w.killed }
  let s := w.handles.foldl (fun s h => s.unbind g h.1) s
  let mine := s.cqueues.filter fun q => q.2.owner == g
  let tiles := (w.queues ++ mine).flatMap fun q => q.2.tiles.map (·.2)
  let s := { s with
    wgs := s.wgs.del g
    waves := s.waves.keep fun _ v => v.wg != g
    cqueues := s.cqueues.keep fun _ q => q.owner != g }
  tiles.foldl State.dropHold s

/-- A workgroup retires, with its other half. -/
def State.retirePair (s : State) (g : Nat) : State := ((s.halves g).foldl State.retireWg s).resolved

/-- The event `WORKGROUP_RETIRE` (R22, R56); in deterministic mode the release round does it (R322). -/
def execWorkgroupRetire (g : Nat) (s : State) : Out :=
  if (s.wgs.get? g).isSome && !s.isDet g && s.retireReady g then .next (s.retirePair g) else .next s

/-! ## Versions drain (R330, R331) -/

/-- Whose accesses a drain makes: the cluster's copy engine's, at level 0 (R331, R152). -/
def State.whoDrain (s : State) (e : Dep) : Who :=
  s.whoCp e.ctx (match e.tiles with | [] => 0 | t :: _ => (s.tileD t.2).cluster) 0

/-- Write the bytes of a task's versions that lie in some of its regions, by sector (R331). A sector that fails is lost and
counted. -/
def State.drainBytes (s : State) (e : Dep) (ver : Tab (BitVec 8 × BitVec 2)) (rs : List (Nat × Region)) : State :=
  let lost := fun (s : State) (c : Cause) => s.countFault e.ctx 3 c
  s.publish (s.whoDrain e) [] ((verIn ver (rs.map (·.2))).mapVals fun _ b => (b.1, 0)) lost

/-- Drain the versions of some regions of a retired task; when none is left the entry's drain is over. -/
def State.drainDep (s : State) (d : Nat) (e : Dep) (rs : List (Nat × Region)) : State :=
  let s := s.drainBytes e e.ver rs
  let hs := rs.map (·.1)
  let s := (e.tiles.filter fun t => hs.contains t.1).foldl (fun s t => s.updTile t.2 fun x => { x with st := .draining }) s
  let e := { e with ver := verOut e.ver (rs.map (·.2)), drained := e.drained ++ hs }
  (s.updDep d fun _ => if e.regions.any e.undrained then e else { e with st := .draining, ver := [] }).resolved

/-- The event `VERSION_DRAIN` (R331); in deterministic mode the release round does it (R339). -/
def execVersionDrain (d : Nat) (s : State) : Out :=
  match s.deps.get? d with
  | none => .next s
  | some e =>
    if s.drainReady e && !(e.det && (s.ctxD e.ctx).roundOpen) then .next (s.drainDep d e (s.readyRegions e)) else .next s

/-- The event `VERSION_DRAIN_COMPLETE` (R329): the entry is freed. -/
def execVersionDrainComplete (d : Nat) (s : State) : Out :=
  match s.deps.get? d with
  | none => .next s
  | some e => if e.st == .draining then .next (s.freeDep d).resolved else .next s

/-! ## End of launch (R322) -/

/-- The status code of a grid (R321). -/
def Grid.code (g : Grid) : Nat :=
  if g.aborted then 7
  else match g.fail with
    | some c => c
    | none => if g.killed then 6 else if g.poisoned then 5 else if g.part then 8 else 0

/-- Siblings of a grid. -/
def Grid.isSiblings (g : Grid) : Bool := match g.kind with | .siblings _ _ _ => true | _ => false

/-- A grid's end of launch may run (R322): its workgroups have retired, or its failure has been decided, and its versions have
drained: every write is performed. A sibling group that can no longer become DONE holds its versions no more (R353). -/
def State.endReady (s : State) (k : Nat) : Bool :=
  let g := s.gridD k
  g.started && (g.fail.isSome || g.size ≤ g.retired) && !(s.wgs.any fun e => e.2.grid == k) && g.lost.isEmpty && !s.stalling &&
  ((g.isSiblings && !g.sgDone) || !(s.deps.any fun e => e.2.grid == k))

/-- Write the signal word (R322): a fault drops it and is counted. -/
def State.signal (s : State) (g : Grid) : State :=
  if !g.lrec.sigen then s
  else
    let a := s.whoHub g.ctx
    match s.checkAt a .store 8 g.lrec.sigaddr with
    | .error f => s.countFault g.ctx 1 f.cause
    | .ok pa => s.writeBytes a.die (s.asidOf g.ctx) pa (toBytes 8 (g.lrec.sigval.toNat + g.code * 2 ^ 32))

/-- The end of launch (R322): writes are performed, the signal word is written, and the parent has one child less (R324). The
group of a sibling grid that was ended before it was DONE releases its versions first. -/
def State.endGrid (s : State) (k : Nat) : State :=
  let g := s.gridD k
  let s := if g.isSiblings && !g.sgDone then s.releaseVersions k 0 else s
  if !s.endReady k then s
  else
    let s := s.writeBackAll.signal g
    let s := match g.parent with
      | some u => s.updWave u fun w => { w with kids := w.kids - 1, kidMask := w.kidMask ||| slotBit g.code }
      | none => s
    let s := { s with grids := s.grids.del k }
    (g.sharedTiles.foldl (fun s x => s.dropHold x.2) s).acceptWaiting g.ctx

/-- The event `END_OF_LAUNCH` (R322); in deterministic mode the release round does it. -/
def execEndOfLaunch (k : Nat) (s : State) : Out :=
  if (s.grids.get? k).isSome && !(s.gridD k).det && s.endReady k then .next (s.endGrid k) else .next s

/-! ## Parts of a round (R339) -/

/-- The event `DETQ_EXPIRY` (R339): the wave has retired its quantum of the round. -/
def execDetqExpiry (u : Nat) (s : State) : Out :=
  let w := s.waveD u
  if w.st == .running && s.isDet w.wg && (s.gridOf w.wg).lat.detq.toNat ≤ w.roundN then
    .next (s.updWave u fun w => { w with partEnd := true })
  else .next s

/-- The workgroup belongs to a deterministic grid of a context. -/
def State.detWg (s : State) (cx g : Nat) : Bool := s.isDet g && s.ctxOf g == cx

/-- A wave's part of the round has ended, or it can do nothing more in it (R339). -/
def State.waveStill (s : State) (u : Nat) : Bool :=
  let w := s.waveD u
  match w.st with
  | .running => w.partEnd || (s.waveIdle u && w.missing.isNone)
  | .dropped => w.partEnd
  | _ => true

/-- A workgroup's part of the round has ended (R339, R338, R422). -/
def State.wgStill (s : State) (g : Nat) : Bool :=
  let w := s.wgD g
  match w.st with
  | .running => w.waves.all s.waveStill
  | .ended => true
  | .swapped => !w.live
  | .staging => false
  | .replay => false
  | .dropped => (s.liveWaves g).all fun u => (s.waveD u).partEnd
  | .saved => (s.liveWaves g).all fun u => (s.waveD u).partEnd

/-- The data of a load can arrive now. -/
def State.loadMoves (s : State) (k : Nat) (l : Load) : Bool :=
  let w := s.waveD l.wave
  s.loadReady k l && match s.loadPoison l, w.issueOf l.wave l.mask with
    | some _, some c => w.st == .running && ((w.path? c.path).map w.mayIssue).getD false
    | _, _ => true

/-- A reply can arrive now. -/
def State.replyMoves (s : State) (r : AsuReq) : Bool :=
  let w := s.waveD r.wave
  r.reply.isSome && (w.st == .ended || w.st == .dropped || !r.precise ||
    (match w.path? r.path with | none => true | some p => w.st == .running && w.mayIssue p))

/-- An entry of a matrix engine goes on by itself. -/
def State.entryMoves (s : State) (k : Nat) (e : Entry) : Bool :=
  e.busy || (e.granted != 0 && e.granted == e.total) || s.grantable k e

/-- Something of a deterministic grid is still to be dispatched for this round (R338). -/
def State.gridMoves (s : State) (k : Nat) (g : Grid) : Bool :=
  (s.swapPending k).isSome ||
  (g.started && g.fail.isNone &&
    if g.hasDeps then s.deps.any fun e => e.2.grid == k && e.2.st == .waiting &&
      (e.2.poison || s.predReady e.2 || s.depReady e.2)
    else !g.ready.isEmpty)

/-- A deterministic launch of the context can be drawn (R326). -/
def State.drawable (s : State) (cx : Nat) : Bool := s.eligibleQueues.any fun q => q.1 == cx && (s.gridD q.2.2.2).det

/-- Step 2 of a release round may begin (R339): every live workgroup has ended its part, and what its waves issued has
completed, or waits for a later instruction. -/
def State.roundQuiet (s : State) (cx : Nat) : Bool :=
  let c := s.ctxD cx
  let mine := s.detWg cx
  c.roundOpen && (c.st == .running || c.st == .leaving || c.st == .aborted) &&
  s.wgs.all (fun e => !mine e.1 || s.wgStill e.1) &&
  !(s.loads.any fun l => mine l.2.wg && s.loadMoves l.1 l.2) &&
  !(s.reqs.any fun r => mine r.2.wg && (s.reqReady r.1 r.2 || s.replyMoves r.2)) &&
  !(s.copies.any fun x => mine x.2.wg && (s.copyReady x.1 x.2 || (!x.2.started && s.copyMoves x.1 x.2))) &&
  !(s.entries.any fun x => mine x.2.wg && s.entryMoves x.1 x.2) &&
  !(s.waiters.any fun x => mine (s.waveD x.2.wave).wg && s.waiterReady x.1 x.2) &&
  !(s.grids.any fun e => e.2.ctx == cx && e.2.det && s.gridMoves e.1 e.2) && !s.drawable cx &&
  !s.stalling

/-! ## Releases in workgroup-index order (R339 step 2) -/

/-- What has a place in the order: a workgroup, or a task that has retired. -/
inductive Placed where
  | wg (g : Nat)
  | dep (d : Nat)
  deriving DecidableEq, Repr

/-- The index of a workgroup or task: number of its grid, and L (R338). -/
def State.placeKey (s : State) (x : Placed) : Nat × Nat :=
  match x with
  | .wg g => ((s.gridOf g).number, (s.wgD g).lin)
  | .dep d => match s.deps.get? d with | some e => (e.num, e.lin) | none => (0, 0)

/-- The workgroups and tasks of a context's deterministic grids, in order; a task comes after its workgroup. -/
def State.placed (s : State) (cx : Nat) : List Placed :=
  let ws := (s.wgs.filter fun e => s.detWg cx e.1).map fun e => Placed.wg e.1
  let ds := (s.deps.filter fun e => e.2.ctx == cx && e.2.det).map fun e => Placed.dep e.1
  sortBy s.placeKey (ws ++ ds)

/-- Staged bytes as the stores that wrote them: physical address and bytes of each run. -/
def stagedRuns : List Staged → List (Staged × List (BitVec 8))
  | [] => []
  | x :: r => match stagedRuns r with
    | (y, bs) :: q =>
      if x.wave == y.wave && x.seq == y.seq && x.pa + 1 == y.pa then (x, x.byte :: bs) :: q else (x, [x.byte]) :: (y, bs) :: q
    | [] => [(x, [x.byte])]

/-- Release a workgroup's staged stores: by wave, then in issue order (R339). -/
def State.releaseStaged (s : State) (g : Nat) : State :=
  let w := s.wgD g
  let asid := s.asidOf (s.ctxOf g)
  let runs := stagedRuns (sortBy (fun x => (x.wave, x.seq)) w.staged)
  let s := runs.foldl (fun s x => s.writeBytes (dieOf w.core) asid x.1.pa x.2) s
  s.updWg g fun w => { w with staged := [] }

/-- The commit of a workgroup's attempt, or its gate read, at its place in the round (R289). `seen`: the state before the
round's releases, whose memory a gate read returns. -/
def State.roundCommit (s seen : State) (g : Nat) : State :=
  if s.txHome g != g then s
  else if s.commitReady g then s.proceed seen g
  else if s.gating g then s.readGate seen g
  else s

/-- Versions by entry and handle: those that a round drains. -/
abbrev Drains := List (Nat × Nat)

/-- Drain what versions of an entry may drain now. -/
def State.roundDrain (x : State × Drains) (d : Nat) : State × Drains :=
  match x.1.deps.get? d with
  | none => x
  | some e =>
    if !x.1.drainReady e then x
    else
      let rs := x.1.readyRegions e
      let s := x.1.drainDep d e rs
      (if s.deps.any fun y => y.1 == d && y.2.st == .draining then (s.freeDep d).resolved else s, x.2 ++ rs.map fun q => (d, q.1))

/-- Drain, at the place of their task, versions that the round is known to drain (R339): no earlier task that has its place
later holds them back. The task itself may retire only when later places have had their turn. -/
def State.drainKnown (known : Drains) (s : State) (d : Nat) : State :=
  match s.deps.get? d with
  | none => s
  | some e =>
    let later := fun (x : Nat × Dep) => x.2.ctx == e.ctx && x.2.order < e.order &&
      (s.placeKey (.dep d)).1 ≤ x.2.num && ((s.placeKey (.dep d)).1 < x.2.num || e.lin < x.2.lin)
    let rs := e.regions.filter fun q =>
      known.contains (d, q.1) && e.undrained q && !(s.deps.any fun x => later x && x.2.holdsBack q.2)
    if rs.isEmpty then s
    else if e.over then
      let s := s.drainDep d e rs
      if s.deps.any fun y => y.1 == d && y.2.st == .draining then (s.freeDep d).resolved else s
    else match e.wg with
      | none => s
      | some g =>
        let s := s.drainBytes e (s.wgD g).ver rs
        let s := s.updWg g fun w => { w with ver := verOut w.ver (rs.map (·.2)) }
        s.updDep d fun x => { x with drained := x.drained ++ rs.map (·.1) }

/-- Step 2 for one place of the order: a workgroup's writes, then the version drains of its task. `known`: drains that the
round is known to make. -/
def State.roundStep (seen : State) (known : Drains) (x : State × Drains) (p : Placed) : State × Drains :=
  let drain := fun (s : State) (d : Nat) => State.roundDrain (s.drainKnown known d, x.2) d
  match p with
  | .dep d => drain x.1 d
  | .wg g =>
    if (x.1.wgs.get? g).isNone then x
    else
      let d := (x.1.wgD g).task
      let s := (x.1.releaseStaged g).roundCommit seen g
      let s := if s.budgetOver g then s.sibCancel g true else s
      let s := if (s.wgD g).st == .ended && s.retireReady g then s.retirePair g else s
      match d with
      | some d => drain s d
      | none => (s, x.2)

/-- What the releases allow in turn: workgroups that retire, versions that drain, siblings that the unit cancels, grids that
end. -/
def State.roundTail (cx : Nat) : Nat → State × Drains → State × Drains
  | 0, x => x
  | n + 1, x =>
    let s := x.1
    let ps := s.placed cx
    let wg := ps.findSome? fun p => match p with
      | .wg g => if s.retireReady g then some g else none
      | .dep _ => none
    let dep := ps.findSome? fun p => match p with
      | .wg _ => none
      | .dep d => match s.deps.get? d with
        | some e => if s.drainReady e then some d else none
        | none => none
    let lost := s.grids.findKey fun _ g => g.ctx == cx && g.det && !g.lost.isEmpty
    let grid := s.grids.findKey fun k g => g.ctx == cx && g.det && s.endReady k
    match wg, dep, lost, grid with
    | some g, _, _, _ => State.roundTail cx n (s.retirePair g, x.2)
    | none, some d, _, _ => State.roundTail cx n (State.roundDrain x d)
    | none, none, some k, _ => State.roundTail cx n (s.settleLost k, x.2)
    | none, none, none, some k => State.roundTail cx n (s.endGrid k, x.2)
    | none, none, none, none => x

/-- Step 2 of a round (R339). -/
def State.releases (s : State) (cx : Nat) (known : Drains) : State × Drains :=
  let x := (s.placed cx).foldl (State.roundStep s known) (s.freshParts cx, [])
  State.roundTail cx (x.1.wgs.length + 17 * x.1.deps.length + 2 * x.1.grids.length) x

/-- Step 3 of the round, as what moves next: for each wave in workgroup-index order its held maximum updates (R259), then one
performance for each of its paths that stands at a staging point. -/
def State.roundAgenda (s : State) (cx : Nat) : List Agent :=
  (s.placed cx).flatMap fun x => match x with
    | .dep _ => []
    | .wg g => (s.wgD g).waves.flatMap fun u =>
      let w := s.waveD u
      (if (s.wgD g).maxes.any (·.1 == w.idx) then [.maxUpdates u] else []) ++
        ((w.paths.filter fun p => p.wait == .staged).map fun _ => .issue u true false)

/-- The lines that a context wrote last go home (R339, R195). -/
def State.aliasCtx (s : State) (cx : Nat) : State :=
  (((s.mem.l2.filter fun x => x.owner == s.asidOf cx).map (·.line)).eraseDups).foldl State.aliasL2 s

/-- The event `RELEASE_ROUND` (R339): steps 2 to 4 of a round. Which versions the round drains is what step 2 comes to with each
drained as soon as it can be; step 2 itself then drains them at the places of their tasks. -/
def execReleaseRound (ctx : BitVec 6) (s : State) : Out :=
  let cx := ctx.toNat
  if !s.roundQuiet cx then .next s
  else
    let t := (s.releases cx (s.releases cx []).2).1
    let t := ((t.aliasCtx cx).beginRound cx).updCtx cx fun c => { c with stepping := true }
    .next { t with agenda := t.roundAgenda cx ++ [.roundEnd cx] ++ t.agenda }

/-- Step 3 of a context's round is over: a sweep that it started is carried out (R378), the context's CSRs are read as step 3
left them (R401), and what the cores' L1s hold is what it left (R176). -/
def State.roundEnd (s : State) (cx : Nat) : State :=
  if !(s.ctxD cx).stepping then s
  else
    let s := s.sweepAll cx (s.ctxD cx).visits
    ((s.l1DropDies cx).readCsrs cx).updCtx cx fun c => { c with stepping := false }

/-- The maximum updates that a wave's drains held for the round (R258, R259). -/
def State.maxUpdates (s : State) (u : Nat) : State :=
  let w := s.waveD u
  let cx := s.ctxOf w.wg
  let mine := (s.wgD w.wg).maxes.filter (·.1 == w.idx)
  let s := s.updWg w.wg fun g => { g with maxes := g.maxes.filter (·.1 != w.idx) }
  mine.foldl (fun s m =>
    let a := s.whoMx cx (clusterOf (s.coreOf w)) m.2.priv
    match s.checkAsuRw a 4 m.2.addr with
    | .ok _ => (s.maxWord a m.2.addr m.2.val).2
    | .error f => s.countFault cx 6 f.cause) s

end Sys2Proof.Machine
end

