-- ==== Sys2Proof/Machine/Sha.lean ====
section
/-! DEFINITION. Machine/Sha.lean: the SHA-256 digest that boot and attestation take (15_host R413, R416). The manual names the
function and does not define it: it is taken from its standard (notes/assumptions/6.md, PRESUMED). -/

namespace Sys2Proof.Machine

/-- The round constants. -/
def shaK : List (BitVec 32) :=
  [0x428A2F98, 0x71374491, 0xB5C0FBCF, 0xE9B5DBA5, 0x3956C25B, 0x59F111F1, 0x923F82A4, 0xAB1C5ED5] ++
  [0xD807AA98, 0x12835B01, 0x243185BE, 0x550C7DC3, 0x72BE5D74, 0x80DEB1FE, 0x9BDC06A7, 0xC19BF174] ++
  [0xE49B69C1, 0xEFBE4786, 0x0FC19DC6, 0x240CA1CC, 0x2DE92C6F, 0x4A7484AA, 0x5CB0A9DC, 0x76F988DA] ++
  [0x983E5152, 0xA831C66D, 0xB00327C8, 0xBF597FC7, 0xC6E00BF3, 0xD5A79147, 0x06CA6351, 0x14292967] ++
  [0x27B70A85, 0x2E1B2138, 0x4D2C6DFC, 0x53380D13, 0x650A7354, 0x766A0ABB, 0x81C2C92E, 0x92722C85] ++
  [0xA2BFE8A1, 0xA81A664B, 0xC24B8B70, 0xC76C51A3, 0xD192E819, 0xD6990624, 0xF40E3585, 0x106AA070] ++
  [0x19A4C116, 0x1E376C08, 0x2748774C, 0x34B0BCB5, 0x391C0CB3, 0x4ED8AA4A, 0x5B9CCA4F, 0x682E6FF3] ++
  [0x748F82EE, 0x78A5636F, 0x84C87814, 0x8CC70208, 0x90BEFFFA, 0xA4506CEB, 0xBEF9A3F7, 0xC67178F2]

/-- The initial state. -/
def shaH : List (BitVec 32) :=
  [0x6A09E667, 0xBB67AE85, 0x3C6EF372, 0xA54FF53A, 0x510E527F, 0x9B05688C, 0x1F83D9AB, 0x5BE0CD19]

/-- A word of the message schedule from the sixteen before it, oldest first. -/
def shaExtend (w : List (BitVec 32)) : BitVec 32 :=
  let a := w.getD 1 0
  let b := w.getD 14 0
  let s0 := a.rotateRight 7 ^^^ a.rotateRight 18 ^^^ (a >>> 3)
  let s1 := b.rotateRight 17 ^^^ b.rotateRight 19 ^^^ (b >>> 10)
  w.getD 0 0 + s0 + w.getD 9 0 + s1

/-- One round: the working state and the window of the schedule. -/
def shaRound (x : List (BitVec 32) × List (BitVec 32)) (k : BitVec 32) : List (BitVec 32) × List (BitVec 32) :=
  let v := fun i => x.1.getD i 0
  let w := x.2.headD 0
  let s1 := (v 4).rotateRight 6 ^^^ (v 4).rotateRight 11 ^^^ (v 4).rotateRight 25
  let ch := (v 4 &&& v 5) ^^^ (~~~(v 4) &&& v 6)
  let t1 := v 7 + s1 + ch + k + w
  let s0 := (v 0).rotateRight 2 ^^^ (v 0).rotateRight 13 ^^^ (v 0).rotateRight 22
  let maj := (v 0 &&& v 1) ^^^ (v 0 &&& v 2) ^^^ (v 1 &&& v 2)
  ([t1 + (s0 + maj), v 0, v 1, v 2, v 3 + t1, v 4, v 5, v 6], x.2.tail ++ [shaExtend x.2])

/-- A 32-bit word from four bytes, the most significant first. -/
def bigWord (b : List (BitVec 8)) : BitVec 32 := b.getD 0 0 ++ b.getD 1 0 ++ b.getD 2 0 ++ b.getD 3 0

/-- Compress one block of 64 bytes. -/
def shaBlock (h : List (BitVec 32)) (b : List (BitVec 8)) : List (BitVec 32) :=
  let w := (List.range 16).map fun i => bigWord ((b.drop (4 * i)).take 4)
  let r := shaK.foldl shaRound (h, w)
  (h.zip r.1).map fun x => x.1 + x.2

/-- The padding of a message of `n` bytes. -/
def shaPad (n : Nat) : List (BitVec 8) :=
  let zeros := (64 - (n + 9) % 64) % 64
  [0x80] ++ List.replicate zeros 0 ++ (toBytes 8 (8 * n)).reverse

/-- The digest; its first byte is the most significant. -/
def sha256 (m : List (BitVec 8)) : BitVec 256 :=
  let p := m ++ shaPad m.length
  let h := (List.range (p.length / 64)).foldl (fun h i => shaBlock h ((p.drop (64 * i)).take 64)) shaH
  BitVec.ofNat 256 (h.foldl (fun n x => n * 2 ^ 32 + x.toNat) 0)

/-- The digest as bytes, in order. -/
def digestBytes (d : BitVec 256) : List (BitVec 8) := (toBytes 32 d.toNat).reverse

end Sys2Proof.Machine
end

