-- ==== Sys2Proof/Machine/Manage.lean ====
section
/-! DEFINITION. Machine/Manage.lean: boot, ownership, the management commands and the launch rings (15_host R405 to R417,
14_system R392, R393, 01_machine R14, R16, 12_tasks R326, R327). -/

namespace Sys2Proof.Machine

/-! ## Device reset and boot (R413 to R415) -/

/-- Bytes of host memory, which no reset of the device touches. -/
def hostCells (m : List Host.Cell) : List Host.Cell := m.filter fun e => 2 ^ 51 ≤ e.1 && e.1 < 10 * 2 ^ 48

/-- Boot state after the ROM has compared the steppings (R413 step 1). -/
def bootStart (steps : List (BitVec 8)) : BitVec 8 := if steps.all (· == steps.headD 0) then 0x00 else 0x13

/-- The event `DEVICE_RESET` (R413): everything is as State.reset has it; the steppings and the ports' links are what they
were. -/
def execDeviceReset (s : State) : Out :=
  let h := s.hub
  let port := fun (p : Port) => ({ link := p.link } : Port)
  .next { State.reset with
    hub := { ({} : Hub) with steps := h.steps, bootState := bootStart h.steps, p0 := port h.p0, p1 := port h.p1 }
    mem := { ({} : Memory) with cells := hostCells s.mem.cells }
    fresh := s.fresh
    free := s.free
    clk := s.clk
    tick := s.tick }

/-- The bytes of the image in the buffer. -/
def Hub.imageBytes (h : Hub) (n : Nat) : List (BitVec 8) := (List.range n).map (memGet h.image)

/-- The configuration record that an image's firmware reads (R414). -/
def configOf (r : List (BitVec 8)) : ConfigRec :=
  { harvest := Config.harvest r, limit := Config.powerLimit r, secCl := Config.secureClusters r, secCp := Config.secureCopy r
    secAsu := Config.secureAsu r, secXo := Config.secureXo r, secMg := Config.secureMg r, areas := Config.areas r
    refresh := Config.refreshLimit r, seed := Config.lotterySeed r }

/-- REASON of a rejected record, 0 when it is accepted (R14, R394, R406, R417). -/
def ConfigRec.reason (c : ConfigRec) (other : Bool) : Nat :=
  let lpddr := fun (a : Nat × Nat) => 0x10000000000 ≤ a.1 && a.1 + a.2 ≤ 0x40000000000
  if c.harvest.length != 4 || c.harvest.any (fun x => popcount x.toNat != 30) then 1
  else if c.limit < 400 || 3200 < c.limit then 2
  else if !c.secCl.isEmpty && (List.range 240).any (fun k => !c.secAsu.contains k) then 3
  else if !c.areas.all lpddr then 4
  else if other then 5
  else 0

/-- Steps 3 to 5 of boot (R413): verify the image and the record; units start when both are good (R415). -/
def State.bootImage (s : State) (n : Nat) : State :=
  let img := s.hub.imageBytes n
  let r := Config.record img
  let c := configOf r
  let stop := fun (x : BitVec 8) (y : BitVec 8) => s.updHub fun h => { h with bootState := x, bootReason := y }
  if !Config.imageGood img then stop 0x10 0
  else if !Config.recordGood r then stop 0x11 0
  else if c.reason (Config.recordOther r) != 0 then stop 0x12 (BitVec.ofNat 8 (c.reason (Config.recordOther r)))
  else s.updHub fun h =>
    { h with
      bootState := 0x02, bootReason := 0, cfg := some c, limit := BitVec.ofNat 16 c.limit
      imageHash := sha256 img, recordHash := sha256 r
      identity := (List.range 2560).foldl (fun m i => memSet m i (Config.identity i)) []
      lottery := if c.seed == 0 then 1 else c.seed, groups := 0 }

/-- The event `CLUSTER_GROUP_RELEASE` (R415): the next eight clusters start; after the last group the device runs. -/
def execClusterGroupRelease (s : State) : Out :=
  if s.hub.bootState != 0x02 then .next s
  else .next (s.updHub fun h =>
    { h with groups := h.groups + 1, bootState := if 30 ≤ h.groups + 1 then 0x03 else 0x02 })

/-! ## Attestation (R416) -/

/-- The first 128 bytes of the report. -/
def Hub.reportHead (h : Hub) : List (BitVec 8) :=
  let nonce := toBytes 8 h.arg0.toNat ++ toBytes 8 h.arg1.toNat ++ toBytes 8 h.arg2.toNat ++ toBytes 8 h.arg3.toNat
  toBytes 4 0x54414C54 ++ toBytes 2 0x7400 ++ [h.steps.headD 0] ++ List.replicate 25 0 ++ nonce ++ digestBytes h.imageHash ++
    digestBytes h.recordHash

/-- ATTEST writes the report and its signature. -/
def State.attest (s : State) : State :=
  let head := s.hub.reportHead
  let sig := (List.range 384).map (Config.sign (sha256 head))
  let bytes := head ++ sig
  s.updHub fun h => { h with report := ((List.range bytes.length).zip bytes).foldl (fun m x => memSet m x.1 x.2) [] }

/-! ## Commands (R411) -/

/-- A store that the front end makes for a context: a fault is counted with the ring's accesses (R408, R412). -/
def State.frontStore (s : State) (cx : Nat) (va : BitVec 64) (n x : Nat) : State :=
  let a := s.whoHub cx
  match s.checkAt a .store n va with
  | .error f => s.countFault cx 4 f.cause
  | .ok pa => s.writeBytes a.die (s.asidOf cx) pa (toBytes n x)

/-- The partition holds a cluster of the world (R16). -/
def State.hasCluster (s : State) (dies : BitVec 4) (sec : Bool) : Bool :=
  (List.range 240).any fun k => dies.getLsbD (dieOfCluster k) && s.secCluster k == sec

/-- CREATE. -/
def State.cmdCreate (s : State) (cx : Nat) : Nat × State :=
  let h := s.hub
  let m := BitVec.ofNat 4 (h.arg0.toNat / 2)
  let dies : BitVec 4 := if m == 0 then 0xF else m
  let sec := h.arg0.getLsbD 0
  let pt := h.arg1 &&& csrMask 0x302
  if (s.ctxD cx).st != .free then (2, s)
  else if h.arg0.toNat / 32 != 0 || !s.hasCluster dies sec then (3, s)
  else
    let world : BitVec 64 := if sec then 1 else 0
    let asid := BitVec.ofNat 64 cx
    (0, s.updCtx cx fun _ =>
      { st := .switchedOut, dies := dies, world := world, worldNow := world, asid := asid, asidNow := asid
        ptbase := pt, ptbaseNow := pt, trapbase := h.arg2 &&& csrMask 0x200, queues := [(0, { tickets := 1 })] })

/-- RUN. -/
def State.cmdRun (s : State) (cx : Nat) : Nat × State :=
  if (s.ctxD cx).st != .switchedOut then (2, s) else (0, s.updCtx cx fun c => { c with st := .running })

/-- SUSPEND begins (R393). -/
def State.cmdSuspend (s : State) (cx : Nat) : Nat × State :=
  if (s.ctxD cx).st != .running then (2, s) else (0, s.beginSwitch cx s.hub.arg0)

/-- RESET begins: a context that runs or is switched out is aborted; ring records not accepted are dropped. -/
def State.cmdReset (s : State) (cx : Nat) : Nat × State :=
  let c := s.ctxD cx
  if c.st == .free then (0, s)
  else
    let s := if c.st == .aborted then s else s.abortCtx cx
    (0, s.updCtx cx fun c => { c with queues := c.queues.mapVals fun _ q => { q with isSet := false } })

/-- SETQ. -/
def State.cmdSetq (s : State) (cx : Nat) : Nat × State :=
  let h := s.hub
  let c := s.ctxD cx
  let q := h.arg0.toNat % 64
  let k := c.queues.getD q {}
  let cap := h.arg2.toNat
  if c.st != .switchedOut && c.st != .running then (2, s)
  else if h.arg0.toNat / 2 ^ 16 != 0 || field h.arg0.toNat 6 2 != 0 || !powerIn 1 16 cap || h.arg3.toNat % 4 != 0 then (3, s)
  else if k.cidx != k.pidx then (2, s)
  else
    let new := { k with tickets := field h.arg0.toNat 8 8, isSet := true, rbase := h.arg1, cap := cap, pidx := 0, cidx := 0
                        cons := h.arg3 }
    (0, (s.updCtx cx fun c => { c with queues := c.queues.set q new }).frontStore cx h.arg3 4 0)

/-- SETEP. -/
def State.cmdSetep (s : State) (cx : Nat) : Nat × State :=
  let h := s.hub
  if (s.ctxD cx).st != .switchedOut then (2, s)
  else if h.arg0.toNat % 64 != 0 || 4096 < h.arg1.toNat then (3, s)
  else (0, s.updCtx cx fun c => { c with epBase := h.arg0, epCount := h.arg1.toNat })

/-- CSRs that SETCSR may name. -/
def setcsrNumber (n : Nat) : Bool := (0x100 ≤ n && n ≤ 0x108) || n == 0x200

/-- SETCSR. -/
def State.cmdSetcsr (s : State) (cx : Nat) : Nat × State :=
  let h := s.hub
  let n := h.arg0.toNat % 2 ^ 12
  if (s.ctxD cx).st != .switchedOut then (2, s)
  else if h.arg0.toNat / 2 ^ 12 != 0 || !setcsrNumber n || csrForbids n h.arg1 then (3, s)
  else (0, s.setCsr cx n (csrMerge n (s.csr cx n) h.arg1))

/-- BOOT. -/
def State.cmdBoot (s : State) : Nat × State :=
  let n := s.hub.arg0.toNat
  if s.hub.bootState != 0x00 then (2, s)
  else if n = 0 || 2 ^ 24 < n then (3, s)
  else (0, s.bootImage n)

/-- Carry a command out, or begin it: its failure reason, 0 for none. -/
def State.runCommand (s : State) (op cx : Nat) : Nat × State :=
  match op with
  | 0x07 => s.cmdBoot
  | _ =>
    if 9 < op || op = 0 then (1, s)
    else if s.hub.bootState != 0x03 then (2, s)
    else match op with
      | 0x01 => s.cmdCreate cx
      | 0x02 => s.cmdRun cx
      | 0x03 => s.cmdSuspend cx
      | 0x04 => s.cmdReset cx
      | 0x05 => s.cmdSetq cx
      | 0x06 => s.cmdSetep cx
      | 0x08 => (0, s.attest)
      | _ => s.cmdSetcsr cx

/-- The command written last acts. -/
def State.actCommand (s : State) : State :=
  match s.hub.command with
  | none => s
  | some c =>
    if c.acted then s
    else
      let r := s.runCommand c.op.toNat c.ctx
      r.2.updHub fun h => { h with command := some { c with acted := true, err := BitVec.ofNat 8 r.1 } }

/-- Nothing of a context is left on the device. -/
def State.ctxGone (s : State) (cx : Nat) : Bool :=
  !(s.grids.any fun e => e.2.ctx == cx) && !(s.deps.any fun e => e.2.ctx == cx) && !(s.wgs.any fun e => s.ctxOf e.1 == cx)

/-- A context becomes free: its mappings and CSRs are discarded (R411). The error record stays to be read. -/
def State.freeCtx (s : State) (cx : Nat) : State :=
  let asid := s.asidOf cx
  let s := s.updCtx cx fun c => { err := c.err }
  { s with
    mem := { s.mem with tlb := s.mem.tlb.filter fun e => e.asid != asid }
    blocks := s.blocks.filter fun b => b.asid != asid
    tiles := s.tiles.keep fun _ t => t.ctx != cx }

/-- A command that has acted ends, when it can: its failure reason and the state. -/
def State.endCommand (s : State) (c : Command) : Option (BitVec 8 × State) :=
  if c.err != 0 then some (c.err, s)
  else match c.op.toNat with
    | 0x03 =>
      if (s.ctxD c.ctx).st != .leaving then some (0, s)
      else if s.switchReady c.ctx then
        some (if (s.ctxD c.ctx).forcedOut then 4 else 0, s.finishSwitch c.ctx)
      else none
    | 0x04 => if s.ctxGone c.ctx then some (0, s.freeCtx c.ctx) else none
    | 0x07 => if s.hub.bootState == 0x02 then none else some (0, s)
    | _ => some (0, s)

/-- The event `MG_COMMAND_COMPLETE` (R411): a command that has not acted does; one that can end clears BUSY and reports. It waits
while a migration stalls writes, as SETQ's store does (R159). -/
def execMgCommandComplete (s : State) : Out :=
  if s.stalling then .next s else
  let s := s.actCommand
  match s.hub.command with
  | none => .next s
  | some c => match s.endCommand c with
    | none => .next s
    | some (e, s) => .next (s.updHub fun h => { h with busy := false, cmdErr := e != 0, estat := e, command := none })

/-! ## Ports (R404, R407) -/

/-- The port's link is up, so that its host's requests arrive. -/
def State.hostUp (s : State) (p : Bool) : Bool := (s.hub.port p).link

/-- A host's command: a write of MG_CMD by the owner, which acts at once, but while a migration stalls writes (R159); any other is
dropped (R405, R407, R411). -/
def State.hostCommand (s : State) (p : Bool) (op : Nat) (cx : BitVec 6) : State :=
  if s.hostUp p && s.hub.mayWrite (some p) && !s.hub.busy then
    let s := s.updHub fun h => h.issueCommand (op + cx.toNat * 256)
    if s.stalling then s else s.actCommand
  else s

/-- The event `CREATE` (R411, R16). -/
def execCreate (p : Bool) (cx : BitVec 6) (s : State) : Out := .next (s.hostCommand p 0x01 cx)
/-- The event `RUN` (R411). -/
def execRun (p : Bool) (cx : BitVec 6) (s : State) : Out := .next (s.hostCommand p 0x02 cx)
/-- The event `SUSPEND` (R411, R393). -/
def execSuspend (p : Bool) (cx : BitVec 6) (s : State) : Out := .next (s.hostCommand p 0x03 cx)
/-- The event `RESET` (R411). -/
def execReset (p : Bool) (cx : BitVec 6) (s : State) : Out := .next (s.hostCommand p 0x04 cx)
/-- The event `SETQ` (R411, R326). -/
def execSetq (p : Bool) (cx : BitVec 6) (s : State) : Out := .next (s.hostCommand p 0x05 cx)
/-- The event `SETEP` (R411, R418). -/
def execSetep (p : Bool) (cx : BitVec 6) (s : State) : Out := .next (s.hostCommand p 0x06 cx)
/-- The event `BOOT` (R411, R413). -/
def execBoot (p : Bool) (s : State) : Out := .next (s.hostCommand p 0x07 0)
/-- The event `ATTEST` (R411, R416). -/
def execAttest (p : Bool) (s : State) : Out := .next (s.hostCommand p 0x08 0)
/-- The event `SETCSR` (R411). -/
def execSetcsr (p : Bool) (cx : BitVec 6) (s : State) : Out := .next (s.hostCommand p 0x09 cx)

/-- The event `DL_DOWN` (R407): a port's link goes down; it loses the device if it owns it. -/
def execDlDown (p : Bool) (s : State) : Out :=
  .next (s.updHub fun h =>
    { h.setPort p { h.port p with link := false } with owner := if h.owner == some p then none else h.owner })

/-- The event `DL_UP` (R147). -/
def execDlUp (p : Bool) (s : State) : Out := .next (s.updHub fun h => h.setPort p { h.port p with link := true })

/-- The event `BUS_MASTERING_CHANGE` (R147). -/
def execBusMasteringChange (p on : Bool) (s : State) : Out :=
  .next (s.updHub fun h => h.setPort p { h.port p with master := on })

/-- The event `MG_CLAIM` (R407): claims of one cycle, port 0 before port 1. -/
def execMgClaim (p0 p1 : Bool) (s : State) : Out :=
  let s := if p0 && s.hostUp false then s.claim false else s
  .next (if p1 && s.hostUp true then s.claim true else s)

/-- The event `HANDOVER_RELEASE` (R407). -/
def execHandoverRelease (p : Bool) (s : State) : Out :=
  .next (if s.hostUp p && s.hub.mayWrite (some p) then s.handover 0 else s)

/-- The event `HANDOVER_PASS` (R407). -/
def execHandoverPass (p target : Bool) (s : State) : Out :=
  .next (if s.hostUp p && s.hub.mayWrite (some p) then s.handover (if target then 2 else 1) else s)

/-- The event `DOORBELL` (R408). -/
def execDoorbell (p : Bool) (ctx q : BitVec 6) (x : BitVec 32) (s : State) : Out :=
  .next (if s.hostUp p && s.hub.mayWrite (some p) then s.ringDoorbell ctx.toNat q.toNat x else s)

/-- The event `MG_REGISTER_WRITE` (R405): eight bytes at an offset of BAR0. -/
def execMgRegisterWrite (p : Bool) (off : Nat) (x : BitVec 64) (s : State) : Out :=
  .next (if s.hostUp p && off + 8 ≤ 0x2000000 then s.mgWrite (some p) off (toBytes 8 x.toNat) else s)

/-- The event `MCTP_QUERY` (R417): identification, boot state, power, a temperature, or an error count. -/
def execMctpQuery (reg : Nat) (s : State) : Out :=
  let h := s.hub
  let n := match reg with
    | 0 => h.mgId
    | 1 => h.mgBootst
    | 2 => h.mgPwr
    | 3 => (Config.freeWord s.free).toNat
    | 4 => h.corrected
    | 5 => h.dropped
    | 6 => h.xoDrops
    | _ => 0
  .next ((s.drew 1).updHub fun h => { h with mctp := BitVec.ofNat 64 n })

/-- The average of the module's power is measured anew: a value of the moment (R417), at or below the limit (R9). -/
def State.measurePower (s : State) : State :=
  let x := (Config.freeWord s.free).extractLsb' 0 16
  (s.drew 1).updHub fun h => { h with avg := if x.toNat ≤ h.limit.toNat then x else h.limit }

/-- The power limit delays a grant decision (R9, R417). -/
def State.throttled (s : State) : State :=
  s.updHub fun h => { h with throttle := if h.throttle == 0xFFFFFFFF then h.throttle else h.throttle + 1 }

/-! ## BAR2 (R404) -/

/-- The cell of a byte of a port's BAR2; none at or beyond the end of the window, or of the BAR. -/
def State.barCell (s : State) (p : Bool) (off : Nat) : Option Nat :=
  let a := (s.hub.port p).winbase.toNat + off
  if a < 2 ^ 42 && off < 2 ^ (s.hub.port p).barBits then some a else none

/-- The host sets the size of a port's BAR2 (R404): 1 GiB to 4 TiB. -/
def State.sizeBar (s : State) (p : Bool) (bits : Nat) : State :=
  if 30 ≤ bits && bits ≤ 42 then s.updHub fun h => h.setPort p { h.port p with barBits := bits } else s

/-- A host reads bytes of the management space through BAR0 (R404, R405). -/
def State.bar0Read (s : State) (p : Bool) (off n : Nat) : State :=
  if s.hostUp p && off + n ≤ 2 ^ 25 then
    s.updHub fun h => { h with readData := (List.range n).map fun i => s.mgByte (some p) (off + i), readPoison := false }
  else s

/-- Physical address of a cell in the host-window aperture (R147). -/
def windowPa (c : Nat) : Nat := 2 * 2 ^ 42 + c

/-- An access touches a secure cell, which a host may not (R397). -/
def State.barSecure (s : State) (p : Bool) (off n : Nat) : Bool :=
  let t := s.regionTable
  (List.range n).any fun i => match s.barCell p (off + i) with
    | some c => s.securePa t (windowPa c)
    | none => false

/-- The management space counts an event (R397). -/
def State.countDropped (s : State) (yes : Bool) : State :=
  if yes then s.updHub fun h => { h with dropped := h.dropped + 1 } else s

/-- A byte that a host reads through BAR2. -/
def State.barByte (s : State) (t : List (Nat × Nat × Bool)) (p : Bool) (off : Nat) : BitVec 8 :=
  match s.barCell p off with
  | none => 0xFF
  | some c => if s.securePa t (windowPa c) then 0 else s.readByte 0 (windowPa c)

/-- The event `HOST_BAR2_READ` (R404): from either port. -/
def execHostBar2Read (p : Bool) (off n : Nat) (s : State) : Out :=
  if !s.hostUp p then .next s
  else
    let t := s.regionTable
    let bytes := (List.range n).map fun i => s.barByte t p (off + i)
    let bad := (List.range n).any fun i => match s.barCell p (off + i) with
      | some c => s.poisoned (windowPa c) 1
      | none => false
    .next ((s.countDropped (s.barSecure p off n)).updHub fun h => { h with readData := bytes, readPoison := bad })

/-- The runs of a host write that land: cells and bytes. -/
def State.barWrite (s : State) (p : Bool) (off : Nat) (bytes : List (BitVec 8)) : State :=
  let t := s.regionTable
  let c := (s.hub.port p).winbase.toNat + off
  let fits := c + bytes.length ≤ 2 ^ 42 && off + bytes.length ≤ 2 ^ (s.hub.port p).barBits
  if fits && !s.barSecure p off bytes.length then s.writeBytes 0 0 (windowPa c) bytes
  else ((List.range bytes.length).zip bytes).foldl (fun s x => match s.barCell p (off + x.1) with
    | some c => if s.securePa t (windowPa c) then s else s.writeBytes 0 0 (windowPa c) [x.2]
    | none => s) s

/-- A byte of a host's access lies in a page that is stalled for a migration (R159). -/
def State.barStalled (s : State) (p : Bool) (off n : Nat) : Bool :=
  (List.range n).any fun i => match s.barCell p (off + i) with
    | some c => s.stalledAt (windowPa c)
    | none => false

/-- The event `HOST_BAR2_WRITE` (R404, R407): from the owner only; it waits while a page of it is stalled (R159). -/
def execHostBar2Write (p : Bool) (off : Nat) (bytes : List (BitVec 8)) (s : State) : Out :=
  if s.hostUp p && s.hub.mayWrite (some p) && !s.barStalled p off bytes.length then
    .next ((s.barWrite p off bytes).countDropped (s.barSecure p off bytes.length))
  else .next s

/-- A host writes its own memory. -/
def State.hostStore (s : State) (pa : Nat) (bytes : List (BitVec 8)) : State :=
  ((List.range bytes.length).zip bytes).foldl (fun s x => match place (pa + x.1) with
    | .host _ => s.updMem fun m => { m with cells := memSet m.cells (pa + x.1) x.2 }
    | _ => s) s

/-! ## Launch rings (R408) -/

/-- The address of the record that a queue accepts next. -/
def HwQueue.recordAt (q : HwQueue) : BitVec 64 := q.rbase + BitVec.ofNat 64 (128 * (q.cidx.toNat % max 1 q.cap))

/-- A queue of a context has a record to accept. -/
def State.ringReady (s : State) (cx q : Nat) : Bool :=
  let k := (s.ctxD cx).queues.getD q {}
  (s.ctxD cx).st != .free && (s.ctxD cx).st != .aborted && k.isSet && k.cidx != k.pidx

/-- Accept a launch record into a queue, its context's CSRs latched (R408 step 2, R323). -/
def State.enqueue (s : State) (cx q : Nat) (firmware : Bool) (b : List (BitVec 8)) : State :=
  let g : Grid := { ctx := cx, queue := q, kind := .launch, lrec := parseRecord b, parent := none, depth := 0
                    lat := latchOf (s.csr cx), firmware := firmware }
  let (k, s) := s.acceptGrid g
  s.updCtx cx fun c =>
    let x := c.queues.getD q {}
    { c with queues := c.queues.set q { x with recs := x.recs ++ [k] } }

/-- Read and accept a record, or skip it when the read fails (R408 steps 1 and 2). -/
def State.takeRecord (s : State) (cx q : Nat) (va : BitVec 64) : State :=
  let a := s.whoHub cx
  match s.checkAt a .load 64 va, s.readRange a va 128 with
  | .error f, _ => s.countFault cx 4 f.cause
  | _, .error (f, _) => s.countFault cx 4 f.cause
  | .ok _, .ok b => s.enqueue cx q false b

/-- The management processor launches firmware into a context (R380): a launch record in its queue 0, whose waves run at level 2
(log 8). -/
def State.launchFirmware (s : State) (cx : Nat) (b : List (BitVec 8)) : State :=
  if (s.ctxD cx).st == .running && b.length == 128 then s.enqueue cx 0 true b else s

/-- The event `RING_RECORD_ACCEPT` (R408); it waits while a migration stalls writes (R159). -/
def execRingRecordAccept (ctx q : BitVec 6) (s : State) : Out :=
  let cx := ctx.toNat
  let n := q.toNat
  if !s.ringReady cx n || s.stalling then .next s
  else
    let k := (s.ctxD cx).queues.getD n {}
    let i := k.cidx + 1
    let s := (s.takeRecord cx n k.recordAt).updCtx cx fun c =>
      { c with queues := c.queues.set n { c.queues.getD n {} with cidx := i } }
    .next (s.frontStore cx k.cons 4 i.toNat)

end Sys2Proof.Machine
end

