-- ==== Sys2Proof/Machine/Migrate.lean ====
section
/-! DEFINITION. Machine/Migrate.lean: what memory does on its own: page migration (06_memory R159, R160), refresh management
(R162), errors (R161), and cache lines that go. -/

namespace Sys2Proof.Machine

/-! ## The leaf of a page -/

/-- A leaf where it stands: the address of its table, its index there, the low bit of the index, and the entry. -/
structure LeafAt where
  table : Nat
  index : Nat
  low   : Nat
  pte   : Nat
  deriving DecidableEq, Repr

/-- Find the leaf of an address, from a table on (R149, R151). -/
def State.findLeaf (s : State) (va : Nat) : List (Nat × Nat) → Nat → Option LeafAt
  | [], _ => none
  | (lo, n) :: rest, table =>
    let i := field va lo n
    let pte := ofBytes (s.readBytes 0 (table + 8 * i) 8)
    if !pte.testBit 0 || malformed rest.length pte then none
    else if pte.testBit 1 then some { table := table, index := i, low := lo, pte := pte }
    else s.findLeaf va rest (field pte 12 40 * 4096)

/-- The leaf of an address of a context. -/
def State.leafAt (s : State) (cx va : Nat) : Option LeafAt :=
  let p := (s.ctxD cx).ptbaseNow
  if p.getLsbD 0 && va / 2 ^ 56 == 0 then s.findLeaf va levelBits (field p.toNat 15 37 * 2 ^ 15) else none

/-- Bits of the page of a leaf. -/
def LeafAt.bits (l : LeafAt) : Nat := leafBits l.pte

/-- Physical address of the page. -/
def LeafAt.page (l : LeafAt) : Nat := field l.pte 12 40 * 4096

/-- The page may migrate (R159): at most 32 MiB, PIN clear. -/
def LeafAt.movable (l : LeafAt) : Bool := l.bits ≤ 25 && !l.pte.testBit 11

/-- Addresses of the leaf's entries: a page larger than its level's span has one in each slot (R149). -/
def LeafAt.slots (l : LeafAt) : List Nat :=
  let n := 2 ^ (l.bits - l.low)
  (List.range n).map fun i => l.table + 8 * (l.index / n * n + i)

/-! ## Copying -/

/-- Move the contents of cells `src` to `src + n - 1` over those from `dst` on, poison included. -/
def Memory.moveCells (m : Memory) (src dst n : Nat) : Memory :=
  let there := fun (a : Nat) => dst ≤ a && a < dst + n
  let here := fun (a : Nat) => src ≤ a && a < src + n
  let moved := (m.cells.filter fun e => here e.1).map fun e => (e.1 - src + dst, e.2)
  let bad := (m.poison.filter fun x => here (32 * x)).map fun x => (32 * x - src + dst) / 32
  { m with
    cells := moved.foldl (fun c e => memSet c e.1 e.2) (m.cells.filter fun e => !there e.1)
    l2 := m.l2.filter fun x => !there (64 * x.line)
    l1 := m.l1.filter fun x => !there (64 * x.line)
    icache := m.icache.filter fun x => !there (64 * x.line)
    poison := (m.poison.filter fun x => !there (32 * x)) ++ bad }

/-- Copy a range of a page as the home L2 holds it: dirty lines are written back first. -/
def State.copyCells (s : State) (src dst n : Nat) : State :=
  let lines := ((s.mem.l2.filter fun x => src ≤ 64 * x.line && 64 * x.line < src + n).map (·.line)).eraseDups
  (lines.foldl State.writeBack s).updMem fun m => m.moveCells src dst n

/-! ## Migration (R159) -/

/-- A migration of a page to a destination may start: the page may move, the destination is a free frame of its size. -/
def State.mayMigrate (s : State) (l : LeafAt) (src dst : Nat) : Bool :=
  let n := 2 ^ l.bits
  let apart := fun (a : Nat) => a + n ≤ dst || dst + n ≤ a
  l.movable && isCell dst && isCell (dst + n - 1) && dst % n == 0 && apart src &&
  s.mem.migs.all fun e =>
    let x := e.2
    (x.src + x.size ≤ src || src + n ≤ x.src) && (x.src + x.size ≤ dst || dst + n ≤ x.src) &&
    (x.dst + x.size ≤ src || src + n ≤ x.dst) && (x.dst + x.size ≤ dst || dst + n ≤ x.dst)

/-- The event `MIGRATION_START` (R159 step 1): the filter is cleared and the page is copied. -/
def execMigrationStart (ctx : BitVec 6) (va : BitVec 64) (dst : Nat) (s : State) : Out :=
  let cx := ctx.toNat
  match s.leafAt cx va.toNat with
  | none => .next s
  | some l =>
    match cellOf l.page with
    | none => .next s
    | some src =>
      let n := 2 ^ l.bits
      if (s.ctxD cx).st == .free || !s.mayMigrate l src dst then .next s
      else
        let s := s.copyCells src dst n
        let (k, s) := s.newUid
        let base := BitVec.ofNat 64 (va.toNat / n * n)
        let x : Migration := { ctx := cx, va := base, src := src, dst := dst, size := n, dirty := [] }
        .next (s.updMem fun m => { m with migs := m.migs.set k x })

/-- The event `MIGRATION_STALL` (R159 step 2): new writes to the page wait. -/
def execMigrationStall (k : Nat) (s : State) : Out :=
  .next (s.updMem fun m => { m with migs := m.migs.upd k fun x => { x with stalled := true } })

/-- A physical address after the page has moved. -/
def Migration.move (x : Migration) (pa : Nat) : Nat :=
  match cellOf pa with
  | none => pa
  | some c => if x.src ≤ c && c < x.src + x.size then pa - x.src + x.dst else pa

/-- Accesses that have been translated and wait go to the destination (R159 step 3, R160). -/
def State.moveAccesses (s : State) (x : Migration) : State :=
  let el := fun (e : Option (BitVec 64 × Nat)) => e.map fun y => (y.1, x.move y.2)
  let kind := fun (k : GridKind) => match k with
    | .siblings obj pa sh => GridKind.siblings obj (x.move pa) sh
    | k => k
  { s with
    reqs := s.reqs.mapVals fun _ r => { r with pa := x.move r.pa, asu := asuOf ((asuCell (x.move r.pa)).getD 0) }
    loads := s.loads.mapVals fun _ l => { l with elems := l.elems.map fun e => (e.1, e.2.map el) }
    wgs := s.wgs.mapVals fun _ w =>
      { w with
        staged := w.staged.map fun b => { b with pa := x.move b.pa }
        sib := w.sib.map fun y => { y with pa := x.move y.pa } }
    grids := s.grids.mapVals fun _ g => { g with kind := kind g.kind } }

/-- Replace the leaf entry, and every replica of it, and invalidate the page in every TLB (R159 step 3). -/
def State.switchPage (s : State) (x : Migration) : State :=
  match s.leafAt x.ctx x.va.toNat with
  | none => s
  | some l =>
    let new := l.pte - l.page + (x.move l.page)
    let s := l.slots.foldl (fun s a =>
      if ofBytes (s.readBytes 0 a 8) == l.pte then s.writeBytes 0 (s.asidOf x.ctx) a (toBytes 8 new) else s) s
    s.updMem fun m => { m with tlb := m.tlb.filter fun e => leafPa e.pte.toNat 0 != l.page }

/-- Migration attempts before a migration is abandoned (R391). -/
def State.migRetry (s : State) (cx : Nat) : Nat := (s.ctxD cx).migctl.toNat % 16

/-- The event `MIGRATION_SWITCH` (R159 steps 3 and 4): with an empty filter the page moves; otherwise the marked granules are
copied again, and after the retry limit the migration is abandoned. -/
def execMigrationSwitch (k : Nat) (s : State) : Out :=
  match s.mem.migs.get? k with
  | none => .next s
  | some x =>
    let gone := fun (s : State) => s.updMem fun m => { m with migs := m.migs.del k }
    if !x.stalled then .next s
    else if x.dirty.isEmpty then .next (gone ((s.switchPage x).moveAccesses x))
    else if s.migRetry x.ctx ≤ x.tries + 1 then .next ((gone s).updHub fun h => { h with migFails := h.migFails + 1 })
    else
      let s := x.dirty.foldl (fun s g => s.copyCells (x.src + 4096 * g) (x.dst + 4096 * g) 4096) s
      .next (s.updMem fun m => { m with
        migs := m.migs.upd k fun x => { x with dirty := [], stalled := false, tries := x.tries + 1 } })

/-! ## Refresh management (R162) -/

/-- The event `REFRESH_WINDOW_START` (R162): the counters of a bank are reset. -/
def execRefreshWindowStart (bank : Nat) (s : State) : Out := .next (s.updMem fun m => { m with rows := m.rows.del bank })

/-- A Misra-Gries step over sixteen counters (R162). -/
def countRow (l : List (Nat × Nat)) (row : Nat) : List (Nat × Nat) :=
  if l.any (·.1 == row) then l.map fun e => if e.1 == row then (e.1, e.2 + 1) else e
  else if l.length < 16 then l ++ [(row, 1)]
  else (l.map fun e => (e.1, e.2 - 1)).filter fun e => 0 < e.2

/-- A row is activated. -/
def State.rowActivate (s : State) (bank row : Nat) : State :=
  s.updMem fun m => { m with rows := m.rows.set bank (countRow (m.rows.getD bank []) row) }

/-- The threshold of the configuration record (R162, R414). -/
def State.rowLimit (s : State) : Nat := match s.hub.cfg with | some c => c.refresh | none => 0

/-- The event `RFM_ISSUE` (R162): a row's count has reached the threshold; its counter is reset. -/
def execRfmIssue (bank row : Nat) (s : State) : Out :=
  let l := s.mem.rows.getD bank []
  if (l.any fun e => e.1 == row && s.rowLimit ≤ e.2) then
    let s := s.updMem fun m => { m with rows := m.rows.set bank (l.filter (·.1 != row)) }
    .next (s.updHub fun h => { h with rfms := h.rfms + 1 })
  else .next s

/-! ## Errors and evictions -/

/-- An uncorrectable error in a sector of memory (R161). -/
def State.poisonSector (s : State) (x : Nat) : State :=
  if isCell (32 * x) && !s.mem.poison.contains x then s.updMem fun m => { m with poison := m.poison ++ [x] } else s

/-- Data of a tile are lost (R161): the tile is in error state, as a copy that reads poison leaves it (log 10). -/
def State.poisonTile (s : State) (t : Nat) : State :=
  s.updTile t fun x => if x.st == .ready || x.st == .draining then { x with err := true, cause := 0x13, eaddr := 0, esub := 0 } else x

/-- A corrected error is counted in the management space (R161). -/
def State.correctedError (s : State) : State := s.updHub fun h => { h with corrected := h.corrected + 1 }

/-- A line leaves a core's instruction cache. -/
def State.icacheDrop (s : State) (core line : Nat) : State :=
  s.updMem fun m => { m with icache := m.icache.filter fun x => !(x.core == core && x.line == line) }

/-- An entry leaves a cluster's TLBs. -/
def State.tlbDrop (s : State) (cluster va : Nat) : State :=
  s.updMem fun m => { m with tlb := m.tlb.filter fun e => !(e.cluster == cluster && e.va == va) }

end Sys2Proof.Machine
end

