-- ==== Sys2Proof/Machine/ScaleOut.lean ====
section
/-! DEFINITION. Machine/ScaleOut.lean: the scale-out engine and its instructions (15_host R418 to R421). -/

namespace Sys2Proof.Machine

/-! ## Endpoints (R418) -/

/-- An entry of an endpoint table. -/
structure Endpoint where
  va      : BitVec 64
  bytes   : List (BitVec 8)
  deriving DecidableEq, Repr

/-- MODE of an entry: 0 RUD, 1 ROD, 2 RUDI. -/
def Endpoint.mode (e : Endpoint) : Nat := bytesAt e.bytes 20 1 / 2 % 4
/-- RWIN. -/
def Endpoint.rwin (e : Endpoint) : Nat := bytesAt e.bytes 24 8
/-- LWBASE. -/
def Endpoint.lwbase (e : Endpoint) : BitVec 64 := BitVec.ofNat 64 (bytesAt e.bytes 32 8)
/-- LWSIZE. -/
def Endpoint.lwsize (e : Endpoint) : Nat := bytesAt e.bytes 40 8

/-- The entry can be used (R420 check 1). -/
def Endpoint.valid (e : Endpoint) : Bool :=
  let f := bytesAt e.bytes 20 1
  f % 2 == 1 && f / 2 % 4 != 3 && f / 8 == 0 && bytesAt e.bytes 21 1 != 0 && bytesAt e.bytes 22 2 == 0 &&
    bytesAt e.bytes 56 8 == 0

/-- Read an entry of a context's endpoint table, as the engine itself does; none when it cannot be used. -/
def State.endpoint (s : State) (cx ep : Nat) : Option Endpoint :=
  let c := s.ctxD cx
  let va := c.epBase + BitVec.ofNat 64 (64 * ep)
  if c.epCount ≤ ep then none
  else match s.readRange (s.whoXo cx 2) va 64 with
    | .error _ => none
    | .ok b => if ({ va := va, bytes := b } : Endpoint).valid then some { va := va, bytes := b } else none

/-! ## Checks (R420) -/

/-- PERMISSION with SUB 0xB (R420). -/
def xoRefused (addr : BitVec 64) (slot : Nat) : Trap := fltTrap ⟨.permission, 0xB⟩ addr slot 0

/-- The first address of each page part of a range. -/
def pageStarts (va : BitVec 64) (n : Nat) : List (BitVec 64) :=
  (List.range ((va.toNat % 4096 + n + 4095) / 4096)).map fun i =>
    if i = 0 then va else BitVec.ofNat 64 ((va.toNat / 4096 + i) * 4096)

/-- Check a local range for the engine (R420 check 5, R166): the first failure decides. -/
def State.checkXo (s : State) (w : Wave) (need : Need) (va : BitVec 64) (n slot : Nat) : Except Trap Unit :=
  let a := s.whoXo (s.ctxOf w.wg) w.priv
  match (pageStarts va n).findSome? fun x => match s.translate a need x with
    | .error f => some (fltTrap f x slot 0)
    | .ok _ => none with
  | some t => .error t
  | none => .ok ()

/-- The frame of the four instructions (R419): each acts once for the wave; none acts inside an attempt (R263). -/
def xoOp (s : State) (h : Hd) (k : Issue → Wave → Nat → Ans) : Out :=
  perform s h [] fun c w e =>
    if e == 0 then plainNext s c else guardTrap (s.txTrap w false false) (k c w ((slotsOf e).headD 0))

/-- Checks 1 to 3 of R420 for a transfer of `n` bytes at a remote offset. -/
def xoRemote (s : State) (w : Wave) (slot ep : Nat) (off : BitVec 64) (n : Nat) (k : Endpoint → Ans) : Ans :=
  match s.endpoint (s.ctxOf w.wg) ep with
  | none => .trap (xoRefused 0 slot)
  | some e =>
    if n = 0 || 2 ^ 30 < n then .trap (badField .sc)
    else if e.rwin < off.toNat + n then .trap (xoRefused off slot)
    else k e

/-- A barrier of a transfer (R420 check 6). -/
def xoBar (s : State) (g : Nat) (ben : Bool) (bar : BitVec 4) (k : Ans) : Ans :=
  if ben then withBar s g bar fun _ => k else k

/-- Put a transfer in flight; the strands of the path defer (R388). -/
def State.addXfer (s : State) (c : Issue) (x : Xfer) : Ans :=
  let (k, s) := s.newUid
  deferNext { s with xfers := s.xfers.set k { x with seq := k } } c

/-- A transfer of an issue. -/
def State.mkXfer (s : State) (c : Issue) (w : Wave) (ep : BitVec 12) (off : BitVec 64) (kind : XferKind) (bar : Option Nat) :
    Xfer :=
  { wave := c.wave, wg := w.wg, ctx := s.ctxOf w.wg, ep := ep.toNat, off := off, kind := kind, bar := bar, priv := w.priv }

/-- Bytes that the engine reads for a wave, over what the workgroup has written (R420). -/
def State.xoRead (s : State) (w : Wave) (va : BitVec 64) (n : Nat) : List (BitVec 8) :=
  match s.readRange (s.whoXo (s.ctxOf w.wg) w.priv) va n with
  | .error _ => List.replicate n 0
  | .ok b => s.seen w.wg va b s.free

/-- `XPUT` (R420): the local bytes are read at issue. -/
def execXput (h : Hd) (a b c : BitVec 6) (ep : BitVec 12) (ben : Bool) (bar : BitVec 4) (s : State) : Out :=
  xoOp s h fun i w slot =>
    let va := w.sreg a.toNat
    let n := (w.sreg c.toNat).toNat
    xoRemote s w slot ep.toNat (w.sreg b.toNat) n fun _ =>
      andThen (s.checkXo w .load va n slot) fun _ =>
        xoBar s w.wg ben bar
          (let x := s.mkXfer i w ep (w.sreg b.toNat) (.put (s.xoRead w va n)) (if ben then some bar.toNat else none)
           State.addXfer (if (s.wgD w.wg).task.isSome then s.drew n else s) i x)

/-- `XGET` (R420). -/
def execXget (h : Hd) (a b c : BitVec 6) (ep : BitVec 12) (ben : Bool) (bar : BitVec 4) (s : State) : Out :=
  xoOp s h fun i w slot =>
    let va := w.sreg a.toNat
    let n := (w.sreg c.toNat).toNat
    xoRemote s w slot ep.toNat (w.sreg b.toNat) n fun _ =>
      andThen (s.checkXo w .store va n slot) fun _ =>
        xoBar s w.wg ben bar
          (s.addXfer i (s.mkXfer i w ep (w.sreg b.toNat) (.get va n) (if ben then some bar.toNat else none)))

/-- `XSIG` (R420). -/
def execXsig (h : Hd) (x : Src) (b : BitVec 6) (ep : BitVec 12) (set : Bool) (s : State) : Out :=
  xoOp s h fun i w slot =>
    let off := w.sreg b.toNat
    xoRemote s w slot ep.toNat off 8 fun e =>
      if off.toNat % 8 != 0 then .trap (fltTrap ⟨.misaligned, 0⟩ off slot 0)
      else if !set && e.mode == 2 then .trap (trapOf .queueMisuse)
      else s.addXfer i (s.mkXfer i w ep off (.sig (rdU w x) set) none)

/-- `XWAIT` (R420): a scoreboard stall until the word has reached the value; an acquire at .sys on XO. -/
def execXwait (h : Hd) (a : BitVec 6) (x : Src) (s : State) : Out :=
  xoOp s h fun i w slot =>
    let va := w.sreg a.toNat
    match s.checkAt (s.whoXo (s.ctxOf w.wg) w.priv) .load 8 va with
    | .error f => .trap (fltTrap f va slot 0)
    | .ok _ =>
      let v := BitVec.ofNat 64 (ofBytes (s.xoRead w va 8))
      if 0 ≤ (v - rdU w x).toInt then plainNext (if (s.wgD w.wg).task.isSome then s.drew 8 else s) i else .waitOpen

/-! ## Completion -/

/-- A transfer arrives on its barrier with its byte count (R215, R420). -/
def State.xferArrive (s : State) (x : Xfer) (n : Nat) : State :=
  match x.bar with
  | none => s
  | some b => s.updWg x.wg fun g =>
      { g with tbars := g.tbars.upd b fun t => TxBar.test { t with bytes := t.bytes - BitVec.ofNat 32 n } }

/-- A transfer is over. -/
def State.dropXfer (s : State) (k : Nat) : State := { s with xfers := s.xfers.del k }

/-- The event `XPUT_ACK` (R420): the peer has performed every byte. -/
def execXputAck (k : Nat) (s : State) : Out :=
  match s.xfers.get? k with
  | none => .next s
  | some x => match x.kind with
    | .put b => .next ((s.dropXfer k).xferArrive x b.length)
    | _ => .next s

/-- Where a piece of a transfer within an aligned 32-byte sector begins and how long it is. -/
def sectorPieces : Nat → BitVec 64 → List (BitVec 8) → List (BitVec 64 × List (BitVec 8))
  | 0, _, _ => []
  | fuel + 1, va, bs =>
    if bs.isEmpty then []
    else
      let n := min bs.length (32 - va.toNat % 32)
      (va, bs.take n) :: sectorPieces fuel (va + BitVec.ofNat 64 n) (bs.drop n)

/-- Write what an `XGET` fetched, sector by sector: a sector whose mapping has gone since the issue is not written. -/
def State.xoWrite (s : State) (x : Xfer) (va : BitVec 64) (bytes : List (BitVec 8)) : State :=
  let w := s.waveD x.wave
  let a := s.whoXo x.ctx x.priv
  let det := s.isDet x.wg
  let ren := fun (v : BitVec 64) => ((s.depOf x.wg).bind fun d => d.renamed v).isSome
  (sectorPieces (bytes.length + 1) va bytes).foldl (fun s p =>
    match s.translate a .store p.1 with
    | .error _ => s
    | .ok pa =>
      if det || ren p.1 then
        ((List.range p.2.length).zip p.2).foldl (fun s y =>
          s.putByte x.wave w.icount.toNat x.priv (s.asidOf x.ctx) false det (pa + y.1) (p.1 + BitVec.ofNat 64 y.1) y.2) s
      else s.writeBytes a.die (s.asidOf x.ctx) pa p.2) s

/-- A page of the local range is stalled for a migration (R159). -/
def State.xoStalled (s : State) (x : Xfer) (va : BitVec 64) (n : Nat) : Bool :=
  (pageStarts va n).any fun v => match s.translate (s.whoXo x.ctx x.priv) .store v with
    | .ok pa => s.stalledAt pa
    | .error _ => false

/-- The event `XGET_DATA_ARRIVAL` (R420): the peer's bytes are written locally. -/
def execXgetDataArrival (k : Nat) (bytes : List (BitVec 8)) (s : State) : Out :=
  match s.xfers.get? k with
  | none => .next s
  | some x => match x.kind with
    | .get va n =>
      if bytes.length != n || s.xoStalled x va n then .next s
      else .next (((s.dropXfer k).xoWrite x va bytes).xferArrive x n)
    | _ => .next s

/-- An earlier put of the wave to the same endpoint is not acknowledged (R420). -/
def State.putBefore (s : State) (k : Nat) (x : Xfer) : Bool :=
  s.xfers.any fun y => y.1 < k && y.2.wave == x.wave && y.2.ep == x.ep && (match y.2.kind with | .put _ => true | _ => false)

/-- The event `XSIG_SEND` (R420): the signal word is written at the peer. -/
def execXsigSend (k : Nat) (s : State) : Out :=
  match s.xfers.get? k with
  | none => .next s
  | some x => match x.kind with
    | .sig _ _ => .next (if s.putBefore k x then s else s.dropXfer k)
    | _ => .next s

/-- The bytes of a transfer. -/
def XferKind.size : XferKind → Nat
  | .put b => b.length
  | .get _ n => n
  | .sig _ _ => 8

/-- Add one to FAILED of an endpoint (R418). -/
def State.countFailed (s : State) (x : Xfer) : State :=
  let va := (s.ctxD x.ctx).epBase + BitVec.ofNat 64 (64 * x.ep + 48)
  let a := s.whoXo x.ctx 2
  match s.translate a .store va with
  | .error _ => s
  | .ok pa => s.writeBytes a.die (s.asidOf x.ctx) pa (toBytes 8 (ofBytes (s.readBytes a.die pa 8) + 1))

/-- The event `XO_TRANSFER_FAILURE` (R420): the transfer completes, and FAILED counts it. -/
def execXoTransferFailure (k : Nat) (s : State) : Out :=
  match s.xfers.get? k with
  | none => .next s
  | some x =>
    let sig := match x.kind with | .sig _ _ => true | _ => false
    if sig && s.putBefore k x then .next s
    else .next (((s.dropXfer k).countFailed x).xferArrive x x.kind.size)

/-! ## Peers (R418, R397) -/

/-- The local window of an endpoint holds a range. -/
def Endpoint.holds (e : Endpoint) (off n : Nat) : Bool := off + n ≤ e.lwsize

/-- Physical address of a window byte, through the cached aperture (R418): a peer's accesses are non-secure (R395). -/
def State.windowAt (s : State) (cx : Nat) (need : Need) (va : BitVec 64) : Except Flt Nat :=
  match s.translate (s.whoHub cx) need va with
  | .error f => .error f
  | .ok pa => match cellOf pa with
    | some c => .ok c
    | none => .error ⟨.permission, 9⟩

/-- Write an incoming piece; a refused one is dropped and counted (R397, R418). -/
def State.peerPiece (s : State) (cx : Nat) (p : BitVec 64 × List (BitVec 8)) : State :=
  match s.windowAt cx .store p.1 with
  | .error f =>
    if f.cause == .worldViolation then s.countDropped true else s.updHub fun h => { h with xoDrops := h.xoDrops + 1 }
  | .ok c => s.writeBytes 0 (s.asidOf cx) c p.2

/-- The event `INCOMING_PEER_WRITE` (R418). -/
def execIncomingPeerWrite (ctx : BitVec 6) (ep off : Nat) (bytes : List (BitVec 8)) (s : State) : Out :=
  let cx := ctx.toNat
  match s.endpoint cx ep with
  | none => .next (s.updHub fun h => { h with xoDrops := h.xoDrops + 1 })
  | some e =>
    if !e.holds off bytes.length then .next (s.updHub fun h => { h with xoDrops := h.xoDrops + 1 })
    else
      let ps := sectorPieces (bytes.length + 1) (e.lwbase + BitVec.ofNat 64 off) bytes
      let stalled := ps.any fun p => match s.windowAt cx .store p.1 with
        | .ok c => s.stalledAt c
        | .error _ => false
      .next (if stalled then s else ps.foldl (fun s p => s.peerPiece cx p) s)

/-- A piece of what a peer reads: zeros where it is refused (R397). -/
def State.peerBytes (s : State) (cx : Nat) (va : BitVec 64) (n : Nat) : List (BitVec 8) :=
  match s.windowAt cx .load va with
  | .error _ => List.replicate n 0
  | .ok c => s.readBytes 0 c n

/-- The event `INCOMING_PEER_READ` (R420): the bytes of the window go to the peer. -/
def execIncomingPeerRead (ctx : BitVec 6) (ep off n : Nat) (s : State) : Out :=
  let cx := ctx.toNat
  match s.endpoint cx ep with
  | none => .next (s.updHub fun h => { h with xoDrops := h.xoDrops + 1 })
  | some e =>
    if !e.holds off n then .next (s.updHub fun h => { h with xoDrops := h.xoDrops + 1 })
    else
      let ps := sectorPieces (n + 1) (e.lwbase + BitVec.ofNat 64 off) (List.replicate n 0)
      let refused := ps.any fun p => match s.windowAt cx .load p.1 with
        | .error f => f.cause == .worldViolation
        | .ok _ => false
      let bytes := ps.flatMap fun p => s.peerBytes cx p.1 p.2.length
      .next ((s.countDropped refused).updHub fun h => { h with readData := bytes, readPoison := false })

end Sys2Proof.Machine
end

