-- ==== Sys2Proof/Machine/Dispatch.lean ====
section
/-! DEFINITION. Machine/Dispatch.lean: one arm per constructor of `Instr`: a direct call of the instruction's meaning. -/

namespace Sys2Proof.Machine

def exec (i : Instr) (s : State) : Host.Outcome State Fault Refusal :=
  match i with
  | .nop h => Sys2Proof.Machine.execNop h s
  | .bra h off => Sys2Proof.Machine.execBra h off s
  | .brx h a => Sys2Proof.Machine.execBrx h a s
  | .call h d off => Sys2Proof.Machine.execCall h d off s
  | .ret h a => Sys2Proof.Machine.execRet h a s
  | .loop h d off => Sys2Proof.Machine.execLoop h d off s
  | .sfork h d a b => Sys2Proof.Machine.execSfork h d a b s
  | .sexit h => Sys2Proof.Machine.execSexit h s
  | .wexit h => Sys2Proof.Machine.execWexit h s
  | .idem vmask smask => Sys2Proof.Machine.execIdem vmask smask s
  | .yield h => Sys2Proof.Machine.execYield h s
  | .vote h o => Sys2Proof.Machine.execVote h o s
  | .paths h d live => Sys2Proof.Machine.execPaths h d live s
  | .iadd sat o => Sys2Proof.Machine.execIadd sat o s
  | .isub sat o => Sys2Proof.Machine.execIsub sat o s
  | .imul o => Sys2Proof.Machine.execImul o s
  | .imad o => Sys2Proof.Machine.execImad o s
  | .imulh o => Sys2Proof.Machine.execImulh o s
  | .imin o => Sys2Proof.Machine.execImin o s
  | .imax o => Sys2Proof.Machine.execImax o s
  | .iabs sat o => Sys2Proof.Machine.execIabs sat o s
  | .and o => Sys2Proof.Machine.execAnd o s
  | .or o => Sys2Proof.Machine.execOr o s
  | .xor o => Sys2Proof.Machine.execXor o s
  | .not o => Sys2Proof.Machine.execNot o s
  | .shl o => Sys2Proof.Machine.execShl o s
  | .shr o => Sys2Proof.Machine.execShr o s
  | .sar o => Sys2Proof.Machine.execSar o s
  | .rot o => Sys2Proof.Machine.execRot o s
  | .popc o => Sys2Proof.Machine.execPopc o s
  | .clz o => Sys2Proof.Machine.execClz o s
  | .ctz o => Sys2Proof.Machine.execCtz o s
  | .brev o => Sys2Proof.Machine.execBrev o s
  | .bfx o => Sys2Proof.Machine.execBfx o s
  | .bfi o => Sys2Proof.Machine.execBfi o s
  | .sel o pc neg => Sys2Proof.Machine.execSel o pc neg s
  | .icmp cc o => Sys2Proof.Machine.execIcmp cc o s
  | .mov o => Sys2Proof.Machine.execMov o s
  | .movi h t d x hi => Sys2Proof.Machine.execMovi h t d x hi s
  | .lea sh o => Sys2Proof.Machine.execLea sh o s
  | .iext o => Sys2Proof.Machine.execIext o s
  | .shfl mode o => Sys2Proof.Machine.execShfl mode o s
  | .prmt o => Sys2Proof.Machine.execPrmt o s
  | .pcmb h lut d a b => Sys2Proof.Machine.execPcmb h lut d a b s
  | .fadd rm o => Sys2Proof.Machine.execFadd rm o s
  | .fsub rm o => Sys2Proof.Machine.execFsub rm o s
  | .fmul rm o => Sys2Proof.Machine.execFmul rm o s
  | .ffma rm o => Sys2Proof.Machine.execFfma rm o s
  | .fdot2 rm o => Sys2Proof.Machine.execFdot2 rm o s
  | .fmin o => Sys2Proof.Machine.execFmin o s
  | .fmax o => Sys2Proof.Machine.execFmax o s
  | .fcmp cc o => Sys2Proof.Machine.execFcmp cc o s
  | .fclass o => Sys2Proof.Machine.execFclass o s
  | .frnd rm o => Sys2Proof.Machine.execFrnd rm o s
  | .frcp rm o => Sys2Proof.Machine.execFrcp rm o s
  | .frsq rm o => Sys2Proof.Machine.execFrsq rm o s
  | .fsqrt rm o => Sys2Proof.Machine.execFsqrt rm o s
  | .fexp2 rm o => Sys2Proof.Machine.execFexp2 rm o s
  | .flog2 rm o => Sys2Proof.Machine.execFlog2 rm o s
  | .fsin o => Sys2Proof.Machine.execFsin o s
  | .fcos o => Sys2Proof.Machine.execFcos o s
  | .fwelf h d a x => Sys2Proof.Machine.execFwelf h d a x s
  | .fwmerge h d a b => Sys2Proof.Machine.execFwmerge h d a b s
  | .fredw op o => Sys2Proof.Machine.execFredw op o s
  | .cvt o => Sys2Proof.Machine.execCvt o s
  | .cvtfi o => Sys2Proof.Machine.execCvtfi o s
  | .cvtif o => Sys2Proof.Machine.execCvtif o s
  | .qpack h rm sat t grp d a => Sys2Proof.Machine.execQpack h rm sat t grp d a s
  | .qpackRows h rm t d a e => Sys2Proof.Machine.execQpackRows h rm t d a e s
  | .qunpack h t grp d a => Sys2Proof.Machine.execQunpack h t grp d a s
  | .qunpackRows h t d a e r => Sys2Proof.Machine.execQunpackRows h t d a e r s
  | .qscale o => Sys2Proof.Machine.execQscale o s
  | .qrow o => Sys2Proof.Machine.execQrow o s
  | .qamax h t d a n => Sys2Proof.Machine.execQamax h t d a n s
  | .qhdr h d o => Sys2Proof.Machine.execQhdr h d o s
  | .qesc h t d a b => Sys2Proof.Machine.execQesc h t d a b s
  | .ld m => Sys2Proof.Machine.execLd m s
  | .st m => Sys2Proof.Machine.execSt m s
  | .ldu m => Sys2Proof.Machine.execLdu m s
  | .ldl m => Sys2Proof.Machine.execLdl m s
  | .stl m => Sys2Proof.Machine.execStl m s
  | .gather m => Sys2Proof.Machine.execGather m s
  | .scatter m => Sys2Proof.Machine.execScatter m s
  | .pref l1 m => Sys2Proof.Machine.execPref l1 m s
  | .cflush op m => Sys2Proof.Machine.execCflush op m s
  | .ldk m => Sys2Proof.Machine.execLdk m s
  | .fence h sc k => Sys2Proof.Machine.execFence h sc k s
  | .fencex h sc k pa pb => Sys2Proof.Machine.execFencex h sc k pa pb s
  | .aliasfl m => Sys2Proof.Machine.execAliasfl m s
  | .tdecl h t base pitch rows rowbytes mode => Sys2Proof.Machine.execTdecl h t base pitch rows rowbytes mode s
  | .tbind h d t planar rows width => Sys2Proof.Machine.execTbind h d t planar rows width s
  | .twait h t => Sys2Proof.Machine.execTwait h t s
  | .tstat h d t => Sys2Proof.Machine.execTstat h d t s
  | .tcopy h t a b cw => Sys2Proof.Machine.execTcopy h t a b cw s
  | .tstore h t a b cw => Sys2Proof.Machine.execTstore h t a b cw s
  | .tplane h t ts b cw => Sys2Proof.Machine.execTplane h t ts b cw s
  | .trel h t => Sys2Proof.Machine.execTrel h t s
  | .cseal h d => Sys2Proof.Machine.execCseal h d s
  | .cwait h a => Sys2Proof.Machine.execCwait h a s
  | .cwaitTo h a => Sys2Proof.Machine.execCwaitTo h a s
  | .binit h b gen part => Sys2Proof.Machine.execBinit h b gen part s
  | .bexpect h b n nb arr => Sys2Proof.Machine.execBexpect h b n nb arr s
  | .barrive h d b => Sys2Proof.Machine.execBarrive h d b s
  | .bwait h b gen => Sys2Proof.Machine.execBwait h b gen s
  | .ksig h k => Sys2Proof.Machine.execKsig h k s
  | .kwait h k => Sys2Proof.Machine.execKwait h k s
  | .mzero h acc mb1 nb1 ch => Sys2Proof.Machine.execMzero h acc mb1 nb1 ch s
  | .mldc h acc ts mb1 nb1 fmt row0 ch => Sys2Proof.Machine.execMldc h acc ts mb1 nb1 fmt row0 ch s
  | .mma o => Sys2Proof.Machine.execMma o s
  | .mmap o => Sys2Proof.Machine.execMmap o s
  | .mdrain o => Sys2Proof.Machine.execMdrain o s
  | .mbaton h a => Sys2Proof.Machine.execMbaton h a s
  | .mrel h => Sys2Proof.Machine.execMrel h s
  | .mstat h d => Sys2Proof.Machine.execMstat h d s
  | .mnmsel h td ts of8 ch => Sys2Proof.Machine.execMnmsel h td ts of8 ch s
  | .txbegin h early d => Sys2Proof.Machine.execTxbegin h early d s
  | .txcommit h => Sys2Proof.Machine.execTxcommit h s
  | .txabortUp h => Sys2Proof.Machine.execTxabortUp h s
  | .txabortDrop h => Sys2Proof.Machine.execTxabortDrop h s
  | .txstat h sel d => Sys2Proof.Machine.execTxstat h sel d s
  | .txpredRd h d k idx w => Sys2Proof.Machine.execTxpredRd h d k idx w s
  | .txpredWr h d k idx w => Sys2Proof.Machine.execTxpredWr h d k idx w s
  | .txgate h a e => Sys2Proof.Machine.execTxgate h a e s
  | .atom op o => Sys2Proof.Machine.execAtom op o s
  | .acas o => Sys2Proof.Machine.execAcas o s
  | .red op o => Sys2Proof.Machine.execRed op o s
  | .bar h id => Sys2Proof.Machine.execBar h id s
  | .bars h arr id n => Sys2Proof.Machine.execBars h arr id n s
  | .qpush h cl q a => Sys2Proof.Machine.execQpush h cl q a s
  | .qpop h cl ag q d => Sys2Proof.Machine.execQpop h cl ag q d s
  | .qtry h cl q d o => Sys2Proof.Machine.execQtry h cl q d o s
  | .qgrant h cl q n => Sys2Proof.Machine.execQgrant h cl q n s
  | .qgrantCfg h cl q w => Sys2Proof.Machine.execQgrantCfg h cl q w s
  | .dqpush h sc d hd e => Sys2Proof.Machine.execDqpush h sc d hd e s
  | .dqpop h sc d hd => Sys2Proof.Machine.execDqpop h sc d hd s
  | .dqsteal h sc d hd => Sys2Proof.Machine.execDqsteal h sc d hd s
  | .reggive h n => Sys2Proof.Machine.execReggive h n s
  | .regclaim h n => Sys2Proof.Machine.execRegclaim h n s
  | .gqrel h a idx => Sys2Proof.Machine.execGqrel h a idx s
  | .launch h a q same => Sys2Proof.Machine.execLaunch h a q same s
  | .task h a => Sys2Proof.Machine.execTask h a s
  | .taskc h a inv => Sys2Proof.Machine.execTaskc h a inv s
  | .joinc h d => Sys2Proof.Machine.execJoinc h d s
  | .qry h d o => Sys2Proof.Machine.execQry h d o s
  | .detsync h => Sys2Proof.Machine.execDetsync h s
  | .taskqRd h d q => Sys2Proof.Machine.execTaskqRd h d q s
  | .taskqWr h q t => Sys2Proof.Machine.execTaskqWr h q t s
  | .sgfork h obj ker bud g1 rmask nstr1 => Sys2Proof.Machine.execSgfork h obj ker bud g1 rmask nstr1 s
  | .sgreward h d obj idx rew => Sys2Proof.Machine.execSgreward h d obj idx rew s
  | .sgwait h d obj => Sys2Proof.Machine.execSgwait h d obj s
  | .sgcancel h obj idx => Sys2Proof.Machine.execSgcancel h obj idx s
  | .sgclose h obj => Sys2Proof.Machine.execSgclose h obj s
  | .sginfo h sel d obj => Sys2Proof.Machine.execSginfo h sel d obj s
  | .dld h d a c => Sys2Proof.Machine.execDld h d a c s
  | .dset h sel a x c => Sys2Proof.Machine.execDset h sel a x c s
  | .dadd h sel a x c => Sys2Proof.Machine.execDadd h sel a x c s
  | .dmerge h d a b => Sys2Proof.Machine.execDmerge h d a b s
  | .stepadv h d t => Sys2Proof.Machine.execStepadv h d t s
  | .rng h d a b => Sys2Proof.Machine.execRng h d a b s
  | .rngf h d a b => Sys2Proof.Machine.execRngf h d a b s
  | .rngmask h d a b c => Sys2Proof.Machine.execRngmask h d a b c s
  | .rngmaskSt h d a b c => Sys2Proof.Machine.execRngmaskSt h d a b c s
  | .trap h code => Sys2Proof.Machine.execTrap h code s
  | .tret h act dest => Sys2Proof.Machine.execTret h act dest s
  | .csrr h d n => Sys2Proof.Machine.execCsrr h d n s
  | .csrw h x n => Sys2Proof.Machine.execCsrw h x n s
  | .csrx h op d x n => Sys2Proof.Machine.execCsrx h op d x n s
  | .brk h code => Sys2Proof.Machine.execBrk h code s
  | .tlbinv h o => Sys2Proof.Machine.execTlbinv h o s
  | .halt h code => Sys2Proof.Machine.execHalt h code s
  | .xput h a b c ep ben bar => Sys2Proof.Machine.execXput h a b c ep ben bar s
  | .xget h a b c ep ben bar => Sys2Proof.Machine.execXget h a b c ep ben bar s
  | .xsig h x b ep set => Sys2Proof.Machine.execXsig h x b ep set s
  | .xwait h a x => Sys2Proof.Machine.execXwait h a x s
  | .deviceReset => Sys2Proof.Machine.execDeviceReset s
  | .dlDown port => Sys2Proof.Machine.execDlDown port s
  | .mgClaim p0 p1 => Sys2Proof.Machine.execMgClaim p0 p1 s
  | .handoverRelease port => Sys2Proof.Machine.execHandoverRelease port s
  | .handoverPass port target => Sys2Proof.Machine.execHandoverPass port target s
  | .doorbell port ctx q p => Sys2Proof.Machine.execDoorbell port ctx q p s
  | .create port ctx => Sys2Proof.Machine.execCreate port ctx s
  | .run port ctx => Sys2Proof.Machine.execRun port ctx s
  | .suspend port ctx => Sys2Proof.Machine.execSuspend port ctx s
  | .reset port ctx => Sys2Proof.Machine.execReset port ctx s
  | .setq port ctx => Sys2Proof.Machine.execSetq port ctx s
  | .setep port ctx => Sys2Proof.Machine.execSetep port ctx s
  | .boot port => Sys2Proof.Machine.execBoot port s
  | .attest port => Sys2Proof.Machine.execAttest port s
  | .setcsr port ctx => Sys2Proof.Machine.execSetcsr port ctx s
  | .mgRegisterWrite port off x => Sys2Proof.Machine.execMgRegisterWrite port off x s
  | .hostBar2Read port off n => Sys2Proof.Machine.execHostBar2Read port off n s
  | .hostBar2Write port off bytes => Sys2Proof.Machine.execHostBar2Write port off bytes s
  | .mctpQuery reg => Sys2Proof.Machine.execMctpQuery reg s
  | .clusterGroupRelease => Sys2Proof.Machine.execClusterGroupRelease s
  | .ringRecordAccept ctx q => Sys2Proof.Machine.execRingRecordAccept ctx q s
  | .lotteryDraw => Sys2Proof.Machine.execLotteryDraw s
  | .workgroupDispatch grid => Sys2Proof.Machine.execWorkgroupDispatch grid s
  | .dispatchOfferTimeout grid => Sys2Proof.Machine.execDispatchOfferTimeout grid s
  | .coresidentPlacement grid => Sys2Proof.Machine.execCoresidentPlacement grid s
  | .taskDispatch task => Sys2Proof.Machine.execTaskDispatch task s
  | .taskStagedStart task => Sys2Proof.Machine.execTaskStagedStart task s
  | .conditionalPredicateRead task => Sys2Proof.Machine.execConditionalPredicateRead task s
  | .versionDrain task => Sys2Proof.Machine.execVersionDrain task s
  | .versionDrainComplete task => Sys2Proof.Machine.execVersionDrainComplete task s
  | .workgroupRetire wg => Sys2Proof.Machine.execWorkgroupRetire wg s
  | .endOfLaunch grid => Sys2Proof.Machine.execEndOfLaunch grid s
  | .icacheMissFill wave => Sys2Proof.Machine.execIcacheMissFill wave s
  | .quantumExpiry wave => Sys2Proof.Machine.execQuantumExpiry wave s
  | .pageWalk core ctx va => Sys2Proof.Machine.execPageWalk core ctx va s
  | .loadDataArrival load => Sys2Proof.Machine.execLoadDataArrival load s
  | .asuOperation req => Sys2Proof.Machine.execAsuOperation req s
  | .asuReplyArrival req => Sys2Proof.Machine.execAsuReplyArrival req s
  | .regclaimServe core => Sys2Proof.Machine.execRegclaimServe core s
  | .queueWaiterServed waiter => Sys2Proof.Machine.execQueueWaiterServed waiter s
  | .copyStart copy => Sys2Proof.Machine.execCopyStart copy s
  | .copyComplete copy => Sys2Proof.Machine.execCopyComplete copy s
  | .engineGrant cluster => Sys2Proof.Machine.execEngineGrant cluster s
  | .passComplete cluster => Sys2Proof.Machine.execPassComplete cluster s
  | .engineCommandComplete entry => Sys2Proof.Machine.execEngineCommandComplete entry s
  | .txCommitProceed wg => Sys2Proof.Machine.execTxCommitProceed wg s
  | .gateRead wg => Sys2Proof.Machine.execGateRead wg s
  | .releaseRound ctx => Sys2Proof.Machine.execReleaseRound ctx s
  | .detqExpiry wave => Sys2Proof.Machine.execDetqExpiry wave s
  | .waveDrop wave => Sys2Proof.Machine.execWaveDrop wave s
  | .workgroupSave wg => Sys2Proof.Machine.execWorkgroupSave wg s
  | .workgroupResume wg => Sys2Proof.Machine.execWorkgroupResume wg s
  | .switchDeadlineExpiry ctx => Sys2Proof.Machine.execSwitchDeadlineExpiry ctx s
  | .haltResume wave discard => Sys2Proof.Machine.execHaltResume wave discard s
  | .siblingBudgetExpiry wg => Sys2Proof.Machine.execSiblingBudgetExpiry wg s
  | .sweepVisit ctx => Sys2Proof.Machine.execSweepVisit ctx s
  | .migrationStart ctx va dst => Sys2Proof.Machine.execMigrationStart ctx va dst s
  | .migrationStall mig => Sys2Proof.Machine.execMigrationStall mig s
  | .migrationSwitch mig => Sys2Proof.Machine.execMigrationSwitch mig s
  | .refreshWindowStart bank => Sys2Proof.Machine.execRefreshWindowStart bank s
  | .rfmIssue bank row => Sys2Proof.Machine.execRfmIssue bank row s
  | .xputAck xfer => Sys2Proof.Machine.execXputAck xfer s
  | .xgetDataArrival xfer bytes => Sys2Proof.Machine.execXgetDataArrival xfer bytes s
  | .xsigSend xfer => Sys2Proof.Machine.execXsigSend xfer s
  | .xoTransferFailure xfer => Sys2Proof.Machine.execXoTransferFailure xfer s
  | .incomingPeerWrite ctx ep off bytes => Sys2Proof.Machine.execIncomingPeerWrite ctx ep off bytes s
  | .mgCommandComplete => Sys2Proof.Machine.execMgCommandComplete s
  | .dlUp port => Sys2Proof.Machine.execDlUp port s
  | .busMasteringChange port on => Sys2Proof.Machine.execBusMasteringChange port on s
  | .incomingPeerRead ctx ep off n => Sys2Proof.Machine.execIncomingPeerRead ctx ep off n s

end Sys2Proof.Machine
end

