-- ==== Sys2Proof/Machine/Schedule.lean ====
section
/-! DEFINITION. Machine/Schedule.lean: which agent moves (notes/assumptions/2.md), and its move. The manual leaves the order of
agents open (01_machine R7): the agenda of the state names the next ones, and where it names none, the first event that can
take place does, then the waves issue in turn. -/

namespace Sys2Proof.Machine

/-! ## A move -/

/-- Count a step. -/
def State.tock (s : State) : State := { s with tick := s.tick + 1 }

/-- An event of the opcode table: it has no word. -/
def isEvent (i : Instr) : Bool := i.toFields.isNone

/-- The agent moves. An instruction with a word is no event: a wave issues it. -/
def State.move (s : State) : Agent → Out
  | .event i =>
    if isEvent i then match exec i s with
      | .next t => .next t.tock
      | .fault f => .fault f
      | .refused r => .refused r
    else .next s.tock
  | .issue u go late => match s.issue u go late with
    | .done t => .next t.tock
    | .stall t => .next t
    | .run t i => exec i t
  | .maxUpdates u => .next (s.maxUpdates u).tock
  | .storeOut k => .next (s.storeLands k).tock
  | .unitCancel k => .next (if s.stalling then s else s.settleLost k).tock
  | .roundEnd cx => .next (s.roundEnd cx).tock
  | .l1Evict core line => .next (s.l1Drop core line).tock
  | .icacheEvict core line => .next (s.icacheDrop core line).tock
  | .prefetched core line => .next (s.prefetched core line).tock
  | .tlbEvict cluster va => .next (s.tlbDrop cluster va).tock
  | .l2Evict die line => .next (s.l2Evict die line).tock
  | .l2Fill die pa => .next (s.updMem fun m => m.l2Fill die pa).tock
  | .poison x => .next (s.poisonSector x).tock
  | .tilePoison t => .next (s.poisonTile t).tock
  | .corrected => .next s.correctedError.tock
  | .power => .next s.measurePower.tock
  | .throttled => .next s.throttled.tock
  | .rowActivate bank row => .next (s.rowActivate bank row).tock
  | .hostStore pa bytes => .next (s.hostStore pa bytes).tock
  | .bar0Read p off n => .next (s.bar0Read p off n).tock
  | .bar2Size p bits => .next (s.sizeBar p bits).tock
  | .firmware cx b => .next (s.launchFirmware cx b).tock

/-! ## Events that can take place -/

/-- The event changes something now. -/
def State.moves (s : State) (i : Instr) : Bool :=
  match exec i s with
  | .next t => t != s
  | _ => false

/-- The offer of a launch passes on where another die has room, or a parent can make room (R328, R324). -/
def State.offerMoves (s : State) (k : Nat) : Bool :=
  let g := s.gridD k
  s.offers k && match g.offer with
    | none => false
    | some lin =>
      (s.placeIn k lin (s.offerDie k lin)).isNone &&
      ((s.ctxD g.ctx).dieList.any (fun d => (s.placeIn k lin d).isSome) ||
        (g.parent.isSome && match s.joiner g.ctx with
          | some o => (s.wgD o).waves.all fun u => !(s.waveD u).dropReq
          | none => false))

/-- Events of the hub. -/
def State.hubEvents (s : State) : List Instr :=
  (if s.hub.command.isSome then [.mgCommandComplete] else []) ++
  (if s.hub.bootState == 0x02 then [.clusterGroupRelease] else []) ++
  s.ctxs.flatMap (fun c => (c.2.queues.filter fun q => s.ringReady c.1 q.1).map fun q =>
    .ringRecordAccept (BitVec.ofNat 6 c.1) (BitVec.ofNat 6 q.1))

/-- Events of tasks. -/
def State.depEvents (s : State) : List Instr :=
  s.deps.flatMap fun e =>
    [.conditionalPredicateRead e.1, .taskDispatch e.1, .taskStagedStart e.1, .versionDrain e.1, .versionDrainComplete e.1]

/-- Events of grids; the next launch is drawn when those started have what room there is. -/
def State.gridEvents (s : State) : List Instr :=
  s.grids.flatMap (fun g => [.coresidentPlacement g.1, .workgroupDispatch g.1, .endOfLaunch g.1] ++
    if s.offerMoves g.1 then [.dispatchOfferTimeout g.1] else []) ++
  if s.eligibleQueues.isEmpty then [] else [.lotteryDraw]

/-- Events of waves, loads, requests and waits. -/
def State.waveEvents (s : State) : List Instr :=
  s.waves.flatMap (fun w =>
    (if w.2.dropReq then [.waveDrop w.1] else []) ++ (if w.2.missing.isSome then [.icacheMissFill w.1] else []) ++
    (if w.2.turnExpired then [.quantumExpiry w.1] else [])) ++
  s.loads.map (fun l => .loadDataArrival l.1) ++ s.reqs.flatMap (fun r => [.asuOperation r.1, .asuReplyArrival r.1]) ++
  (s.claims.filter fun c => !c.2.isEmpty).map (fun c => .regclaimServe c.1) ++ s.waiters.map (fun x => .queueWaiterServed x.1)

/-- Events of copies and matrix engines. -/
def State.engineEvents (s : State) : List Instr :=
  let clusters := (s.entries.map fun e => e.2.cluster).eraseDups
  s.copies.flatMap (fun x => [.copyStart x.1, .copyComplete x.1]) ++
  clusters.flatMap (fun c => [.passComplete c, .engineGrant c]) ++ s.entries.map fun e => .engineCommandComplete e.1

/-- Events of workgroups, sweeps, migrations and signals. -/
def State.wgEvents (s : State) : List Instr :=
  s.wgs.flatMap (fun g => [.txCommitProceed g.1, .gateRead g.1, .siblingBudgetExpiry g.1, .workgroupRetire g.1]) ++
  (s.ctxs.filter fun c => c.2.sweep.isSome).map (fun c => .sweepVisit (BitVec.ofNat 6 c.1)) ++
  s.mem.migs.flatMap (fun m => [.migrationStall m.1, .migrationSwitch m.1]) ++ s.xfers.map (fun x => .xsigSend x.1) ++
  s.wgs.map fun g => .workgroupResume g.1

/-- The first event of a list that can take place. -/
def State.firstMove (s : State) (l : List Instr) : Option Agent := (l.find? s.moves).map .event

/-- The waves that have their lane and can do something, in order; `again`: those that try an instruction again. -/
def State.ready (s : State) (again : Bool) : List Nat :=
  (s.waves.filter fun w =>
    s.hasLane w.1 && !s.waveIdle w.1 && again == match w.2.choose (s.isDet w.2.wg) false with
      | some (p, _) => (match p.wait with | .retry _ => true | _ => false)
      | none => false).map (·.1)

/-- The wave of a list that has not issued for the longest time. -/
def State.inTurn (s : State) (l : List Nat) : Option Agent :=
  (l.foldl (fun (best : Option Nat) u => match best with
    | none => some u
    | some v => if (s.waveD u).lastTurn < (s.waveD v).lastTurn then some u else some v) none).map fun u => .issue u false false

/-- Release rounds that may be due. -/
def State.rounds (s : State) : List Instr :=
  (s.ctxs.filter fun c => c.2.roundOpen).map fun c => .releaseRound (BitVec.ofNat 6 c.1)

/-- What units do by themselves: the rest of a release round, a store that has issued, a sibling to cancel. -/
def State.unitNext (s : State) : Option Agent :=
  ((s.ctxs.findKey fun _ c => c.stepping).map .roundEnd).orElse fun _ => (s.storeNext.map .storeOut).orElse fun _ =>
    (s.grids.findKey fun _ g => !g.det && !g.lost.isEmpty && !s.stalling).map .unitCancel

/-- The agent that moves when the agenda is empty: an event that can take place; then an instruction that waits is tried
again; then a release round; then the waves in turn; then what saves a suspended workgroup. -/
def State.nextAgent (s : State) : Option Agent :=
  let first := s.firstMove
  (s.unitNext).orElse fun _ => (first s.hubEvents).orElse fun _ => (first s.waveEvents).orElse fun _ =>
    (first s.engineEvents).orElse fun _ => (first s.depEvents).orElse fun _ => (first s.wgEvents).orElse fun _ => (first s.gridEvents).orElse fun _ =>
      (s.inTurn (s.ready true)).orElse fun _ => (first s.rounds).orElse fun _ => (s.inTurn (s.ready false)).orElse fun _ =>
        first (s.wgs.map fun g => .workgroupSave g.1)

/-- After a move no issue is in progress, and the engines' slots are with the waves whose entries have become eligible (R237). -/
def settle : Out → Out
  | .next t => .next { t.acquireSlots with cur := none }
  | .fault f => .fault f
  | .refused x => .refused x

/-- One move of the machine. With nothing to do it stays as it is. -/
def State.advance (s : State) : Out :=
  match s.agenda with
  | a :: r => settle (State.move { s with agenda := r, cur := none } a)
  | [] => match s.nextAgent with
    | some a => settle (State.move { s with cur := none } a)
    | none => .next { s with cur := none }

end Sys2Proof.Machine
end

