-- ==== Sys2Proof/Machine/Load.lean ====
section
/-! DEFINITION. Machine/Load.lean: a word placed where the next step fetches (notes/assumptions/5.md): a running context with
one launch of one workgroup of one wave with one strand, whose first instruction is the word. -/

namespace Sys2Proof.Machine

/-- Where the placed kernel's header lies, in virtual and in physical memory. -/
def placedHeader : Nat := 0x1000

/-- The header of the placed kernel: one wave with the largest window, and local store. -/
def placedHdr : Header :=
  { wregs := 256, waves := 1, localSz := 4096, txn := false, early := false, rung := 0, pinned := false, cores := false
    pair := false, templs := [], splits := [] }

/-- The launch record of the placed kernel. -/
def placedRec : LaunchRec :=
  { kernel := BitVec.ofNat 64 placedHeader, nx := 1, ny := 1, nz := 1, nstr := 1, args := [] }

/-- The grid of the placed kernel. -/
def placedGrid : Grid :=
  { ctx := 0, queue := 0, kind := .launch, lrec := placedRec, parent := none, depth := 0, lat := {}, hdr := some placedHdr
    started := true, next := 1 }

/-- The word's bytes, with zeros up to the longest instruction. -/
def placedBytes (nbits w : Nat) : List (BitVec 8) := leBytes 16 (w % 2 ^ nbits)

/-- The word decodes in a pair workgroup only (R245). -/
def pairOnly (bs : List (BitVec 8)) : Bool :=
  match decode ⟨256, false, false, false⟩ bs with
  | .ok _ => false
  | .error _ => match decode ⟨256, true, false, false⟩ bs with
    | .ok _ => true
    | .error _ => false

/-- The fetch line of the placed kernel's entry point, in core 0's instruction cache. -/
def placedLine (bs : List (BitVec 8)) : CoreLine := { core := 0, line := placedHeader / 64 + 1, bytes := padTo 64 0 bs }

/-- A translation of the kernel's page to itself, with every permission, in core 0's TLB. -/
def placedTlb : TlbEntry :=
  { cluster := 0, core := some 0, asid := 0, va := placedHeader, size := 4096, pte := BitVec.ofNat 64 (placedHeader + 0x3C3)
    secure := [] }

/-- The workgroup of the placed kernel. -/
def placedWg (k u : Nat) (pair : Option Nat) : Wg :=
  { grid := k, lin := 0, x := 0, y := 0, z := 0, pair := pair, core := 0, waves := [u] }

/-- The wave of the placed kernel. -/
def placedWave (g : Nat) : Wave :=
  { wg := g, idx := 0, win := 256, win0 := 256, strands := [(0, startStrand placedGrid.entry)]
    paths := [{ born := 0, mask := 1 }], nextBorn := 1, ck := { mask := 1 } }

/-- The state with a word placed where the next step fetches: grid, workgroup and wave have the next three uids, and a pair's
other half the fourth. -/
def State.placeWord (s : State) (nbits w : Nat) : State :=
  let bs := placedBytes nbits w
  let n := s.fresh
  let pair := pairOnly bs
  let wgs := s.wgs.set (n + 1) (placedWg n (n + 2) (if pair then some (n + 3) else none))
  let other : Wg := { placedWg n (n + 2) (some (n + 1)) with lin := 1, core := 4, waves := [] }
  { s with
    agenda := [.issue (n + 2) false false]
    cur := none
    fresh := n + 4
    mem := { s.mem with
      icache := placedLine bs :: s.mem.icache
      tlb := placedTlb :: s.mem.tlb
      cells := ((List.range 16).zip bs).foldl (fun m x => memSet m (placedHeader + 64 + x.1) x.2) s.mem.cells }
    ctxs := s.ctxs.set 0 { (s.ctxD 0) with st := .running }
    grids := s.grids.set n placedGrid
    wgs := if pair then wgs.set (n + 3) other else wgs
    waves := s.waves.set (n + 2) (placedWave (n + 1)) }

end Sys2Proof.Machine
end

