-- ==== Sys2Proof/Machine/Step.lean ====
section
/-! DEFINITION. Machine/Step.lean: the step of the machine, and a word placed for it. -/

namespace Sys2Proof.Machine

/-- One step: the next agent moves (Machine/Schedule.lean). -/
def step (s : State) : Host.Outcome State Fault Refusal := s.advance

/-- A state in which the next step fetches and runs a word of the opcode table (Machine/Load.lean). -/
def State.withFetchWord (s : State) (nbits w : Nat) : State := s.placeWord nbits w

end Sys2Proof.Machine
end

