-- ==== Sys2Proof/Safety.lean ====
section
/-! DEFINITION. Safety.lean: what counts as a safe run, one that never stops, and the canonical form of the state's byte
memories and caches. -/

namespace Sys2Proof

/-- The first `n` steps from a state stop nowhere. -/
def SafeRun (n : Nat) (s : Machine.State) : Prop := ∃ t, core.run n s = .next t

/-- Memory, and the buffers that the hub keeps, have their canonical form (Machine/Map.lean), every line of an L1 has its 64
bytes, and the written bytes of a dirty L2 copy stand in rising order within the line. -/
def Machine.State.memWf (s : State) : Bool :=
  Machine.memWf s.mem.cells && Machine.memWf s.hub.image && Machine.memWf s.hub.report && Machine.memWf s.hub.identity &&
    s.mem.l1.all (fun x => x.bytes.length == 64) &&
    s.mem.l2.all fun x => x.base.length == 64 && decide ((x.bytes.map (·.1)).Pairwise (· < ·)) && x.bytes.all fun e => decide (e.1 < 64)

end Sys2Proof
end

