-- ==== Sys2Proof/Certificates/Slice0/Obligations.lean ====
section
/-! DEFINITION. Certificates/Slice0/Obligations.lean: the statements for the provers. The namespace Sys2Proof.Claims holds what
the statements are made of: what an issue is, the frames that say what an instruction leaves unchanged, and the results that the
rules of the spec give. -/

namespace Sys2Proof.Claims

open Sys2Proof Sys2Proof.Machine

/-! ## Issues and frames -/

/-- `exec` is handed the issue `c` of the wave `w`: what `step` sets up before it calls `exec` (notes/assumptions/2.md). -/
structure Issuing (s : State) (c : Issue) (w : Wave) : Prop where
  cur  : s.cur = some c
  wave : s.waves.get? c.wave = some w

/-- The state `s` after an instruction that changes nothing but the issuing wave, which is `w'` now: memory, every other record
and every register of another wave stay; of the model's own counters only the count of steps moves. -/
def onlyWave (s : State) (c : Issue) (w' : Wave) : State :=
  { s with cur := none, tick := s.tick + 1, waves := s.waves.set c.wave w' }

/-- Where a path stands that goes on at an address by falling through (R29, R67). -/
def edgeTo (a : BitVec 64) : Edge := if a.toNat % 32 = 0 then .window else .mid

/-- Where a path stands that goes on after an event of R39 (R67). -/
def edgePast (a : BitVec 64) : Edge := if a.toNat % 32 = 0 then .window else .event

/-- The path whose instruction retires can issue again, at the next address. -/
def wentOn (c : Issue) (p : Path) : Path :=
  if p.born == c.path then { p with wait := .none, edge := edgeTo c.next, turn := p.turn + 1 } else p

/-- What retiring an instruction leaves of the wave (R54, R60, R74): its strands, its uniform registers and its sticky flags are
the instruction's; the counts of retired instructions step; the issuing path can issue, and stands at a boundary when the
next address is the start of a window; every other field is unchanged. -/
structure Retired (c : Issue) (w w' : Wave) : Prop where
  frame : w' = { w with
    strands := w'.strands
    s := w'.s
    fpflags := w'.fpflags
    paths := w.paths.map (wentOn c)
    icount := w.icount + 1
    roundN := w.roundN + 1 }

/-- The strands that are not in the path keep everything. -/
def Others (c : Issue) (w w' : Wave) : Prop := ∀ i, ¬(i < 32 ∧ c.mask.getLsbD i = true) → w'.strand i = w.strand i

/-! ## Instructions that write one register or pair -/

/-- An instruction that reads its operands, writes one destination and a latch (R32, R38) and may raise flags (R100). The
value and the flags are functions of the wave, the enabled strands and the strand. -/
structure DataIns where
  h     : Hd
  d     : Dst
  w64   : Bool
  sgn   : Bool
  srcs  : List Src
  val   : Wave → BitVec 32 → Nat → BitVec 64
  flags : Wave → BitVec 32 → Nat → BitVec 5 := fun _ _ _ => 0

/-- The strand whose value a uniform destination takes: all read the same (R34). -/
def lead (e : BitVec 32) : Nat := (slotsOf e).headD 0

/-- The value that goes to l0 of a strand in which the instruction has no effect (R38): the destination's unchanged value, zero with
NWB. -/
def DataIns.kept (o : DataIns) (w : Wave) (i : Nat) : BitVec 64 :=
  if o.h.nwb then 0
  else if o.d.s then w.sreg o.d.n.toNat
  else if o.w64 then (w.strand i).v32 (o.d.n.toNat + 1) ++ (w.strand i).v32 o.d.n.toNat
  else ((w.strand i).v32 o.d.n.toNat).zeroExtend 64

/-- The value that goes to l0 of a strand of the path (R38): the result where the instruction has its effect. -/
def DataIns.latch (o : DataIns) (w : Wave) (e : BitVec 32) (i : Nat) : BitVec 64 :=
  if o.d.s = true ∧ e ≠ 0 then
    if o.w64 then o.val w e (lead e) else ((o.val w e (lead e)).extractLsb' 0 32).zeroExtend 64
  else if o.d.s = false ∧ e.getLsbD i = true then
    (if o.w64 then o.val w e i else ((o.val w e i).extractLsb' 0 32).zeroExtend 64)
  else o.kept w i

/-- A strand that is not in the path, after an instruction that writes a latch value (R38, R57): its latches shift as those of a
strand whose guard is false, and nothing else of it changes. -/
def DataIns.beside (o : DataIns) (w : Wave) (i : Nat) : Strand :=
  if i < 32 ∧ (w.strand i).live = true then
    { w.strand i with
      l0 := o.kept w i, l1 := (w.strand i).l0, l2 := (w.strand i).l1, l3 := (w.strand i).l2
      pushes := (w.strand i).pushes + 1 }
  else w.strand i

/-- Window register `n` of strand `i` after it (R32, R36): the low half of a result in vd, the high half of a 64-bit one in
vd+1, and every other register unchanged. -/
def DataIns.vreg (o : DataIns) (w : Wave) (e : BitVec 32) (i n : Nat) : BitVec 32 :=
  if o.d.s = false ∧ o.h.nwb = false ∧ e.getLsbD i = true ∧ o.w64 = true ∧ n = o.d.n.toNat + 1 then
    (o.val w e i).extractLsb' 32 32
  else if o.d.s = false ∧ o.h.nwb = false ∧ e.getLsbD i = true ∧ n = o.d.n.toNat then (o.val w e i).extractLsb' 0 32
  else (w.strand i).v32 n

/-- Uniform register `n` after it (R32): a 32-bit result is extended to 64 bits, by sign for a signed type. -/
def DataIns.sreg (o : DataIns) (w : Wave) (e : BitVec 32) (n : Nat) : BitVec 64 :=
  if o.d.s = true ∧ o.h.nwb = false ∧ e ≠ 0 ∧ n = o.d.n.toNat then
    (if o.w64 then o.val w e (lead e)
     else if o.sgn then ((o.val w e (lead e)).extractLsb' 0 32).signExtend 64
     else ((o.val w e (lead e)).extractLsb' 0 32).zeroExtend 64)
  else w.sreg n

/-- The sticky flags after it (R100): those of the enabled strands are added; a uniform instruction raises them once. -/
def DataIns.sticky (o : DataIns) (w : Wave) (e : BitVec 32) : BitVec 5 :=
  if o.d.s = true ∧ e ≠ 0 then w.fpflags ||| o.flags w e (lead e)
  else w.fpflags ||| (slotsOf e).foldl (fun a i => a ||| o.flags w e i) 0

/-- The registers of the wave after the instruction, and what it leaves of a strand of the path: everything but its registers,
its program counter and its latches, of which the older ones shift (R38) and all end at a window's end (R39); of a strand that
is not in the path the latches shift (R57). -/
structure Wrote (o : DataIns) (c : Issue) (w : Wave) (e : BitVec 32) (w' : Wave) : Prop where
  strand : ∀ i, i < 32 → c.mask.getLsbD i = true → w'.strand i =
    { w.strand i with
      v := (w'.strand i).v
      pc := c.next
      l0 := o.latch w e i
      l1 := (w.strand i).l0
      l2 := (w.strand i).l1
      l3 := (w.strand i).l2
      latN := if c.next.toNat % 32 = 0 then 0 else min 4 ((w.strand i).latN + 1)
      pushes := (w.strand i).pushes + 1 }
  beside : ∀ i, ¬(i < 32 ∧ c.mask.getLsbD i = true) → w'.strand i = o.beside w i
  vregs : ∀ i n, i < 32 → c.mask.getLsbD i = true → (w'.strand i).v32 n = o.vreg w e i n
  sregs : ∀ n, w'.sreg n = o.sreg w e n
  flags : w'.fpflags = o.sticky w e

/-- The instruction completes: on every issue whose latch sources are valid (R39), `exec` answers the state in which only the
issuing wave has changed, by the instruction's result. -/
def DataIns.Completes (o : DataIns) (i : Instr) : Prop :=
  ∀ s c w, Issuing s c w → latchOk w c.mask o.srcs = true →
    ∃ w', exec i s = .next (onlyWave s c w') ∧ Retired c w w' ∧ Wrote o c w (w.enabled c.mask o.h) w'

/-! ## Integer results (04_arithmetic) -/

/-- The low bits of an operand, as many as its type has (R43, R87). -/
def low (t : Ty) (x : BitVec 64) : BitVec (tyBits t) := x.setWidth (tyBits t)

/-- A result in its register (R87): extended to 32 bits when its type is narrower, by sign for a signed type. -/
def wide (t : Ty) (y : BitVec (tyBits t)) : BitVec 64 :=
  if tyBits t < 32 ∧ tySigned t = true then (y.signExtend 32).setWidth 64 else y.setWidth 64

/-- The integer that an operand stands for (R87). -/
def num (t : Ty) (y : BitVec (tyBits t)) : Int := if tySigned t then y.toInt else y.toNat

/-- Least and greatest integer of a type. -/
def least (t : Ty) : Int := if tySigned t then -(2 ^ (tyBits t - 1) : Int) else 0
/-- Greatest integer of a type. -/
def greatest (t : Ty) : Int := if tySigned t then 2 ^ (tyBits t - 1) - 1 else 2 ^ tyBits t - 1

/-- An exact result in a type: clamped with `.sat`, else its low bits (R91). -/
def fit (t : Ty) (sat : Bool) (r : Int) : BitVec 64 :=
  wide t (BitVec.ofInt (tyBits t) (if sat then max (least t) (min r (greatest t)) else r))

/-- Two sources of the instruction's type and a result of it. -/
def ofBin (o : Bin) (f : BitVec (tyBits o.t) → BitVec (tyBits o.t) → BitVec 64) : DataIns :=
  { h := o.h, d := o.d, w64 := is64 o.t, sgn := isSigned o.t, srcs := [o.a, o.b]
    val := fun w _ i => f (low o.t (rdTy o.t w i o.a)) (low o.t (rdTy o.t w i o.b)) }

/-- One source. -/
def ofUn (o : Un) (f : BitVec (tyBits o.t) → BitVec 64) : DataIns :=
  { h := o.h, d := o.d, w64 := is64 o.t, sgn := isSigned o.t, srcs := [o.a], val := fun w _ i => f (low o.t (rdTy o.t w i o.a)) }

/-- Three sources. -/
def ofTri (o : Tri) (f : BitVec (tyBits o.t) → BitVec (tyBits o.t) → BitVec (tyBits o.t) → BitVec 64) : DataIns :=
  { h := o.h, d := o.d, w64 := is64 o.t, sgn := isSigned o.t, srcs := [o.a, o.b, o.c]
    val := fun w _ i => f (low o.t (rdTy o.t w i o.a)) (low o.t (rdTy o.t w i o.b)) (low o.t (rdTy o.t w i o.c)) }

/-- The second source is an unsigned 32-bit count whatever the type (R33, R92). -/
def ofCount (o : Bin) (f : BitVec (tyBits o.t) → Nat → BitVec 64) : DataIns :=
  { h := o.h, d := o.d, w64 := is64 o.t, sgn := isSigned o.t, srcs := [o.a, o.b]
    val := fun w _ i => f (low o.t (rdTy o.t w i o.a)) (rd32 w i o.b).toNat }

/-- A count of bits: a 32-bit result whatever the type (R92). -/
def ofBits (o : Un) (f : BitVec (tyBits o.t) → Nat) : DataIns :=
  { h := o.h, d := o.d, w64 := false, sgn := isSigned o.t, srcs := [o.a]
    val := fun w _ i => BitVec.ofNat 64 (f (low o.t (rdTy o.t w i o.a))) }

/-- Sums, products, minima, shifts and bit operations (R91, R92), by the arithmetic of w-bit words. -/
def aluOf : Instr → Option DataIns
  | .iadd sat o => some (ofBin o fun a b => fit o.t sat (num o.t a + num o.t b))
  | .isub sat o => some (ofBin o fun a b => fit o.t sat (num o.t a - num o.t b))
  | .imul o => some (ofBin o fun a b => wide o.t (a * b))
  | .imad o => some (ofTri o fun a b c => wide o.t (a * b + c))
  | .imulh o => some (ofBin o fun a b => wide o.t (BitVec.ofInt (tyBits o.t) (num o.t a * num o.t b / 2 ^ tyBits o.t)))
  | .imin o => some (ofBin o fun a b => wide o.t (if num o.t a ≤ num o.t b then a else b))
  | .imax o => some (ofBin o fun a b => wide o.t (if num o.t a ≤ num o.t b then b else a))
  | .iabs sat o => some (ofUn o fun a => fit o.t sat (if num o.t a < 0 then -num o.t a else num o.t a))
  | .and o => some (ofBin o fun a b => wide o.t (a &&& b))
  | .or o => some (ofBin o fun a b => wide o.t (a ||| b))
  | .xor o => some (ofBin o fun a b => wide o.t (a ^^^ b))
  | .not o => some (ofUn o fun a => wide o.t (~~~a))
  | .shl o => some (ofCount o fun a k => wide o.t (a <<< k))
  | .shr o => some (ofCount o fun a k => wide o.t (a >>> k))
  | .sar o => some (ofCount o fun a k => wide o.t (a.sshiftRight k))
  | .rot o => some (ofCount o fun a k => wide o.t (a.rotateLeft k))
  | .popc o => some (ofBits o fun a => ((List.range (tyBits o.t)).filter fun i => a.getLsbD i).length)
  | .clz o => some (ofBits o fun a => if a = 0 then tyBits o.t else tyBits o.t - 1 - Nat.log2 a.toNat)
  | .ctz o => some (ofBits o fun a => ((List.range (tyBits o.t)).find? fun i => a.getLsbD i).getD (tyBits o.t))
  | .brev o => some (ofUn o fun a => wide o.t a.reverse)
  | _ => none

end Sys2Proof.Claims

/-- R87, R91, R92: the integer sums, products, minima, maxima, shifts, rotations, bit operations and bit counts complete on every
issue with valid latches, and write the result of w-bit arithmetic, with `.sat` the clamped one; everything but the issuing
wave's registers, latches, program counters and counts is unchanged, memory included. -/
def Obligations.IntegerArithmetic : Prop :=
  ∀ i o, Sys2Proof.Claims.aluOf i = some o → o.Completes i

namespace Sys2Proof.Claims

open Sys2Proof Sys2Proof.Machine

/-! ## Moves, fields and exchanges (04_arithmetic R93 to R97) -/

/-- Byte `k` of a 64-bit word. -/
def byteOf (x : BitVec 64) (k : Nat) : BitVec 8 := x.extractLsb' (8 * k) 8

/-- The byte that `PRMT` puts at place `k` (R97): byte SEL 2:0 of the eight, zero with bit 3, its bits reversed with bit 4, its
top bit in every place with bit 5. -/
def prmtPlace (x : BitVec 64) (sel : BitVec 32) (k : Nat) : BitVec 8 :=
  let f := sel.extractLsb' (8 * k) 8
  let b := byteOf x (f.extractLsb' 0 3).toNat
  let b := if f.getLsbD 4 then b.reverse else b
  let b := if f.getLsbD 5 then (if b.getLsbD 7 then 0xFF else 0) else b
  if f.getLsbD 3 then 0 else b

/-- The strand that `SHFL` names (R96). -/
def shflSource (m : ShflMode) (i : Nat) (b : BitVec 32) : Int :=
  match m with
  | .idx => b.toNat
  | .up => (i : Int) - b.toNat
  | .down => (i : Int) + b.toNat
  | .xor => ((i ^^^ b.toNat : Nat) : Int)

/-- The field of `BFX` (R93): LEN bits from POS on of the operand's integer, by sign for a signed type. -/
def bitField (t : Ty) (a : BitVec (tyBits t)) (spec : BitVec 32) : Int :=
  let y := BitVec.ofInt (spec.extractLsb' 8 8).toNat (num t a >>> (spec.extractLsb' 0 8).toNat)
  if tySigned t then y.toInt else y.toNat

/-- The bits that `BFI` writes (R93): LEN ones from POS on. -/
def fieldMask (w : Nat) (spec : BitVec 32) : BitVec w :=
  BitVec.ofNat w (2 ^ (spec.extractLsb' 8 8).toNat - 1) <<< (spec.extractLsb' 0 8).toNat

/-- The other integer instructions that write a register (R93 to R97). -/
def moveOf : Instr → Option DataIns
  | .bfx o => some
    { h := o.h, d := o.d, w64 := is64 o.t, sgn := isSigned o.t, srcs := [o.a, o.b]
      val := fun w _ i => wide o.t (BitVec.ofInt _ (bitField o.t (low o.t (rdTy o.t w i o.a)) (rd32 w i o.b))) }
  | .bfi o => some
    { h := o.h, d := o.d, w64 := is64 o.t, sgn := isSigned o.t, srcs := [o.a, o.b, o.c]
      val := fun w _ i =>
        let m := fieldMask (tyBits o.t) (rd32 w i o.b)
        let x := low o.t (rdTy o.t w i o.a)
        let y := low o.t (rdTy o.t w i o.c) <<< ((rd32 w i o.b).extractLsb' 0 8).toNat
        wide o.t ((x &&& ~~~m) ||| (y &&& m)) }
  | .sel o pc neg => some
    { h := o.h, d := o.d, w64 := is64 o.t, sgn := isSigned o.t, srcs := [o.a, o.b]
      val := fun w _ i =>
        wide o.t (low o.t (rdTy o.t w i (if (w.strand i).pred.getLsbD pc.toNat = neg then o.b else o.a))) }
  | .mov o => some (ofUn o fun a => wide o.t a)
  | .movi h t d x hi => some
    { h := h, d := d, w64 := is64 t, sgn := isSigned t, srcs := []
      val := fun w _ i =>
        if hi then x ++ (if d.s then w.sreg d.n.toNat else (w.strand i).v64 d.n.toNat).extractLsb' 0 32
        else if t = .s64 then x.signExtend 64
        else if t = .z64 then x.zeroExtend 64
        else wide t (low t (x.zeroExtend 64)) }
  | .lea sh o => some
    { h := o.h, d := o.d, w64 := true, sgn := false, srcs := [o.a, o.b]
      val := fun w _ i =>
        let idx := rd32 w i o.b
        rd64 w i o.a + ((if o.t = .s32 then idx.signExtend 64 else idx.zeroExtend 64) <<< sh.toNat) }
  | .iext o => some
    { h := o.h, d := o.d, w64 := true, sgn := false, srcs := [o.a]
      val := fun w _ i =>
        let a := low o.t (rdTy o.t w i o.a)
        if tySigned o.t then a.signExtend 64 else a.zeroExtend 64 }
  | .shfl m o => some
    { h := o.h, d := o.d, w64 := is64 o.t, sgn := isSigned o.t, srcs := [o.a, o.b]
      val := fun w e i =>
        let j := shflSource m i (rd32 w i o.b)
        if 0 ≤ j ∧ j < 32 ∧ e.getLsbD j.toNat = true then rdTy o.t w j.toNat o.a else rdTy o.t w i o.a }
  | .prmt o => some
    { h := o.h, d := o.d, w64 := false, sgn := false, srcs := [o.a, o.b, o.c]
      val := fun w _ i =>
        let x := rd32 w i o.c ++ rd32 w i o.a
        let p := prmtPlace x (rd32 w i o.b)
        (p 3 ++ p 2 ++ p 1 ++ p 0).zeroExtend 64 }
  | _ => none

/-! ## Votes and path masks that go to a register (03_control R83, R84) -/

/-- The enabled strands whose predicate, negated with NEG, is true (R83). -/
def ballot (w : Wave) (e : BitVec 32) (a : BitVec 3) (neg : Bool) : BitVec 32 :=
  maskOf ((List.range 32).filter fun i => e.getLsbD i && ((w.strand i).pred.getLsbD a.toNat != neg))

/-- `VOTE.ballot` and `PATHS` (R83, R84). -/
def maskOfPath (m : BitVec 32) : Instr → Option DataIns
  | .vote h (.ballot d a neg) => some
    { h := h, d := d, w64 := false, sgn := false, srcs := []
      val := fun w _ _ => (ballot w (w.enabled m h) a neg).zeroExtend 64 }
  | .paths h d live => some
    { h := h, d := d, w64 := false, sgn := false, srcs := []
      val := fun w _ _ => (if live then maskOf ((List.range 32).filter fun i => (w.strand i).live) else m).zeroExtend 64 }
  | _ => none

/-- The strands in which such an instruction has its effect: a ballot writes a uniform register also when no strand is enabled
(R83). -/
def maskSlots (c : Issue) (w : Wave) (o : DataIns) : Instr → BitVec 32
  | .vote h (.ballot d _ _) => if d.s then c.mask else w.enabled c.mask h
  | _ => w.enabled c.mask o.h

/-! ## Floating point and conversions (04_arithmetic R99 to R114, 05_formats R131 to R139) -/

/-- An operation's result in the low bits of a register. -/
def bitsOf (r : FRes) : BitVec 64 := BitVec.ofNat 64 r.1

/-- One floating-point source. -/
def ofFun (rm : Rm) (o : Un) (f : Fmt → FEnv → FVal → FRes) : DataIns :=
  let r := fun (w : Wave) (i : Nat) =>
    f (fmtOf o.t) (w.fenv rm) ((fmtOf o.t).read (w.fenv rm).daz (rdTy o.t w i o.a).toNat)
  { h := o.h, d := o.d, w64 := false, sgn := false, srcs := [o.a]
    val := fun w _ i => bitsOf (r w i), flags := fun w _ i => (r w i).2 }

/-- Two floating-point sources. -/
def ofFun2 (rm : Rm) (o : Bin) (f : Fmt → FEnv → FVal → FVal → FRes) : DataIns :=
  let rd := fun (w : Wave) (i : Nat) (x : Src) => (fmtOf o.t).read (w.fenv rm).daz (rdTy o.t w i x).toNat
  let r := fun (w : Wave) (i : Nat) => f (fmtOf o.t) (w.fenv rm) (rd w i o.a) (rd w i o.b)
  { h := o.h, d := o.d, w64 := false, sgn := false, srcs := [o.a, o.b]
    val := fun w _ i => bitsOf (r w i), flags := fun w _ i => (r w i).2 }

/-- A conversion: the result of the destination's type. -/
def ofConv (o : Conv) (f : FEnv → Wave → Nat → BitVec 64 × BitVec 5) : DataIns :=
  { h := o.h, d := o.d, w64 := is64 o.t, sgn := isSigned o.t, srcs := [o.a]
    val := fun w _ i => (f (w.fenv o.rm) w i).1, flags := fun w _ i => (f (w.fenv o.rm) w i).2 }

/-- The floating-point instructions that write a register (R104, R105, R107 to R110, R114): the operation of the rule on the
values read, rounded once in the instruction's mode; its flags are raised. -/
def floatOf : Instr → Option DataIns
  | .fadd rm o => some (ofFun2 rm o fadd)
  | .fsub rm o => some (ofFun2 rm o fsub)
  | .fmul rm o => some (ofFun2 rm o fmul)
  | .ffma rm o =>
    let rd := fun (w : Wave) (i : Nat) (x : Src) => (fmtOf o.t).read (w.fenv rm).daz (rdTy o.t w i x).toNat
    let r := fun (w : Wave) (i : Nat) => ffma (fmtOf o.t) (w.fenv rm) (rd w i o.a) (rd w i o.b) (rd w i o.c)
    some { h := o.h, d := o.d, w64 := false, sgn := false, srcs := [o.a, o.b, o.c]
           val := fun w _ i => bitsOf (r w i), flags := fun w _ i => (r w i).2 }
  | .fdot2 rm o =>
    let r := fun (w : Wave) (i : Nat) =>
      fdot2 (fmtOf o.t) (w.fenv rm) (rd32 w i o.a).toNat (rd32 w i o.b).toNat
        (fmt32.read (w.fenv rm).daz (rdTy .f32 w i o.c).toNat)
    some { h := o.h, d := o.d, w64 := false, sgn := false, srcs := [o.a, o.b, o.c]
           val := fun w _ i => bitsOf (r w i), flags := fun w _ i => (r w i).2 }
  | .fmin o => some (ofFun2 .dyn o fun m _ a b => fminmax false m a b)
  | .fmax o => some (ofFun2 .dyn o fun m _ a b => fminmax true m a b)
  | .fclass o => some
    { h := o.h, d := o.d, w64 := false, sgn := false, srcs := [o.a]
      val := fun w _ i => BitVec.ofNat 64 (2 ^ fclass (fmtOf o.t) (rdTy o.t w i o.a).toNat) }
  | .frnd rm o => some (ofFun rm o frnd)
  | .frcp rm o => some (ofFun rm o frcp)
  | .frsq rm o => some (ofFun rm o frsq)
  | .fsqrt rm o => some (ofFun rm o fsqrt)
  | .fexp2 rm o => some (ofFun rm o fexp2)
  | .flog2 rm o => some (ofFun rm o flog2)
  | .fsin o => some (ofFun .rz o (ftrig false))
  | .fcos o => some (ofFun .rz o (ftrig true))
  | .fredw op o =>
    let r := fun (w : Wave) (e : BitVec 32) =>
      let leaf := fun i => if e.getLsbD i then ((rdTy .f32 w i o.a).toNat, (0 : BitVec 5)) else (redwId op, 0)
      treeOf (redwCombine op (w.fenv .rn)) (redwId op, 0) ((List.range 32).map leaf)
    some { h := o.h, d := o.d, w64 := false, sgn := false, srcs := [o.a]
           val := fun w e _ => bitsOf (r w e), flags := fun w e _ => (r w e).2 }
  | _ => none

/-- The conversions that write a register (R134 to R139). -/
def convOf : Instr → Option DataIns
  | .cvt o => some (ofConv o fun v w i =>
      let x := readTy o.st v.daz ((rdTy o.st w i o.a).toNat % 2 ^ tyBits o.st)
      let r := if o.t = .e8m0 then toE8m0 x else encodeTy o.t v o.sat x
      (bitsOf r, r.2))
  | .cvtfi o => some (ofConv o fun v w i =>
      let r := toInt o.t v.mode o.sat (readTy o.st v.daz ((rdTy o.st w i o.a).toNat % 2 ^ tyBits o.st))
      let y := BitVec.ofInt (tyBits o.t) r.1
      (if o.d.s then wide o.t y else y.setWidth 64, r.2))
  | .cvtif o => some (ofConv o fun v w i =>
      let r := encodeTy o.t v o.sat (FVal.ofInt (num o.st (low o.st (rdTy o.st w i o.a))))
      (bitsOf r, r.2 &&& (flNX ||| flOF)))
  | .qscale o => some
    { h := o.h, d := o.d, w64 := false, sgn := false, srcs := [o.a]
      val := fun w _ i => BitVec.ofNat 64 (scaleByte o.t (fmt32.read (w.fenv .dyn).daz (rdTy .f32 w i o.a).toNat).abs)
      flags := fun w _ i => if (fmt32.read (w.fenv .dyn).daz (rdTy .f32 w i o.a).toNat).isSig then flNV else 0 }
  | .qrow o =>
    let rd := fun (w : Wave) (i : Nat) (x : Src) => fmt32.read (w.fenv .dyn).daz (rdTy .f32 w i x).toNat
    let r := fun (w : Wave) (i : Nat) => rowEntry o.t (rd w i o.a) (rd w i o.b) (rd32 w i o.c).toNat
    some { h := o.h, d := o.d, w64 := false, sgn := false, srcs := [o.a, o.b, o.c]
           val := fun w _ i => bitsOf (r w i), flags := fun w _ i => (r w i).2 }
  | .qamax h t d a n =>
    let r := fun (w : Wave) (i : Nat) => amax t (w.fenv .dyn).daz (w.strand i) a.toNat n.toNat
    some { h := h, d := { s := false, n := d }, w64 := false, sgn := false, srcs := []
           val := fun w _ i => bitsOf (r w i), flags := fun w _ i => (r w i).2 }
  | _ => none

end Sys2Proof.Claims

/-- R99, R100, R104, R105, R107 to R110, R114: the floating-point instructions that write a register complete on every issue with valid
latches: the operation's correctly rounded result goes to the destination, its flags join the sticky flags, and nothing else changes.
R134 to R139: the conversions, `QAMAX`, `QSCALE` and `QROW` complete on every issue with valid latches, write the value of their rule,
raise its flags and leave everything else. What the rules leave open here is the model's choice: notes/assumptions/9.md,
notes/assumptions/12.md and notes/assumptions/26.md. -/
def Obligations.FloatingPointResults : Prop :=
  (∀ i o, Sys2Proof.Claims.floatOf i = some o → o.Completes i) ∧
  (∀ i o, Sys2Proof.Claims.convOf i = some o → o.Completes i)

/-- R83, R84, R93 to R97: moves, bit fields, selections, address arithmetic, extensions, exchanges between strands, byte
permutations, and the masks of `VOTE.ballot` and `PATHS`, complete on every issue with valid latches, write the result of their
rule and leave everything else. -/
def Obligations.MovesAndMasks : Prop :=
  (∀ i o, Sys2Proof.Claims.moveOf i = some o → o.Completes i) ∧
  (∀ s c w i o, Sys2Proof.Claims.maskOfPath c.mask i = some o → Sys2Proof.Claims.Issuing s c w →
    ∃ w', Sys2Proof.Machine.exec i s = .next (Sys2Proof.Claims.onlyWave s c w') ∧ Sys2Proof.Claims.Retired c w w' ∧
      Sys2Proof.Claims.Wrote o c w (Sys2Proof.Claims.maskSlots c w o i) w')

namespace Sys2Proof.Claims

open Sys2Proof Sys2Proof.Machine

/-! ## Instructions that write a predicate (R36, R83, R94, R98, R106) -/

/-- An instruction that writes predicate `p` of the enabled strands, and may raise flags. -/
structure PredIns where
  h     : Hd
  p     : BitVec 3
  srcs  : List Src
  val   : Wave → BitVec 32 → Nat → Bool
  flags : Wave → Nat → BitVec 5 := fun _ _ => 0

/-- What such an instruction leaves of a strand of the path: only its predicate word, its program counter and, at a window's end,
its latch count differ. -/
structure WrotePred (o : PredIns) (c : Issue) (w : Wave) (e : BitVec 32) (w' : Wave) : Prop where
  others : Others c w w'
  strand : ∀ i, i < 32 → c.mask.getLsbD i = true → w'.strand i =
    { w.strand i with
      pred := (w'.strand i).pred
      pc := c.next
      latN := if c.next.toNat % 32 = 0 then 0 else (w.strand i).latN }
  preds : ∀ i n, i < 32 → c.mask.getLsbD i = true → (w'.strand i).pred.getLsbD n =
    if e.getLsbD i = true ∧ o.p ≠ 0 ∧ n = o.p.toNat then o.val w e i else (w.strand i).pred.getLsbD n
  sregs : w'.s = w.s
  flags : w'.fpflags = w.fpflags ||| (slotsOf e).foldl (fun a i => a ||| o.flags w i) 0

/-- The condition of `ICMP` (R90). -/
def icmpHolds (cc : Icc) (a b : Int) : Bool :=
  match cc with
  | .eq => a = b
  | .ne => a ≠ b
  | .lt => a < b
  | .le => a ≤ b
  | .gt => a > b
  | .ge => a ≥ b

/-- The instructions that write a predicate: comparisons (R94, R106), `PCMB` (R98) and votes (R83). -/
def predOf : Instr → Option PredIns
  | .icmp cc o => some
    { h := o.h, p := o.p, srcs := [o.a, o.b]
      val := fun w _ i => icmpHolds cc (num o.t (low o.t (rdTy o.t w i o.a))) (num o.t (low o.t (rdTy o.t w i o.b))) }
  | .fcmp cc o =>
    let rd := fun (w : Wave) (i : Nat) (x : Src) => (fmtOf o.t).read (w.fenv .dyn).daz (rdTy o.t w i x).toNat
    some { h := o.h, p := o.p, srcs := [o.a, o.b], val := fun w _ i => (fcmp cc (rd w i o.a) (rd w i o.b)).1
           flags := fun w i => (fcmp cc (rd w i o.a) (rd w i o.b)).2 }
  | .pcmb h lut d a b => some
    { h := h, p := d, srcs := []
      val := fun w _ i =>
        let x := (w.strand i).pred.getLsbD a.toNat
        let y := (w.strand i).pred.getLsbD b.toNat
        lut.getLsbD ((if x then 2 else 0) + (if y then 1 else 0)) }
  | .vote h (.any d a neg) => some { h := h, p := d, srcs := [], val := fun w e _ => ballot w e a neg != 0 }
  | .vote h (.all d a neg) => some { h := h, p := d, srcs := [], val := fun w e _ => ballot w e a neg == e }
  | .vote h (.eq d a w64) => some
    { h := h, p := d, srcs := [a]
      val := fun w e _ =>
        let val := fun i => if w64 then rd64 w i a else (rd32 w i a).zeroExtend 64
        (slotsOf e).all fun i => (slotsOf e).all fun j => val i == val j }
  | _ => none

/-! ## Instructions that write a run of window registers (04_arithmetic R111 to R113, 05_formats R140 to R145) -/

/-- An instruction that writes the registers from `d` on of the enabled strands. -/
structure RunIns where
  h     : Hd
  srcs  : List Src
  d     : Nat
  regs  : State → Wave → Nat → List (BitVec 32)
  flags : State → Wave → Nat → BitVec 5 := fun _ _ _ => 0
  /-- The operands of a strand on which the instruction does not trap. -/
  ok    : State → Wave → Nat → Prop := fun _ _ _ => True

/-- What such an instruction leaves of a strand of the path: only its window registers from `d` on, its program counter and, at a
window's end, its latch count differ. -/
structure WroteRun (o : RunIns) (s : State) (c : Issue) (w : Wave) (e : BitVec 32) (w' : Wave) : Prop where
  others : Others c w w'
  strand : ∀ i, i < 32 → c.mask.getLsbD i = true → w'.strand i =
    { w.strand i with
      v := (w'.strand i).v
      pc := c.next
      latN := if c.next.toNat % 32 = 0 then 0 else (w.strand i).latN }
  vregs : ∀ i n, i < 32 → c.mask.getLsbD i = true → (w'.strand i).v32 n =
    if e.getLsbD i = true ∧ o.d ≤ n ∧ n < o.d + (o.regs s w i).length then (o.regs s w i).getD (n - o.d) 0
    else (w.strand i).v32 n
  sregs : w'.s = w.s
  flags : w'.fpflags = w.fpflags ||| (slotsOf e).foldl (fun a i => a ||| o.flags s w i) 0

/-- The words of a byte image, little-endian. -/
def imageWords (b : List Nat) : List (BitVec 32) :=
  (List.range 16).map fun k =>
    BitVec.ofNat 32 (b.getD (4 * k) 0 + b.getD (4 * k + 1) 0 * 2 ^ 8 + b.getD (4 * k + 2) 0 * 2 ^ 16 + b.getD (4 * k + 3) 0 * 2 ^ 24)

/-- Three registers of a triple. -/
def tripleWords (x : Nat × Nat × Nat) : List (BitVec 32) := [BitVec.ofNat 32 x.1, BitVec.ofNat 32 x.2.1, BitVec.ofNat 32 x.2.2]

/-- The flags of several results. -/
def allFlags (l : List FRes) : BitVec 5 := l.foldl (fun f x => f ||| x.2) 0

/-- Codes packed into words, low code first (R143). -/
def codeWords (bits : Nat) (codes : List Nat) : List (BitVec 32) :=
  (List.range (codes.length / (32 / bits))).map fun k => BitVec.ofNat 32
    ((List.range (32 / bits)).foldl (fun n j => n + codes.getD (32 / bits * k + j) 0 * 2 ^ (bits * j)) 0)

/-- The values that `QUNPACK` gives of a block image (R144). -/
def unpacked (v : FEnv) (t : Ty) (grp : Nat) (img : List Nat) (sh : Option Nat) : List FRes :=
  (List.range 24).map fun k => unpackVal v (blockValue t sh img (24 * grp + k))

/-- `QUNPACK.rows` (R144): the scales of the codes from vA on, with the entry's tag equal to the row number. -/
def unpackedRows (v : FEnv) (t : Ty) (entry : Nat) (st : Strand) (a : Nat) : List FRes :=
  (List.range 24).map fun k =>
    if (rowScale entry).isNone then (fmt32.nan, flNV)
    else unpackVal v (rowValue t entry (st.codeAt a (rowBits t) k))

/-- Registers of results. -/
def resWords (l : List FRes) : List (BitVec 32) := l.map fun x => BitVec.ofNat 32 x.1

/-- The run that an instruction of the run shape writes: the Welford steps and merges (R112, R113), block headers (R141), packing
(R142, R143), unpacking with its format checks passed (R144), an escape that has room (R145). -/
def runOf : Instr → Option RunIns
  | .fwelf h d a x =>
    let r := fun (w : Wave) (i : Nat) =>
      let st := w.strand i
      let t := ((st.v32 a.toNat).toNat, (st.v32 (a.toNat + 1)).toNat, (st.v32 (a.toNat + 2)).toNat)
      welfStep (w.fenv .rn) t (rdTy .f32 w i x).toNat
    some { h := h, srcs := [x], d := d.toNat, regs := fun _ w i => tripleWords (r w i).1, flags := fun _ w i => (r w i).2 }
  | .fwmerge h d a b =>
    let tr := fun (w : Wave) (i : Nat) (n : Nat) =>
      (((w.strand i).v32 n).toNat, ((w.strand i).v32 (n + 1)).toNat, ((w.strand i).v32 (n + 2)).toNat)
    let r := fun (w : Wave) (i : Nat) => welfMerge (w.fenv .rn) (tr w i a.toNat) (match b with
      | .imm32 y => (0x3F800000, y.toNat, 0)
      | .v n => tr w i n.toNat
      | _ => (0, 0, 0))
    some { h := h, srcs := [], d := d.toNat, regs := fun _ w i => tripleWords (r w i).1, flags := fun _ w i => (r w i).2 }
  | .qhdr h d o =>
    some { h := h, srcs := match o with | .hdr _ a => [a] | .zero _ => []
           d := d.toNat
           regs := fun _ w i => imageWords (qhdrImage o ((w.strand i).image d.toNat)
             (match o with | .hdr _ a => (rd32 w i a).toNat | .zero _ => 0)) }
  | .qpack h rm sat t grp d a =>
    let r := fun (w : Wave) (i : Nat) =>
      packGroup t (w.fenv rm) sat grp.toNat ((w.strand i).image d.toNat)
        ((List.range 24).map fun k => fmt32.read (w.fenv rm).daz ((w.strand i).v32 (a.toNat + k)).toNat)
    some { h := h, srcs := [], d := d.toNat, regs := fun _ w i => imageWords (r w i).1, flags := fun _ w i => (r w i).2 }
  | .qpackRows h rm t d a e =>
    let r := fun (w : Wave) (i : Nat) => (List.range 24).map fun k =>
      rowPack t (w.fenv rm).mode (rd32 w i e).toNat (fmt32.read (w.fenv rm).daz ((w.strand i).v32 (a.toNat + k)).toNat)
    some { h := h, srcs := [e], d := d.toNat, regs := fun _ w i => codeWords (rowBits t) ((r w i).map (·.1))
           flags := fun _ w i => allFlags (r w i) }
  | .qunpack h t grp d a =>
    let v := fun (w : Wave) => w.fenv .rn
    let chk := fun (s : State) (w : Wave) (i : Nat) =>
      checkBlock t ((s.ctxD (s.ctxOf w.wg)).fmtchk.getLsbD 0) ((w.strand i).image a.toNat)
    let r := fun (s : State) (w : Wave) (i : Nat) => match chk s w i with
      | .ok sh => unpacked (v w) t grp.toNat ((w.strand i).image a.toNat) sh
      | .error _ => []
    some { h := h, srcs := [], d := d.toNat, regs := fun s w i => resWords (r s w i), flags := fun s w i => allFlags (r s w i)
           ok := fun s w i => ∃ sh, chk s w i = .ok sh }
  | .qunpackRows h t d a e row =>
    let r := fun (w : Wave) (i : Nat) => unpackedRows (w.fenv .rn) t (rd32 w i e).toNat (w.strand i) a.toNat
    some { h := h, srcs := [e, row], d := d.toNat, regs := fun _ w i => resWords (r w i), flags := fun _ w i => allFlags (r w i)
           ok := fun _ w i => (rd32 w i e).extractLsb' 24 8 = (rd32 w i row).extractLsb' 0 8 }
  | .qesc h t d a b =>
    let o := fun (w : Wave) (i : Nat) => encodeWide fmtB (w.fenv .rn) false (fmt32.read (w.fenv .rn).daz (rdTy .f32 w i b).toNat)
    let r := fun (w : Wave) (i : Nat) => qescImage t ((w.strand i).image d.toNat) (rd32 w i a).toNat (o w i).1
    some { h := h, srcs := [a, b], d := d.toNat
           regs := fun _ w i => match r w i with | .ok img => imageWords img | .error _ => []
           flags := fun _ w i => (o w i).2
           ok := fun _ w i => ∃ img, r w i = .ok img }
  | _ => none

end Sys2Proof.Claims

/-- R36, R83, R94, R98, R106: the comparisons, `PCMB` and the votes complete on every issue with valid latches, write their predicate in
the enabled strands (a write to p0 is discarded), raise the flags of `FCMP`, and change nothing else. R111 to R113, R140 to R145:
`FWELF`, `FWMERGE`, `QHDR`, `QPACK`, `QUNPACK` and their `.rows` forms and `QESC` complete on every issue with valid latches whose
enabled strands pass the format checks of the rule, write their run of window registers in the enabled strands, and change nothing else.
What the rules leave open here is the model's choice: notes/assumptions/12.md and notes/assumptions/26.md. -/
def Obligations.PredicatesAndRuns : Prop :=
  (∀ i o, Sys2Proof.Claims.predOf i = some o → ∀ s c w, Sys2Proof.Claims.Issuing s c w →
    Sys2Proof.Machine.latchOk w c.mask o.srcs = true →
    ∃ w', Sys2Proof.Machine.exec i s = .next (Sys2Proof.Claims.onlyWave s c w') ∧ Sys2Proof.Claims.Retired c w w' ∧
      Sys2Proof.Claims.WrotePred o c w (w.enabled c.mask o.h) w') ∧
  (∀ i o, Sys2Proof.Claims.runOf i = some o → ∀ s c w, Sys2Proof.Claims.Issuing s c w →
    Sys2Proof.Machine.latchOk w c.mask o.srcs = true →
    (∀ j, (w.enabled c.mask o.h).getLsbD j = true → o.ok s w j) →
    ∃ w', Sys2Proof.Machine.exec i s = .next (Sys2Proof.Claims.onlyWave s c w') ∧ Sys2Proof.Claims.Retired c w w' ∧
      Sys2Proof.Claims.WroteRun o s c w (w.enabled c.mask o.h) w')

namespace Sys2Proof.Claims

open Sys2Proof Sys2Proof.Machine

/-! ## Control transfers (03_control R54, R76 to R78) -/

/-- A transfer: the target of a strand, which strands take it, the instruction's result, where it has one, and what becomes
of the return predictor. -/
structure TransferIns where
  h      : Hd
  srcs   : List Src := []
  target : Issue → Wave → Nat → BitVec 64
  taken  : Issue → Wave → Nat → Bool := fun _ _ _ => true
  link   : Option (Issue → DataIns) := none
  rpred  : Issue → List (BitVec 64) → List (BitVec 64) := fun _ l => l

/-- The target of a relative transfer: the word's own address and the offset, by sign (R77). -/
def nearTarget (c : Issue) (off : BitVec 32) : BitVec 64 := BitVec.ofInt 64 ((c.pc.toNat : Int) + off.toInt)

/-- The transfers of R77 and R78. -/
def transferOf : Instr → Option TransferIns
  | .bra h off => some { h := h, target := fun c _ _ => nearTarget c off }
  | .brx h a => some { h := h, srcs := [a], target := fun _ w i => rd64 w i a }
  | .ret h a => some { h := h, srcs := [a], target := fun _ w i => rd64 w i a, rpred := fun _ l => l.drop 1 }
  | .call h d off => some
    { h := h, target := fun c _ _ => nearTarget c off, rpred := fun c l => (c.next :: l).take 8
      link := some fun c => { h := h, d := d, w64 := true, sgn := false, srcs := [], val := fun _ _ _ => c.next } }
  | .loop h d off =>
    let count := fun (w : Wave) (i : Nat) =>
      (if d.s then (w.sreg d.n.toNat).setWidth 32 else (w.strand i).v32 d.n.toNat) - (1 : BitVec 32)
    some { h := h, target := fun c _ _ => nearTarget c off, taken := fun _ w i => count w i != 0
           link := some fun _ => { h := { h with nwb := false }, d := d, w64 := false, sgn := false, srcs := []
                                   val := fun w _ i => (count w i).setWidth 64 } }
  | _ => none

/-- An address that a transfer may go to (R76): a word boundary that is not the last word of a window, below 2^56. -/
def targetOk (t : BitVec 64) : Prop := t.toNat % 4 = 0 ∧ t.toNat % 32 ≠ 28 ∧ t.toNat < 2 ^ 56

/-- The trap of a transfer of strand `i` to a bad target (R76). -/
def targetTrap (i : Nat) (t : BitVec 64) : Trap :=
  if t.toNat % 4 ≠ 0 then { cause := .misaligned }
  else if t.toNat % 32 = 28 then { cause := .straddle }
  else { cause := .translation, addr := t, info := BitVec.ofNat 64 (0x200 + i) }

/-- Where a strand of the path continues (R54, R57, R77, R78). -/
def TransferIns.pcOf (o : TransferIns) (c : Issue) (w : Wave) (i : Nat) : BitVec 64 :=
  if (w.enabled c.mask o.h).getLsbD i = true ∧ o.taken c w i = true then o.target c w i else c.next

/-- Live strands of the path that continue at an address. -/
def TransferIns.at (o : TransferIns) (c : Issue) (w : Wave) (a : BitVec 64) : BitVec 32 :=
  maskOf ((List.range 32).filter fun i => c.mask.getLsbD i && (w.strand i).live && (o.pcOf c w i == a))

/-- What a transfer leaves of the wave (R54, R39): every strand of the path stands at its address, its latches ended if it
jumped; the path keeps the strands that go on at the fall-through, or those of its lowest strand when none does; the strands
of every other address form a path of their own, appended. -/
structure Transferred (o : TransferIns) (c : Issue) (w w' : Wave) : Prop where
  frame : w' = { w with
    strands := w'.strands, s := w'.s, paths := w'.paths, nextBorn := w'.nextBorn, icount := w.icount + 1, roundN := w.roundN + 1
    rpred := if w.enabled c.mask o.h = 0 then w.rpred else o.rpred c w.rpred }
  others : ∀ i, ¬(i < 32 ∧ c.mask.getLsbD i = true) → w'.strand i = match o.link with
    | none => w.strand i
    | some l => (l c).beside w i
  strand : ∀ i, i < 32 → c.mask.getLsbD i = true → w'.strand i =
    let st := match o.link with
      | none => w.strand i
      | some l => { w.strand i with
          v := (w'.strand i).v, l0 := (l c).latch w (w.enabled c.mask o.h) i
          l1 := (w.strand i).l0, l2 := (w.strand i).l1, l3 := (w.strand i).l2, latN := min 4 ((w.strand i).latN + 1)
          pushes := (w.strand i).pushes + 1 }
    let jumps := (w.enabled c.mask o.h).getLsbD i && o.taken c w i
    { st with pc := o.pcOf c w i, latN := if jumps || c.next.toNat % 32 == 0 then 0 else st.latN }
  vregs : ∀ i n, i < 32 → c.mask.getLsbD i = true → (w'.strand i).v32 n = match o.link with
    | none => (w.strand i).v32 n
    | some l => (l c).vreg w (w.enabled c.mask o.h) i n
  sregs : ∀ n, w'.sreg n = match o.link with
    | none => w.sreg n
    | some l => (l c).sreg w (w.enabled c.mask o.h) n
  paths : ∃ keep fresh,
    (if o.at c w c.next = 0 then ∃ i, i < 32 ∧ c.mask.getLsbD i = true ∧ (w.strand i).live = true ∧ keep = o.pcOf c w i ∧
        ∀ j, j < i → c.mask.getLsbD j = true → (w.strand j).live = false
     else keep = c.next) ∧
    w'.paths = (w.paths.map fun p =>
      if p.born == c.path then { p with mask := o.at c w keep, wait := .none, edge := if keep = c.next then edgeTo c.next else .window, turn := p.turn + 1 } else p) ++ fresh ∧
    w'.nextBorn = w.nextBorn + fresh.length ∧
    fresh.map (fun p => p.born) = List.range' w.nextBorn fresh.length ∧
    (∀ p ∈ fresh, ∃ a, a ≠ keep ∧ p.mask = o.at c w a ∧ p.mask ≠ 0) ∧
    (∀ a, a ≠ keep → o.at c w a ≠ 0 → ∃ p ∈ fresh, p.mask = o.at c w a) ∧
    fresh.Pairwise fun p q => p.mask ≠ q.mask

/-! ## Instructions that change no register -/

/-- What an instruction without a result leaves of the wave: its strands go on, the latches end with the window. -/
def Passed (c : Issue) (w w' : Wave) : Prop :=
  Retired c w w' ∧ Others c w w' ∧ w'.s = w.s ∧ w'.fpflags = w.fpflags ∧
  ∀ i, i < 32 → c.mask.getLsbD i = true → w'.strand i =
    { w.strand i with pc := c.next, latN := if c.next.toNat % 32 = 0 then 0 else (w.strand i).latN }

end Sys2Proof.Claims

/-- R54, R57, R76 to R78: the control transfers complete whenever every enabled strand's target is a legal one: each strand of
the path continues where the rule says, `CALL` and `LOOP` write their link or counter, paths divide by address, and nothing else
changes. R76: a transfer whose lowest failing enabled strand names a target that is not a word boundary, is the last word of a
window or lies at or above 2^56 traps, precisely, with the cause of the first of these that holds. -/
def Obligations.ControlTransfersGoOn : Prop :=
  (∀ i o, Sys2Proof.Claims.transferOf i = some o → ∀ s c w, Sys2Proof.Claims.Issuing s c w →
    Sys2Proof.Machine.latchOk w c.mask o.srcs = true →
    (∃ j, j < 32 ∧ c.mask.getLsbD j = true ∧ (w.strand j).live = true) →
    (∀ j, (w.enabled c.mask o.h).getLsbD j = true → Sys2Proof.Claims.targetOk (o.target c w j)) →
    ∃ w', Sys2Proof.Machine.exec i s = .next (Sys2Proof.Claims.onlyWave s c w') ∧ Sys2Proof.Claims.Transferred o c w w') ∧
  (∀ i o, Sys2Proof.Claims.transferOf i = some o → ∀ s c w, Sys2Proof.Claims.Issuing s c w →
    Sys2Proof.Machine.latchOk w c.mask o.srcs = true → ∀ j, (w.enabled c.mask o.h).getLsbD j = true →
    ¬Sys2Proof.Claims.targetOk (o.target c w j) →
    (∀ k, k < j → (w.enabled c.mask o.h).getLsbD k = true → Sys2Proof.Claims.targetOk (o.target c w k)) →
    Sys2Proof.Machine.exec i s =
      .next { s.takeTrap c (Sys2Proof.Claims.targetTrap j (o.target c w j)) .precise with cur := none, tick := s.tick + 1 })

namespace Sys2Proof.Claims

open Sys2Proof Sys2Proof.Machine

/-! ## Forks and ends of strands (03_control R56, R70, R79, R80) -/

/-- The number of a strand's `SFORK` since its region start (R79). -/
def forkNo (w : Wave) (i : Nat) : Nat := (w.strand i).fc + 1

/-- The enabled strands that create a child if a slot is free: those whose fork is not in their log (R79). -/
def creators (w : Wave) (e : BitVec 32) : List Nat := (slotsOf e).filter fun i => (w.strand i).ckr.fcount < forkNo w i

/-- The slots that are free, ascending. -/
def freeSlots (w : Wave) : List Nat := (List.range 32).filter fun j => !(w.strand j).live

/-- The slot that a strand makes live (R79): in slot order, each creator takes the lowest that is still free. -/
def forkSlot (w : Wave) (e : BitVec 32) (i : Nat) : Option Nat :=
  if i ∈ creators w e then (freeSlots w)[(creators w e).idxOf i]? else none

/-- The result byte of a strand's fork (R79): from the log, else the slot, else 0xFF. -/
def forkByte (w : Wave) (e : BitVec 32) (i : Nat) : BitVec 8 :=
  if forkNo w i ≤ (w.strand i).ckr.fcount then (w.strand i).ckr.log.getD (w.strand i).fc 0xFF
  else match forkSlot w e i with
    | some j => BitVec.ofNat 8 j
    | none => 0xFF

/-- `SFORK` as an instruction that writes DST and a latch (R79): 0xFFFFFFFF where no slot was free. -/
def forkIns (h : Hd) (d : Dst) (a b : Src) : DataIns :=
  { h := h, d := d, w64 := false, sgn := false, srcs := [a, b]
    val := fun w e i => if forkByte w e i = 0xFF then 0xFFFFFFFF else (forkByte w e i).setWidth 64 }

/-- A strand's record after its fork (R79): the first four of a region are logged. -/
def forkRec (w : Wave) (e : BitVec 32) (i : Nat) : StrandRec :=
  let r := (w.strand i).ckr
  if r.fcount < forkNo w i ∧ forkNo w i ≤ 4 then
    { r with log := padTo (w.strand i).fc 0xFF r.log ++ [forkByte w e i], fcount := forkNo w i }
  else r

/-- What `SFORK` leaves of the wave (R79, R70): `att`: inside an attempt. -/
structure Forked (att : Bool) (h : Hd) (d : Dst) (a b : Src) (c : Issue) (w w' : Wave) : Prop where
  frame : w' = { w with
    strands := w'.strands, paths := w'.paths, nextBorn := w'.nextBorn, icount := w.icount + 1, roundN := w.roundN + 1 }
  strand : ∀ i, i < 32 → c.mask.getLsbD i = true → w'.strand i =
    let on := (w.enabled c.mask h).getLsbD i
    { w.strand i with
      v := (w'.strand i).v
      pc := c.next
      l0 := (forkIns h d a b).latch w (w.enabled c.mask h) i
      l1 := (w.strand i).l0, l2 := (w.strand i).l1, l3 := (w.strand i).l2
      latN := if c.next.toNat % 32 = 0 then 0 else min 4 ((w.strand i).latN + 1)
      pushes := (w.strand i).pushes + 1
      fc := if on then forkNo w i else (w.strand i).fc
      ckr := if on then forkRec w (w.enabled c.mask h) i else (w.strand i).ckr
      defer := (w.strand i).defer || (on && !att && (w.strand i).ckr.fcount < forkNo w i && 4 < forkNo w i) }
  vregs : ∀ i n, i < 32 → c.mask.getLsbD i = true →
    (w'.strand i).v32 n = (forkIns h d a b).vreg w (w.enabled c.mask h) i n
  child : ∀ i j, forkSlot w (w.enabled c.mask h) i = some j →
    w'.strand j = { w'.strand j with
      live := true, pc := rd64 w i b, pred := 1, latN := 0, defer := false, fc := 0
      ckr := { start := rd64 w i b, fcount := 0, pred := 1, vvalid := 1, log := [], v := [(0, rd32 w i a)] } } ∧
    ∀ n, (w'.strand j).v32 n = if n = 0 then rd32 w i a else (w.strand j).v32 n
  beside : ∀ i, ¬(i < 32 ∧ c.mask.getLsbD i = true) → (∀ k, forkSlot w (w.enabled c.mask h) k ≠ some i) →
    w'.strand i = (forkIns h d a b).beside w i
  paths : ∃ fresh,
    w'.paths = w.paths.map (wentOn c) ++ fresh ∧
    w'.nextBorn = w.nextBorn + fresh.length ∧
    fresh.map (fun p => p.born) = List.range' w.nextBorn fresh.length ∧
    (∀ p ∈ fresh, p = { born := p.born, mask := p.mask } ∧ p.mask ≠ 0 ∧ ∃ t, ∀ j, j < 32 →
      (p.mask.getLsbD j = true ↔ ∃ i, forkSlot w (w.enabled c.mask h) i = some j ∧ rd64 w i b = t)) ∧
    (∀ i j, forkSlot w (w.enabled c.mask h) i = some j → ∃ p ∈ fresh, p.mask.getLsbD j = true) ∧
    fresh.Pairwise fun p q => p.mask ≠ q.mask

/-- What the end of a wave leaves (R56, R80): it has no live strand, its registers keep their contents, and what it waited for is
withdrawn; memory is unchanged. Where no wave of its core waits for registers and no named barrier is in use, what it had
issued goes on, and every other wave is unchanged. -/
structure Ended (s : State) (c : Issue) (w : Wave) (t : State) : Prop where
  st : (t.waveD c.wave).st = .ended
  dead : ∀ i, ((t.waveD c.wave).strand i).live = false
  vregs : ∀ i n, ((t.waveD c.wave).strand i).v32 n = (w.strand i).v32 n
  sregs : (t.waveD c.wave).s = w.s
  paths : (t.waveD c.wave).paths = []
  loads : ∀ k l, t.loads.get? k = some l → l.wave ≠ c.wave
  waiters : ∀ k x, t.waiters.get? k = some x → x.wave ≠ c.wave
  mem : t.mem = s.mem
  rest : s.claims.getD (s.wgD w.wg).core [] = [] → (s.wgD w.wg).bars = [] →
    t.reqs = s.reqs ∧ t.copies = s.copies ∧ t.xfers = s.xfers ∧ t.ctxs = s.ctxs ∧ t.grids = s.grids ∧ t.deps = s.deps ∧
    t.hub = s.hub ∧ ∀ u, u ≠ c.wave → t.waves.get? u = s.waves.get? u

/-- What `SEXIT` leaves of a wave of which a strand stays live (R80, R54, R57): the enabled strands are not live, and the path keeps the
others, or goes when there are none. -/
structure Thinned (c : Issue) (w : Wave) (e : BitVec 32) (w' : Wave) : Prop where
  frame : w' = { w with
    strands := w'.strands, paths := w'.paths, turnOf := w'.turnOf, turnOver := w'.turnOver, icount := w.icount + 1
    roundN := w.roundN + 1 }
  others : Others c w w'
  strand : ∀ i, i < 32 → c.mask.getLsbD i = true → w'.strand i =
    { w.strand i with
      pc := c.next, latN := if c.next.toNat % 32 = 0 then 0 else (w.strand i).latN
      live := (w.strand i).live && !e.getLsbD i, defer := (w.strand i).defer && !e.getLsbD i }
  stays : c.mask &&& ~~~e ≠ 0 → w'.turnOf = w.turnOf ∧ w'.turnOver = w.turnOver ∧
    w'.paths = w.paths.map fun p => if p.born == c.path then { wentOn c p with mask := c.mask &&& ~~~e } else p
  goes : c.mask &&& ~~~e = 0 → w'.paths = w.paths.filter fun p => p.born != c.path

end Sys2Proof.Claims

/-- R79, R70, R39: `SFORK` whose enabled strands name legal targets completes: each enabled strand counts its fork, writes to DST and
its latch the logged result, or the slot that it makes live, or 0xFFFFFFFF, and logs it (the fifth and later forks of a region
defer pre-emption); each slot made live starts at the target with p0 and its v0 set, its other registers unchanged and its latches
invalid, and the children form paths by target at the end of the path order; nothing else changes. -/
def Obligations.ForksComplete : Prop :=
  ∀ s c w h d a b, Sys2Proof.Claims.Issuing s c w → Sys2Proof.Machine.latchOk w c.mask [a, b] = true → d.s = false →
    (∀ j, j < 32 → c.mask.getLsbD j = true → (w.strand j).live = true) →
    (∀ j, (w.enabled c.mask h).getLsbD j = true → Sys2Proof.Claims.targetOk (Sys2Proof.Machine.rd64 w j b)) →
    ∃ w', Sys2Proof.Machine.exec (.sfork h d a b) s = .next (Sys2Proof.Claims.onlyWave s c w') ∧
      Sys2Proof.Claims.Forked (s.inAttempt w) h d a b c w w'

/-- R56, R80: `SEXIT` completes: the enabled strands are not live, keep their registers and leave their path, and where every live
strand is enabled the wave ends; `WEXIT` with an enabled strand ends the wave, and with none it only retires. Where a strand stays
live and no named barrier of the workgroup is in use, only the issuing wave changes. -/
def Obligations.StrandsEnd : Prop :=
  (∀ s c w h, Sys2Proof.Claims.Issuing s c w → w.st = .running →
    (∀ j, j < 32 → c.mask.getLsbD j = true → (w.strand j).live = true) →
    (∃ i, i < 32 ∧ (w.strand i).live = true ∧ (w.enabled c.mask h).getLsbD i = false) → (s.wgD w.wg).bars = [] →
    ∃ w', Sys2Proof.Machine.exec (.sexit h) s = .next (Sys2Proof.Claims.onlyWave s c w') ∧
      Sys2Proof.Claims.Thinned c w (w.enabled c.mask h) w') ∧
  (∀ s c w h, Sys2Proof.Claims.Issuing s c w → w.st = .running → ∃ t, Sys2Proof.Machine.exec (.sexit h) s = .next t ∧
    t.mem = s.mem ∧ (t.waveD c.wave).s = w.s ∧
    (∀ i n, ((t.waveD c.wave).strand i).v32 n = (w.strand i).v32 n) ∧
    (∀ i, (w.enabled c.mask h).getLsbD i = true → ((t.waveD c.wave).strand i).live = false)) ∧
  (∀ s c w h, Sys2Proof.Claims.Issuing s c w → w.st = .running →
    (∀ i, i < 32 → (w.strand i).live = true → (w.enabled c.mask h).getLsbD i = true) →
    ∃ t, Sys2Proof.Machine.exec (.sexit h) s = .next t ∧ Sys2Proof.Claims.Ended s c w t) ∧
  (∀ s c w h, Sys2Proof.Claims.Issuing s c w → w.st = .running → w.enabled c.mask h ≠ 0 →
    ∃ t, Sys2Proof.Machine.exec (.wexit h) s = .next t ∧ Sys2Proof.Claims.Ended s c w t) ∧
  (∀ s c w h, Sys2Proof.Claims.Issuing s c w → w.enabled c.mask h = 0 → ∃ w',
    Sys2Proof.Machine.exec (.wexit h) s = .next (Sys2Proof.Claims.onlyWave s c w') ∧ Sys2Proof.Claims.Passed c w w')

/-- R81, R70, R263, R388: `IDEM` outside an attempt, with no deferred engine fault, records every strand of its path (its start
address, predicate word and the window registers of the mask) and the wave's uniform registers, and ends the deferral of the
strands of its path; inside an attempt it saves nothing and ends none. R243: with a deferred engine fault it takes that fault. R39,
R57, R60, R75, R82: `NOP` retires and changes nothing else. `YIELD` with an enabled strand retires, ends latch validity, and its
path's turn is over; with none it retires and changes nothing else. -/
def Obligations.IdemYieldAndNop : Prop :=
  (∀ s c w vm sm, Sys2Proof.Claims.Issuing s c w → w.dfault = none → s.inAttempt w = false → ∃ w',
    Sys2Proof.Machine.exec (.idem vm sm) s = .next (Sys2Proof.Claims.onlyWave s c w') ∧
      (∀ i, w'.strand i = if i < 32 ∧ c.mask.getLsbD i = true then
          { w.strand i with
            pc := c.next, latN := if c.next.toNat % 32 = 0 then 0 else (w.strand i).latN, fc := 0, defer := false
            ckr := { start := c.next, fcount := 0, pred := (w.strand i).pred, vvalid := vm, log := []
                     v := ((List.range 16).filter fun b => vm.getLsbD b).map fun b => (b, (w.strand i).v32 b) } }
        else w.strand i) ∧
      (w'.ck.icount = w.icount + 1 ∧ w'.ck.mask = w.liveMask ∧ w'.ck.svalid = w.ck.svalid ||| sm ∧
        w'.ck.fp = (w.fpctl.setWidth 16 ||| (w.fpflags.setWidth 16 <<< 4)) ∧
        ∀ n, n < 16 → w'.ck.s.getD n 0 = if sm.getLsbD n then w.sreg n else w.ck.s.getD n 0) ∧
      w'.ckAll = (c.mask == w.liveMask) ∧
      w' = { w with
        strands := w'.strands, ck := w'.ck, ckAll := w'.ckAll, icount := w.icount + 1, roundN := w.roundN + 1
        owed := w.owed && ((s.slotOf w c.wave).isSome || w.win != w.win0)
        paths := w.paths.map (Sys2Proof.Claims.wentOn c) }) ∧
  (∀ s c w vm sm, Sys2Proof.Claims.Issuing s c w → w.dfault = none → s.inAttempt w = true → ∃ w',
    Sys2Proof.Machine.exec (.idem vm sm) s = .next (Sys2Proof.Claims.onlyWave s c w') ∧ Sys2Proof.Claims.Passed c w w') ∧
  (∀ s c w vm sm f, Sys2Proof.Claims.Issuing s c w → w.dfault = some f →
    Sys2Proof.Machine.exec (.idem vm sm) s = .next { s.takeDeferred c f with cur := none, tick := (s.takeDeferred c f).tick + 1 }) ∧
  (∀ s c w h, Sys2Proof.Claims.Issuing s c w → ∃ w',
    Sys2Proof.Machine.exec (.nop h) s = .next (Sys2Proof.Claims.onlyWave s c w') ∧ Sys2Proof.Claims.Passed c w w') ∧
  (∀ s c w h, Sys2Proof.Claims.Issuing s c w → w.enabled c.mask h = 0 → ∃ w',
    Sys2Proof.Machine.exec (.yield h) s = .next (Sys2Proof.Claims.onlyWave s c w') ∧ Sys2Proof.Claims.Passed c w w') ∧
  (∀ s c w h, Sys2Proof.Claims.Issuing s c w → w.enabled c.mask h ≠ 0 → ∃ w',
    Sys2Proof.Machine.exec (.yield h) s = .next (Sys2Proof.Claims.onlyWave s c w') ∧
    w' = { w with
      strands := w'.strands
      paths := w.paths.map fun p => if p.born == c.path then
        { p with wait := .none, edge := Sys2Proof.Claims.edgePast c.next, turn := p.turn + 1 } else p
      icount := w.icount + 1, roundN := w.roundN + 1, turnOver := true } ∧
    ∀ i, w'.strand i = if i < 32 ∧ c.mask.getLsbD i = true then { w.strand i with pc := c.next, latN := 0 } else w.strand i)

namespace Sys2Proof.Claims

open Sys2Proof Sys2Proof.Machine

/-! ## Loads and stores (06_memory R44, R148, R164 to R172) -/

/-- The effective address of a strand (R44, R148): base, index by sign and scale, and offset by sign, modulo 2^64. -/
def effective (w : Wave) (i : Nat) (scale : BitVec 2) (a c : Src) (off : Option (BitVec 32)) : BitVec 64 :=
  BitVec.ofInt 64 (((rd64 w i a).toNat : Int) + (rd32 w i c).toInt * 2 ^ scale.toNat + (off.getD 0).toInt)

/-- A load or a store of global memory: the bytes of one access, the accesses of a strand in order (none: a hole), whether one
strand's serve them all, and the data of a store. -/
structure AccessIns where
  h       : Hd
  srcs    : List Src
  n       : Nat
  elems   : State → Wave → Nat → List (Option (BitVec 64))
  uniform : Bool := false
  dst     : Dst
  /-- A load of one register or pair, of 64 bits when true: it shifts the latches (R38). -/
  latch   : Option Bool := none
  data    : Wave → Nat → Nat → List (BitVec 8) := fun _ _ _ => []
  /-- A release, at .cl scope or wider when true (R169). -/
  release : Option Bool := none

/-- The elements of a gather or a scatter (R171): index 0x80000000 makes a hole. -/
def gathered (m : Gath) (w : Wave) (i : Nat) : List (Option (BitVec 64)) :=
  (List.range (m.n1.toNat + 1)).map fun k =>
    let x := (w.strand i).v32 (m.c.toNat + k)
    if x = 0x80000000 then none
    else some (BitVec.ofInt 64 (((rd64 w i m.a).toNat : Int) + x.toInt * 2 ^ m.scale.toNat + (m.off.getD 0).toInt))

/-- A load of one access per strand (R168). -/
def plainLoad (m : Mem) (u : Bool) (srcs : List Src) (ea : State → Wave → Nat → BitVec 64) : AccessIns :=
  { h := m.h, srcs := srcs, n := memBytes m.m, elems := fun s w i => [some (ea s w i)], uniform := u, dst := m.d
    latch := m.m.w64? }

/-- The loads (R168, R171). -/
def loadOf : Instr → Option AccessIns
  | .ld m => some (plainLoad m m.d.s [m.a, m.c] fun _ w i => effective w i m.scale m.a m.c m.off)
  | .ldu m => some (plainLoad m true [] fun _ w i => effective w i m.scale m.a m.c m.off)
  | .ldk m => some (plainLoad m m.d.s [m.a, m.c] fun s w i =>
      BitVec.ofInt 64 (((s.gridOf w.wg).lrec.kernel.toNat : Int) + (rd32 w i m.a).toInt + (rd32 w i m.c).toInt * 2 ^ m.scale.toNat +
        (m.off.getD 0).toInt))
  | .gather m => some { h := m.h, srcs := [m.a], n := m.acc.bytes, elems := fun _ w i => gathered m w i, dst := ⟨false, m.d⟩ }
  | _ => none

/-- The data of a store of a strand, little-endian (R163, R169). -/
def stored (m : Mem) (w : Wave) (i : Nat) : List (BitVec 8) :=
  (List.range (memBytes m.m)).map fun k => match m.m with
    | .wide _ _ => ((w.strand i).v32 (m.d.n.toNat + k / 4)).extractLsb' (8 * (k % 4)) 8
    | .acc _ _ =>
      (if m.d.s then w.sreg m.d.n.toNat else (w.strand i).v64 m.d.n.toNat).extractLsb' (8 * k) 8

/-- The stores (R169, R171). -/
def storeOf : Instr → Option AccessIns
  | .st m => some
    { h := m.h, srcs := [m.a, m.c], n := memBytes m.m, elems := fun _ w i => [some (effective w i m.scale m.a m.c m.off)], dst := m.d
      data := fun w i _ => stored m w i, release := m.m.scope?.map Scope.wide }
  | .scatter m => some
    { h := m.h, srcs := [m.a], n := m.acc.bytes, elems := fun _ w i => gathered m w i, dst := ⟨false, m.d⟩
      data := fun w i k => (List.range m.acc.bytes).map fun j => ((w.strand i).v32 (m.d.toNat + k)).extractLsb' (8 * j) 8 }
  | _ => none

/-- The strands whose accesses are made: the enabled ones, or the lowest of them for a uniform access. -/
def AccessIns.slots (o : AccessIns) (e : BitVec 32) : List Nat := if o.uniform then [lead e] else slotsOf e

/-- An access passes the checks of R166: below 2^56, aligned on its size, and translated with permission; `pa` is its physical
address. -/
def checks (s : State) (w : Wave) (n : Nat) (need : Need) (va : BitVec 64) (pa : Nat) : Prop :=
  va.toNat < 2 ^ 56 ∧ va.toNat % n = 0 ∧ s.translate (s.whoLs w) need va = .ok pa

/-- The failure that R166 names first, of an access that does not pass. -/
def failure (s : State) (w : Wave) (n : Nat) (need : Need) (va : BitVec 64) : Option Flt :=
  if 2 ^ 56 ≤ va.toNat then some ⟨.translation, 2⟩
  else if va.toNat % n ≠ 0 then some ⟨.misaligned, 0⟩
  else match s.translate (s.whoLs w) need va with
    | .error f => some f
    | .ok _ => none

/-- The accesses of an instruction with physical addresses `pa`: per strand, in order. -/
def AccessIns.made (o : AccessIns) (s : State) (w : Wave) (e : BitVec 32) (pa : BitVec 64 → Nat) :
    List (Nat × List (Option (BitVec 64 × Nat))) :=
  (o.slots e).map fun i => (i, (o.elems s w i).map fun x => x.map fun va => (va, pa va))

/-- A load of a register or pair as an instruction that writes a latch value: l0 waits for the data (0 until they arrive). -/
def AccessIns.ins (o : AccessIns) (w64 : Bool) : DataIns :=
  { h := o.h, d := o.dst, w64 := w64, sgn := false, srcs := [], val := fun _ _ _ => 0 }

/-- What a load leaves of a strand of its path when it retires (R59, R38): the program counter moves and, when it loads a
register or a pair, the latches shift. -/
def AccessIns.after (o : AccessIns) (c : Issue) (w : Wave) (e : BitVec 32) (i : Nat) (st : Strand) : Strand :=
  let st' := match o.latch with
    | none => st
    | some w64 =>
      { st with
        l0 := (o.ins w64).latch w e i, l1 := st.l0, l2 := st.l1, l3 := st.l2, latN := min 4 (st.latN + 1), pushes := st.pushes + 1 }
  { st' with pc := c.next, latN := if c.next.toNat % 32 = 0 then 0 else st'.latN }

/-- What it leaves of a strand that is not in the path (R57). -/
def AccessIns.aside (o : AccessIns) (w : Wave) (i : Nat) : Strand :=
  match o.latch with
  | none => w.strand i
  | some w64 => (o.ins w64).beside w i

/-- What a load leaves of the wave when it retires. -/
structure Loading (o : AccessIns) (c : Issue) (w w' : Wave) : Prop where
  frame : Retired c w w'
  regs : w'.s = w.s ∧ w'.fpflags = w.fpflags
  strands : ∀ j, w'.strand j =
    if j < 32 ∧ c.mask.getLsbD j = true then o.after c w (w.enabled c.mask o.h) j (w.strand j) else o.aside w j

/-- The byte that a wave of workgroup `g` reads at an address (R175, R176, R330, R331): what its attempt, task or round holds for
it, else `b`; nothing is said of a byte of a write region that its task has not written. -/
def readsAs (s : State) (g : Nat) (va : BitVec 64) (b x : BitVec 8) : Prop :=
  match s.overlay g va with
  | none => x = b
  | some (some y) => x = y
  | some none => True

/-- The value of loaded bytes (R163, R168): little-endian, extended by sign for `.s8` and `.s16`. -/
def loadedVal (a : Acc) (bs : List (BitVec 8)) : BitVec 64 :=
  let x := BitVec.ofNat 64 (ofBytes bs)
  match a with
  | .s8 => ((x.setWidth 8).signExtend 32).setWidth 64
  | .s16 => ((x.setWidth 16).signExtend 32).setWidth 64
  | _ => x

/-- Register vn of strand `j` after loaded bytes `bs`, by slot and element, have been written (R164, R168, R171); a uniform load
takes those of slot `u`. -/
def landedV (i : Instr) (w : Wave) (mask : BitVec 32) (u : Nat) (bs : Nat → Nat → List (BitVec 8)) (j n : Nat) : BitVec 32 :=
  let one := fun (m : Mem) (uniform : Bool) =>
    let b := bs (if uniform then u else j) 0
    let d := m.d.n.toNat
    if m.d.s = true ∨ mask.getLsbD j = false then (w.strand j).v32 n
    else match m.m with
      | .wide x _ => if d ≤ n ∧ n < d + x.bytes / 4 then BitVec.ofNat 32 (ofBytes ((b.drop (4 * (n - d))).take 4)) else (w.strand j).v32 n
      | .acc a _ =>
        if m.h.nwb = true then (w.strand j).v32 n
        else if a = .z64 ∧ n = d + 1 then (loadedVal a b).extractLsb' 32 32
        else if n = d then (loadedVal a b).extractLsb' 0 32
        else (w.strand j).v32 n
  match i with
  | .ld m => one m m.d.s
  | .ldu m => one m true
  | .ldk m => one m m.d.s
  | .gather m =>
    if mask.getLsbD j = true ∧ m.d.toNat ≤ n ∧ n ≤ m.d.toNat + m.n1.toNat then
      (loadedVal m.acc (bs j (n - m.d.toNat))).extractLsb' 0 32
    else (w.strand j).v32 n
  | _ => (w.strand j).v32 n

/-- Uniform register sn after them (R32, R168). -/
def landedS (i : Instr) (w : Wave) (b : List (BitVec 8)) (n : Nat) : BitVec 64 :=
  let one := fun (m : Mem) =>
    let d := m.d.n.toNat
    if m.d.s = false then w.sreg n
    else match m.m with
      | .wide x _ => if d ≤ n ∧ n < d + x.bytes / 8 then BitVec.ofNat 64 (ofBytes ((b.drop (8 * (n - d))).take 8)) else w.sreg n
      | .acc a _ =>
        if m.h.nwb = true ∨ n ≠ d then w.sreg n
        else if a = .s8 ∨ a = .s16 ∨ a = .s32 then ((loadedVal a b).setWidth 32).signExtend 64
        else loadedVal a b
  match i with
  | .ld m => one m
  | .ldu m => one m
  | .ldk m => one m
  | _ => w.sreg n

/-- What a load in flight has to be (the loads that R168 and R171 issue are): one entry for every strand it serves, or one for all
of them, each with its elements, no access across a line, and no line reached through two apertures, which are not coherent (R156). -/
structure InFlight (l : Load) : Prop where
  slots : l.elems.Pairwise fun x y => x.1 < y.1
  lines : ∀ x ∈ l.elems, ∀ va pa, some (va, pa) ∈ x.2 → pa % 64 + (loadShape l.i).1 ≤ 64
  same : ∀ x ∈ l.elems, ∀ y ∈ l.elems, ∀ va pa vb pb, some (va, pa) ∈ x.2 → some (vb, pb) ∈ y.2 → ∀ a b m,
    place pa = .cell m a → cellOf pb = some b → b / 64 = m / 64 → ∃ k, place pb = .cell k a
  shape : match l.i with
    | .gather m => ∀ j, j < 32 → l.mask.getLsbD j = true → ∃ x ∈ l.elems, x.1 = j ∧ x.2.length = m.n1.toNat + 1
    | .ld _ => True
    | .ldu _ => True
    | .ldk _ => True
    | _ => False

end Sys2Proof.Claims

/-- R44, R59, R158, R166, R168, R171: `LD`, `LDU`, `LDK` and `GATHER` retire when every access of an enabled strand passes its checks:
the path goes on, the load stands in flight with exactly the accesses that the addressing gives, and memory, caches and every
other record are unchanged; with no enabled strand they only retire. What the rules leave open here
is the model's choice: notes/assumptions/7.md. -/
def Obligations.LoadsIssue : Prop :=
  (∀ i o, Sys2Proof.Claims.loadOf i = some o → ∀ s c w, Sys2Proof.Claims.Issuing s c w →
    Sys2Proof.Machine.latchOk w c.mask o.srcs = true → w.enabled c.mask o.h = 0 →
    ∃ w', Sys2Proof.Machine.exec i s = .next (Sys2Proof.Claims.onlyWave s c w') ∧ Sys2Proof.Claims.Loading o c w w') ∧
  ∀ i o, Sys2Proof.Claims.loadOf i = some o → ∀ s c w, Sys2Proof.Claims.Issuing s c w →
    Sys2Proof.Machine.latchOk w c.mask o.srcs = true → w.enabled c.mask o.h ≠ 0 → ∀ pa : BitVec 64 → Nat,
    (∀ j ∈ o.slots (w.enabled c.mask o.h), ∀ va, some va ∈ o.elems s w j →
      Sys2Proof.Claims.checks s w o.n .load va (pa va)) →
    ∃ w', Sys2Proof.Machine.exec i s = .next { Sys2Proof.Claims.onlyWave s c w' with
        fresh := s.fresh + 1
        loads := s.loads.set s.fresh
          { wave := c.wave, wg := w.wg, ctx := s.ctxOf w.wg, i := i, priv := w.priv, pc := c.pc
            elems := o.made s w (w.enabled c.mask o.h) pa
            mask := if o.dst.s then c.mask else w.enabled c.mask o.h
            ages := (List.range 32).filterMap fun j =>
              if (if o.dst.s then c.mask else w.enabled c.mask o.h).getLsbD j then some (j, (w'.strand j).pushes) else none } } ∧
      Sys2Proof.Claims.Loading o c w w'

/-- R165, R166: when an access of a load or of a store fails a check, the instruction traps, precisely, before any access is made: the
lowest failing strand and its first failing access decide, and TRAPADDR and TRAPINFO name them. What the rules leave open here is the
model's choice: notes/assumptions/13.md. -/
def Obligations.AccessChecksTrap : Prop :=
  ∀ i o need, (Sys2Proof.Claims.loadOf i = some o ∧ need = Sys2Proof.Machine.Need.load) ∨
      (Sys2Proof.Claims.storeOf i = some o ∧ need = Sys2Proof.Machine.Need.store) → ∀ s c w, Sys2Proof.Claims.Issuing s c w →
    Sys2Proof.Machine.latchOk w c.mask o.srcs = true → s.inAttempt w = false → s.txPending w.wg = false →
    ∀ before j after first va rest f,
    o.slots (w.enabled c.mask o.h) = before ++ j :: after → w.enabled c.mask o.h ≠ 0 →
    (∀ k ∈ before, ∀ x, some x ∈ o.elems s w k → Sys2Proof.Claims.failure s w o.n need x = none) →
    o.elems s w j = first ++ some va :: rest →
    (∀ x, some x ∈ first → Sys2Proof.Claims.failure s w o.n need x = none) →
    Sys2Proof.Claims.failure s w o.n need va = some f →
    Sys2Proof.Machine.exec i s = .next { s.takeTrap c
      { cause := f.cause, addr := va, info := BitVec.ofNat 64 (j + first.length * 2 ^ 5 + f.sub * 2 ^ 8) } .precise with
        cur := none, tick := s.tick + 1 }

/-- R161, R167, R168, R171: when the data of a load arrive (no older atomic of the wave to its lines is outstanding, and no sector it
reads is poisoned) the load is no longer in flight, every byte is what the wave reads at its address, through the L1 for a plain load
and past it for the other kinds, the destination registers and no others take the extended values, and no byte of memory and
no byte of a copy changes: an L2 may obtain a copy (R155). What the rules leave open here is the model's choice: notes/assumptions/7.md. -/
def Obligations.LoadedDataArrive : Prop :=
  ∀ s k l w, s.loads.get? k = some l → s.waves.get? l.wave = some w → s.loadReady k l = true → s.loadPoison l = none →
    Sys2Proof.Claims.InFlight l → s.memWf = true →
    ∃ t, Sys2Proof.Machine.exec (.loadDataArrival k) s = .next t ∧ t.loads = s.loads.del k ∧
      t.mem.cells = s.mem.cells ∧ (∃ l, t.mem.l2 = s.mem.l2 ++ l ∧ ∀ x ∈ l, x.bytes = []) ∧ t.wgs = s.wgs ∧ t.hub = s.hub ∧
      ∃ bs : Nat → Nat → List (BitVec 8),
        (∀ x ∈ l.elems, ∀ e va pa, x.2[e]? = some (some (va, pa)) →
          (bs x.1 e).length = (Sys2Proof.Machine.loadShape l.i).1 ∧ ∀ b, b < (Sys2Proof.Machine.loadShape l.i).1 →
          Sys2Proof.Claims.readsAs s l.wg (va + BitVec.ofNat 64 b)
            ((s.lsBytes (s.wgD l.wg).core pa (Sys2Proof.Machine.loadShape l.i).1 (Sys2Proof.Machine.loadShape l.i).2.1).getD b 0)
            ((bs x.1 e).getD b 0)) ∧
        (∀ x ∈ l.elems, ∀ e, x.2[e]? = some none → bs x.1 e = []) ∧
        (∀ j n, j < 32 → ((t.waveD l.wave).strand j).v32 n =
          Sys2Proof.Claims.landedV l.i w l.mask ((l.elems.map (·.1)).headD 0) bs j n) ∧
        (∀ n, (t.waveD l.wave).sreg n = Sys2Proof.Claims.landedS l.i w (bs ((l.elems.map (·.1)).headD 0) 0) n)

namespace Sys2Proof.Claims

open Sys2Proof Sys2Proof.Machine

/-- Two physical addresses reach their bytes the same way: cells through one aperture, or memory of one host whose port carries
accesses (R147). -/
def sameWay (h : Hub) (p q : Nat) : Prop :=
  (∃ a c d, place p = .cell c a ∧ place q = .cell d a) ∨ (∃ b, place p = .host b ∧ place q = .host b ∧ (h.port b).carries = true)

/-- The bytes that the stores `l` (physical address and bytes, in order) leave at `p`, over `old`: the last one decides. -/
def afterStores (l : List (Nat × List (BitVec 8))) (p : Nat) (old : BitVec 8) : BitVec 8 :=
  l.foldl (fun b x => if x.1 ≤ p ∧ p < x.1 + x.2.length then x.2.getD (p - x.1) 0 else b) old

/-- The stores of an instruction in slot, then element order (R167). -/
def AccessIns.stores {α : Type} (o : AccessIns) (s : State) (w : Wave) (e : BitVec 32) (pa : BitVec 64 → α) :
    List (α × List (BitVec 8)) :=
  (slotsOf e).flatMap fun i => ((List.range (o.elems s w i).length).zip (o.elems s w i)).filterMap fun x =>
    x.2.map fun va => (pa va, o.data w i x.1)

/-- No older access of the wave to the line of a physical address is outstanding (R167, R182). -/
def calm (s : State) (u p : Nat) : Prop :=
  (∀ r ∈ s.reqs, r.2.wave = u → r.2.reply = none → lineKey r.2.pa ≠ lineKey p) ∧
  ∀ l ∈ s.loads, l.2.wave = u → ∀ x ∈ l.2.all, lineKey x.2.2.2 ≠ lineKey p

/-- What a die reads and writes at a physical address is not held dirty by another die's L2 (R155, R156). -/
def ownLine (s : State) (die p : Nat) : Prop :=
  ∀ d a, place p = .cell d a → ∀ x ∈ s.mem.l2, x.line = d / 64 → x.bytes ≠ [] → x.die = if a = .cached then die else homeDie d

/-- The accesses of a store pass: their checks, no page stalled for a migration (R159), and no older access of the wave to their
lines. -/
def AccessIns.goes (o : AccessIns) (s : State) (c : Issue) (w : Wave) (pa : BitVec 64 → Nat) : Prop :=
  ∀ j ∈ slotsOf (w.enabled c.mask o.h), ∀ va, some va ∈ o.elems s w j →
    checks s w o.n .store va (pa va) ∧ s.stalledAt (pa va) = false ∧ calm s c.wave (pa va)

/-- A state reads at `p` what the stores `l` leave there. -/
def readsAfter (s t : State) (die : Nat) (l : List (Nat × List (BitVec 8))) (p : Nat) : Prop :=
  t.readByte die p = afterStores l p (s.readByte die p)

/-- A line has at most one copy in the L2s, which agrees with memory in the bytes that are not dirty. -/
def agreed (m : Memory) (line : Nat) : Prop :=
  (m.l2.filter fun y => y.line == line).length ≤ 1 ∧
  ∀ y ∈ m.l2, y.line = line → ∀ k, k < 64 → y.bytes.get? k = none → y.base.getD k 0 = memGet m.cells (64 * line + k)

/-- Local-store offset of a strand (R170): no wrapping. -/
def localOff (w : Wave) (i : Nat) (m : Mem) : Int :=
  ((rd32 w i m.a).toNat : Int) + (rd32 w i m.c).toInt * 2 ^ m.scale.toNat + (m.off.getD 0).toInt

/-- A local access lies within LOCAL and is aligned on its size (R166, R170); `o` is its offset. -/
def localOk (s : State) (w : Wave) (m : Mem) (i o : Nat) : Prop :=
  localOff w i m = o ∧ o + memBytes m.m ≤ s.localSize w.wg ∧ o % memBytes m.m = 0

end Sys2Proof.Claims

section

open Sys2Proof Sys2Proof.Machine Sys2Proof.Claims

/-- R166, R167, R169, R171: a store outside an attempt, deterministic mode and tasks completes when every access of an enabled strand
passes its checks, no page of them is stalled for a migration, no older access of the wave to their lines is outstanding and, for a
release, no earlier atomic or store of its strands is. Reads from its die through the same aperture find the stored bytes at the
addresses that the addressing gives, the last strand's where several write one byte, and what was there everywhere else (where no
other die holds the line dirty); nothing but memory, the core's L1 and the wave changes. R7, R183: a plain store may instead issue now
and be performed later: it completes with memory unchanged, and a later move writes its bytes. What the rules leave open here is the
model's choice: notes/assumptions/7.md. -/
def Obligations.StoresWriteMemory : Prop :=
  (∀ i o, storeOf i = some o → ∀ s c w, Issuing s c w → latchOk w c.mask o.srcs = true →
    s.memWf = true → s.inAttempt w = false → s.txPending w.wg = false → s.isDet w.wg = false → s.depOf w.wg = none →
    (c.late = false ∨ o.release.isSome = true) → ∀ pa : BitVec 64 → Nat, o.goes s c w pa →
    (o.release.isSome = true → s.posted c.wave c.mask = false) →
    ∃ w' m, exec i s = .next { onlyWave s c w' with mem := m } ∧ Passed c w w' ∧
      ∀ p, (∀ j ∈ slotsOf (w.enabled c.mask o.h), ∀ va, some va ∈ o.elems s w j → sameWay s.hub (pa va) p) →
        ownLine s (dieOf (s.coreOf w)) p →
        readsAfter s { s with mem := m } (dieOf (s.coreOf w)) (o.stores s w (w.enabled c.mask o.h) pa) p) ∧
  (∀ i o, storeOf i = some o → ∀ s c w, Issuing s c w → latchOk w c.mask o.srcs = true →
    s.inAttempt w = false → s.txPending w.wg = false → s.isDet w.wg = false → s.depOf w.wg = none →
    c.late = true → o.release = none → ∀ pa : BitVec 64 → Nat, o.goes s c w pa →
    ∃ w' reqs, exec i s = .next { onlyWave s c w' with
        fresh := s.fresh + (o.stores s w (w.enabled c.mask o.h) pa).length, reqs := reqs } ∧ Passed c w w' ∧
      (∀ k, k < s.fresh → reqs.get? k = s.reqs.get? k) ∧
      ∀ k x, (o.stores s w (w.enabled c.mask o.h) pa)[k]? = some x →
        ∃ r, reqs.get? (s.fresh + k) = some r ∧ r.wave = c.wave ∧ r.wg = w.wg ∧ r.ctx = s.ctxOf w.wg ∧ r.pa = x.1 ∧
          r.op = .write x.2 ∧ r.reply = none ∧ r.d = none ∧ r.precise = false ∧ r.slots &&& c.mask = r.slots) ∧
  ∀ s k r bs, s.reqs.get? k = some r → r.op = .write bs → r.d = none → r.precise = false → r.pa % 64 + bs.length ≤ 64 →
    s.reqReady k r = true → s.memWf = true →
    (s.storeLands k).reqs = s.reqs.del k ∧ (s.storeLands k).waves = s.waves ∧ (s.storeLands k).wgs = s.wgs ∧
    ∀ p, sameWay s.hub r.pa p → ownLine s (dieOf (s.wgD r.wg).core) p →
      readsAfter s (s.storeLands k) (dieOf (s.wgD r.wg).core) [(r.pa, bs)] p

end

/-- R175, R262: inside an attempt a store to declared bytes writes the workgroup's versions and no memory; later reads of the workgroup
find the version. R176, R339: in deterministic mode a store outside an attempt and outside tasks changes no memory: its bytes join the
workgroup's staged stores, with the wave's index, its place in issue order and both addresses, in slot, element and byte order. What the
rules leave open here is the model's choice: notes/assumptions/13.md. -/
def Obligations.StoresHeldBack : Prop :=
  (∀ i o, Sys2Proof.Claims.storeOf i = some o → ∀ s c w g, Sys2Proof.Claims.Issuing s c w →
    Sys2Proof.Machine.latchOk w c.mask o.srcs = true → s.inAttempt w = true →
    (o.release ≠ some true ∨ s.isDet w.wg = false ∨ c.go = true) →
    s.wgs.get? (s.txHome w.wg) = some g → g.task = none → ∀ pa : BitVec 64 → Nat,
    (∀ j ∈ Sys2Proof.Machine.slotsOf (w.enabled c.mask o.h), ∀ va, some va ∈ o.elems s w j →
      s.declared w va o.n = true ∧ ∃ d, Sys2Proof.Machine.place (pa va) = .cell d .cached) → o.goes s c w pa →
    (o.release.isSome = true → s.posted c.wave c.mask = false) →
    ∃ w' m g', Sys2Proof.Machine.exec i s =
        .next { Sys2Proof.Claims.onlyWave s c w' with mem := m, wgs := s.wgs.set (s.txHome w.wg) g' } ∧
      Sys2Proof.Claims.Passed c w w' ∧ m = { s.mem with l1 := m.l1 } ∧ g' = { g with ver := g'.ver } ∧
      ∀ a : Nat, a < 2 ^ 56 → g'.ver.get? a =
        (o.stores s w (w.enabled c.mask o.h) (·.toNat)).foldl
          (fun b x => if x.1 ≤ a ∧ a < x.1 + x.2.length then some (x.2.getD (a - x.1) 0, w.priv) else b) (g.ver.get? a)) ∧
  (∀ i o, Sys2Proof.Claims.storeOf i = some o → o.release ≠ some true → ∀ s c w g, Sys2Proof.Claims.Issuing s c w →
    Sys2Proof.Machine.latchOk w c.mask o.srcs = true → s.inAttempt w = false → s.txPending w.wg = false → s.isDet w.wg = true →
    s.wgs.get? w.wg = some g → g.task = none → ∀ pa : BitVec 64 → Nat, o.goes s c w pa →
    (o.release.isSome = true → s.posted c.wave c.mask = false) →
    ∃ w' m, Sys2Proof.Machine.exec i s = .next { Sys2Proof.Claims.onlyWave s c w' with
        mem := m
        wgs := s.wgs.set w.wg { g with staged := g.staged ++
          (o.stores s w (w.enabled c.mask o.h) (fun va => (va, pa va))).flatMap fun x =>
            (List.range x.2.length).map fun k =>
              { wave := w.idx, seq := w.icount.toNat, va := x.1.1 + BitVec.ofNat 64 k, pa := x.1.2 + k
                byte := x.2.getD k 0, priv := w.priv } } } ∧
      Sys2Proof.Claims.Passed c w w' ∧ m = { s.mem with l1 := m.l1 })

/-- R157, R166, R170: `LDL` and `STL` complete when every access lies within LOCAL and is aligned: a load reads the bytes that have been
written (the others are open), a store writes its bytes and no others, and global memory is not involved. R172, R173, R194: `PREF`
changes nothing but caches, and leaves every copy there as it is; `CFLUSH` and `ALIASFL`, when their addresses translate (and, for
`ALIASFL`, no atomic or store of the enabled strands is outstanding), retire: `.wb` leaves no copy of a line dirty, `.inv` no copy at
all, `ALIASFL` none but a clean one at the line's home, after which every die reads memory's bytes through every aperture; no byte
that a die reads through the cached aperture changes where the line has at most one copy, which agrees with memory in its clean bytes. What the rules leave open here is the model's choice: notes/assumptions/3.md and notes/assumptions/10.md. -/
def Obligations.LocalAccessesAndFlushes : Prop :=
  ((∀ s c w m, Sys2Proof.Claims.Issuing s c w → Sys2Proof.Machine.latchOk w c.mask [m.a, m.c] = true → w.enabled c.mask m.h ≠ 0 →
    ∀ off : Nat → Nat, (∀ j, (w.enabled c.mask m.h).getLsbD j = true → Sys2Proof.Claims.localOk s w m j (off j)) →
    (m.d.s = true → ∀ j, off j = off (Sys2Proof.Claims.lead (w.enabled c.mask m.h))) →
    ∃ w' k, Sys2Proof.Machine.exec (.ldl m) s = .next { Sys2Proof.Claims.onlyWave s c w' with free := k } ∧
      ∃ bs : Nat → List (BitVec 8),
        (∀ j, (bs j).length = Sys2Proof.Machine.memBytes m.m) ∧
        (∀ j b x, b < Sys2Proof.Machine.memBytes m.m → (s.wgD w.wg).lmem.get? (off j + b) = some x → (bs j).getD b 0 = x) ∧
        (m.d.s = true → ∀ j, bs j = bs 0) ∧
        (∀ j n, j < 32 → c.mask.getLsbD j = true → (w'.strand j).v32 n =
          Sys2Proof.Claims.landedV (.ld m) w (w.enabled c.mask m.h) 0 (fun i _ => bs i) j n) ∧
        (∀ n, w'.sreg n = Sys2Proof.Claims.landedS (.ld m) w (bs 0) n) ∧
        (∀ j, ¬(j < 32 ∧ c.mask.getLsbD j = true) → w'.strand j = match m.m.w64? with
          | none => w.strand j
          | some w64 => Sys2Proof.Claims.DataIns.beside
              { h := m.h, d := m.d, w64 := w64, sgn := false, srcs := [], val := fun _ _ _ => 0 } w j)) ∧
  (∀ s c w m g, Sys2Proof.Claims.Issuing s c w → Sys2Proof.Machine.latchOk w c.mask [m.a, m.c] = true →
    s.wgs.get? w.wg = some g →
    ∀ off : Nat → Nat, (∀ j, (w.enabled c.mask m.h).getLsbD j = true → Sys2Proof.Claims.localOk s w m j (off j)) →
    ∃ w' g', Sys2Proof.Machine.exec (.stl m) s =
        .next { Sys2Proof.Claims.onlyWave s c w' with wgs := s.wgs.set w.wg g' } ∧
      Sys2Proof.Claims.Passed c w w' ∧ g' = { g with lmem := g'.lmem } ∧
      ∀ a, g'.lmem.get? a = ((Sys2Proof.Machine.slotsOf (w.enabled c.mask m.h)).map fun j =>
          (off j, Sys2Proof.Claims.stored m w j)).foldl
        (fun b x => if x.1 ≤ a ∧ a < x.1 + x.2.length then some (x.2.getD (a - x.1) 0) else b) (g.lmem.get? a))) ∧
  ((∀ s c w l1 m, Sys2Proof.Claims.Issuing s c w → Sys2Proof.Machine.latchOk w c.mask [m.a, m.c] = true →
    ∃ w' x, Sys2Proof.Machine.exec (.pref l1 m) s = .next { Sys2Proof.Claims.onlyWave s c w' with mem := x } ∧
      Sys2Proof.Claims.Passed c w w' ∧ x = { s.mem with l1 := x.l1, l2 := x.l2 } ∧
      ∃ l, x.l2 = s.mem.l2 ++ l ∧ ∀ y ∈ l, y.bytes = []) ∧
  (∀ s c w op m, Sys2Proof.Claims.Issuing s c w → Sys2Proof.Machine.latchOk w c.mask [m.a, m.c] = true →
    s.memWf = true → (w.enabled c.mask m.h = 0 ∨ s.inAttempt w = true ∨ s.txPending w.wg = false) → s.mem.poison = [] →
    ∀ pa : BitVec 64 → Nat, (∀ j, (w.enabled c.mask m.h).getLsbD j = true →
      s.translate (s.whoLs w) (if op = .i then .loadOrFetch else .load) (Sys2Proof.Claims.effective w j m.scale m.a m.c m.off) =
        .ok (pa (Sys2Proof.Claims.effective w j m.scale m.a m.c m.off))) →
    ∃ w' x, Sys2Proof.Machine.exec (.cflush op m) s = .next { Sys2Proof.Claims.onlyWave s c w' with mem := x } ∧
      Sys2Proof.Claims.Passed c w w' ∧
      (∀ j d, (w.enabled c.mask m.h).getLsbD j = true →
        Sys2Proof.Machine.place (pa (Sys2Proof.Claims.effective w j m.scale m.a m.c m.off)) = .cell d .cached →
        (op = .wb → ∀ y ∈ x.l2, y.line = d / 64 → y.bytes = []) ∧ (op = .inv → ∀ y ∈ x.l2, y.line ≠ d / 64)) ∧
      ∀ die p d, Sys2Proof.Machine.place p = .cell d .cached → Sys2Proof.Claims.agreed s.mem (d / 64) →
        ({ s with mem := x } : Sys2Proof.Machine.State).readByte die p = s.readByte die p) ∧
  (∀ s c w m, Sys2Proof.Claims.Issuing s c w → Sys2Proof.Machine.latchOk w c.mask [m.a, m.c] = true →
    s.memWf = true → (w.enabled c.mask m.h = 0 ∨ s.inAttempt w = true ∨ s.txPending w.wg = false) → s.mem.poison = [] →
    s.posted c.wave (w.enabled c.mask m.h) = false →
    ∀ pa : BitVec 64 → Nat, (∀ j, (w.enabled c.mask m.h).getLsbD j = true →
      s.translate (s.whoLs w) .load (Sys2Proof.Claims.effective w j m.scale m.a m.c m.off) =
        .ok (pa (Sys2Proof.Claims.effective w j m.scale m.a m.c m.off))) →
    ∃ w' x, Sys2Proof.Machine.exec (.aliasfl m) s = .next { Sys2Proof.Claims.onlyWave s c w' with mem := x } ∧
      Sys2Proof.Claims.Passed c w w' ∧
      (∀ j d a, (w.enabled c.mask m.h).getLsbD j = true →
        Sys2Proof.Machine.place (pa (Sys2Proof.Claims.effective w j m.scale m.a m.c m.off)) = .cell d a →
        (∀ y ∈ x.l2, y.line = d / 64 → y.die = Sys2Proof.Machine.homeDie (64 * (d / 64)) ∧ y.bytes = []) ∧
        ∀ die q e b, Sys2Proof.Machine.place q = .cell e b → e / 64 = d / 64 →
          ({ s with mem := x } : Sys2Proof.Machine.State).readByte die q = Sys2Proof.Machine.memGet x.cells e) ∧
      ∀ die p d, Sys2Proof.Machine.place p = .cell d .cached → Sys2Proof.Claims.agreed s.mem (d / 64) →
        ({ s with mem := x } : Sys2Proof.Machine.State).readByte die p = s.readByte die p))

/-- R192, R193, R195: a fence for which nothing it waits for is outstanding retires: an acquire at .cl scope or wider drops the core's
L1, as `FENCEX` with .ls does, and nothing else changes; while something is outstanding it stalls and does not retire; at .cl or
wider in deterministic mode it is a staging point. -/
def Obligations.FencesOrder : Prop :=
  (∀ s c w h sc k, Sys2Proof.Claims.Issuing s c w → w.enabled c.mask h ≠ 0 → (s.isDet w.wg = false ∨ c.go = true ∨ sc.wide = false) →
    (k ≠ .acq → s.posted c.wave c.mask = false) → (k ≠ .rel → s.postedReads c.wave c.mask = false) →
    ∃ w', Sys2Proof.Machine.exec (.fence h sc k) s = .next { Sys2Proof.Claims.onlyWave s c w' with
        mem := { s.mem with l1 := if k ≠ .rel ∧ sc.wide = true then s.mem.l1.filter fun x => x.core != s.coreOf w else s.mem.l1 } } ∧
      Sys2Proof.Claims.Passed c w w') ∧
  (∀ s c w h sc k a b, Sys2Proof.Claims.Issuing s c w → w.enabled c.mask h ≠ 0 → (s.isDet w.wg = false ∨ c.go = true ∨ sc.wide = false) →
    (s.inAttempt w = true ∨ s.txPending w.wg = false) →
    s.pathBusy c.wave c.mask a = false → s.pathBusy c.wave c.mask b = false →
    ∃ w', Sys2Proof.Machine.exec (.fencex h sc k a b) s = .next { Sys2Proof.Claims.onlyWave s c w' with
        mem := { s.mem with l1 := if a = .ls ∨ b = .ls then s.mem.l1.filter fun x => x.core != s.coreOf w else s.mem.l1 } } ∧
      Sys2Proof.Claims.Passed c w w') ∧
  (∀ s c w h sc k, Sys2Proof.Claims.Issuing s c w → w.enabled c.mask h ≠ 0 → s.isDet w.wg = false →
    ((k ≠ .acq ∧ s.posted c.wave c.mask = true) ∨ (k ≠ .rel ∧ s.postedReads c.wave c.mask = true)) →
    Sys2Proof.Machine.exec (.fence h sc k) s = .next { s.waitAt c false with cur := none }) ∧
  (∀ s c w h sc k, Sys2Proof.Claims.Issuing s c w → w.enabled c.mask h ≠ 0 → s.isDet w.wg = true → c.go = false → sc.wide = true →
    Sys2Proof.Machine.exec (.fence h sc k) s = .next { s.stageAt c with cur := none, tick := s.tick + 1 })

namespace Sys2Proof.Claims

open Sys2Proof Sys2Proof.Machine

/-! ## Instructions that change other records and retire (08_tiles, 09_matrix, 10_transactions, 11_sync) -/

/-- `exec` answers the state `t` after the instruction, but for the issuing wave, which is a `w'` of the given kind. -/
def Becomes (i : Instr) (s t : State) (c : Issue) (P : Wave → Prop) : Prop :=
  ∃ w', exec i s = .next { t with cur := none, tick := t.tick + 1, waves := t.waves.set c.wave w' } ∧ P w'

/-- The DEFER flag that a deferring instruction leaves (R388): inside an attempt nothing defers. -/
def deferred (s : State) (w : Wave) (i : Nat) : Bool := (w.strand i).defer || !s.inAttempt w

/-- The wave with the strands of the path deferring (R226, R316, R388). -/
def Defers (s : State) (c : Issue) (w w' : Wave) : Prop :=
  w' = { w with strands := w'.strands } ∧
  ∀ i, w'.strand i = if i < 32 ∧ c.mask.getLsbD i = true then { w.strand i with defer := deferred s w i } else w.strand i

/-- As `Passed`; the strands of the path defer. -/
def PassedDeferring (s : State) (c : Issue) (w w' : Wave) : Prop := ∃ w0, Defers s c w w0 ∧ Passed c w0 w'

/-- What an instruction of the blocking set leaves of the wave when it retires (R39, R67): latches end, and the path stands at a
boundary. -/
def Blocked (c : Issue) (w w' : Wave) : Prop :=
  w' = { w with
    strands := w'.strands
    paths := w.paths.map fun p => if p.born == c.path then { p with wait := .none, edge := edgePast c.next, turn := p.turn + 1 } else p
    icount := w.icount + 1, roundN := w.roundN + 1 } ∧
  ∀ i, w'.strand i = if i < 32 ∧ c.mask.getLsbD i = true then { w.strand i with pc := c.next, latN := 0 } else w.strand i

/-- The wave with the one result `x` of an instruction, where it has a destination (R32, R38). -/
def Answered (h : Hd) (d : Option Dst) (w64 : Bool) (x : BitVec 64) (c : Issue) (w w' : Wave) : Prop :=
  match d with
  | none => Passed c w w'
  | some d =>
    Retired c w w' ∧
    Wrote { h := h, d := d, w64 := w64, sgn := false, srcs := [], val := fun _ _ _ => x } c w (w.enabled c.mask h) w'

/-- The wave of a workgroup that is there, and its workgroup: what the instructions of these classes act on. -/
structure At (s : State) (c : Issue) (w : Wave) (g : Wg) (h : Hd) : Prop where
  issue : Issuing s c w
  wg    : s.wgs.get? w.wg = some g
  on    : w.enabled c.mask h ≠ 0

/-- The class's rule about transactions lets the instruction act: an attempt is open for the wave, or its workgroup has no
transaction to begin (R261, R263). -/
def allowed (s : State) (w : Wave) : Prop := s.inAttempt w = true ∨ s.txPending w.wg = false

/-- A handle names a tile of the table. -/
def names (s : State) (g : Wg) (t : BitVec 5) (k : Nat) (x : Tile) : Prop := g.handles.get? t.toNat = some k ∧ s.tiles.get? k = some x

/-- The region that `TDECL` declares (R220). -/
def regionIn (w : Wave) (base pitch : BitVec 6) (rows bytes : BitVec 20) (mode : RegionMode) : Region :=
  { base := w.sreg base.toNat, rows := rows.toNat, rowBytes := bytes.toNat, pitch := (w.sreg pitch.toNat).toInt, mode := mode }

/-- The word of `TSTAT` (R221). -/
def tstatWord (x : Tile) : BitVec 64 :=
  (0 : BitVec 20) ++ BitVec.ofNat 16 x.width ++ BitVec.ofNat 12 x.rows ++ x.cause ++ (0 : BitVec 2) ++ BitVec.ofBool x.vers ++
    (1 : BitVec 1) ++ BitVec.ofBool x.planar ++ BitVec.ofBool x.err ++
    (match x.st with | .empty => (0 : BitVec 2) | .filling => 1 | .ready => 2 | .draining => 3)

/-- A transaction barrier after its completion test (R215): a phase ends when every participant has arrived and no byte is
awaited. -/
def phase (b : TxBar) : TxBar :=
  if b.part ≠ 0 ∧ b.arrived = b.part ∧ b.bytes = 0 then { gen := b.gen + 1, part := b.part, arrived := 0, bytes := 0 } else b

/-- Wave `i` takes part in the phase and has not arrived. -/
def mayArrive (b : TxBar) (i : Nat) : Prop := b.part.getLsbD i = true ∧ b.arrived.getLsbD i = false

/-- The phase with wave `i` arrived. -/
def arriving (b : TxBar) (i : Nat) : TxBar := { b with arrived := b.arrived ||| BitVec.ofNat 32 (2 ^ i) }

/-- The copy that an instruction of R222 starts. -/
def startedCopy (s : State) (c : Issue) (w : Wave) (kind : CopyKind) (b : BitVec 4) (t : Nat) (p : CopyPlan) : Copy :=
  { wave := c.wave, wg := w.wg, ctx := s.ctxOf w.wg, cluster := s.coreOf w / 4, kind := kind, cw := p.cw, tile := t, geo := p.geo
    bad := p.bad, bar := b.toNat, priv := w.priv, fmtchk := (s.ctxD (s.ctxOf w.wg)).fmtchk.getLsbD 0, token := p.cw.wen
    started := !p.cw.wen, seq := w.icount.toNat, inTx := s.inAttempt w }

/-- The copy `x` joins the copies in flight and the wave's open batch (R211, R214); it defers with BEN, WEN or SEN (R226). `t`: the
state with the tiles it uses marked. -/
def StartsCopy (i : Instr) (s t : State) (c : Issue) (w : Wave) (x : Copy) : Prop :=
  Becomes i s { t with fresh := t.fresh + 1, copies := t.copies.set t.fresh x } c fun w' =>
    if x.cw.ben = true ∨ x.cw.wen = true ∨ x.cw.sen = true then
      PassedDeferring s c { w with openB := w.openB ++ [t.fresh] } w'
    else Passed c { w with openB := w.openB ++ [t.fresh] } w'

/-- No reader, fill or store of a tile is in progress (R199). -/
def quiet (x : Tile) : Prop := (x.st = .ready ∨ x.st = .empty) ∧ x.refs = 0

/-- A tile whose fill begins (R198). -/
def filling (x : Tile) : Tile := { x with st := .filling, err := false, cause := 0, eaddr := 0, esub := 0 }

end Sys2Proof.Claims

section

open Sys2Proof Sys2Proof.Machine Sys2Proof.Claims

/-- R199, R212, R218, R220, R221: `TDECL` declares a region, `TBIND` binds a handle to a new empty tile and answers 1 (0 when the
cluster's table is full), `TSTAT` answers the status word of a bound tile and 0 for an unbound handle, `TREL` unbinds, and `TWAIT` of a
tile with no fill or store in progress and no error retires; nothing else changes. What the rules leave open here is the model's choice:
notes/assumptions/14.md. -/
def Obligations.TileHandles : Prop :=
  (∀ s c w g h t base pitch rows bytes mode, At s c w g h →
    ¬(1 < rows.toNat ∧ (w.sreg pitch.toNat).toInt < (bytes.toNat : Int)) →
    (mode = .read ∨ (s.wgD (s.txHome w.wg)).tx.st = .none ∨ (s.wgD (s.txHome w.wg)).tx.st = .done) →
    Becomes (.tdecl h t base pitch rows bytes mode) s
      { s with wgs := s.wgs.set w.wg { g with regions := g.regions.set t.toNat (regionIn w base pitch rows bytes mode) } }
      c (Passed c w)) ∧
  (∀ s c w g h d t planar rows width, At s c w g h → s.tilesIn (s.coreOf w / 4) < 512 → g.handles.get? t.toNat = none →
    Becomes (.tbind h d t planar rows width) s
      { s with
        fresh := s.fresh + 1
        tiles := s.tiles.set s.fresh
          { cluster := s.coreOf w / 4, ctx := s.ctxOf w.wg, planar := planar, rows := rows.toNat, width := width.toNat }
        wgs := s.wgs.set w.wg { g with handles := g.handles.set t.toNat s.fresh } } c (Answered h (some d) false 1 c w)) ∧
  (∀ s c w g h d t planar rows width, At s c w g h → 512 ≤ s.tilesIn (s.coreOf w / 4) → g.handles.get? t.toNat = none →
    Becomes (.tbind h d t planar rows width) s s c (Answered h (some d) false 0 c w)) ∧
  (∀ s c w g h d t, At s c w g h →
    (∀ k x, names s g t k x → x.rows < 4096 ∧ x.width < 65536 →
      Becomes (.tstat h d t) s s c (Answered h (some d) true (tstatWord x) c w)) ∧
    (g.handles.get? t.toNat = none → Becomes (.tstat h d t) s s c (Answered h (some d) true 0 c w))) ∧
  (∀ s c w g h t k x, At s c w g h → allowed s w → names s g t k x →
    Becomes (.trel h t) s (s.unbind w.wg t.toNat) c (Passed c w) ∧
    ((s.unbind w.wg t.toNat).wgD w.wg).handles = g.handles.del t.toNat ∧
    (s.unbind w.wg t.toNat).mem = s.mem) ∧
  (∀ s c w g h t k x, At s c w g h → allowed s w → w.dfault = none → names s g t k x → x.st = .ready ∨ x.st = .empty → x.err = false →
    Becomes (.twait h t) s s c (Blocked c w))

/-- R203 to R208, R211, R214, R222, R226: `TCOPY`, `TSTORE` and `TPLANE` start a copy when its region or block can be used, its tile's
kind is right, its barrier is initialised, its tiles are free for it and the wave has fewer than 64 copies in flight: the copy is in
flight, its tile is filling or draining, and the wave's registers are unchanged. R198, R204, R205, R211, R212, R217: a copy that waits
for a signalled token starts and consumes one; a plain copy into a tile whose bytes can all be read completes with the tile ready and
every byte of it the one the workgroup reads there, or the fill byte outside the valid part; it is then no longer in flight, and memory
is unchanged. What the rules leave open here is the model's choice: notes/assumptions/7.md and notes/assumptions/14.md. -/
def Obligations.CopiesStartAndComplete : Prop :=
  ((∀ s c w g h t a b cw k x p s1, At s c w g h → allowed s w → names s g t k x → g.shared.getLsbD t.toNat = false →
    s.planCopy w t (.s (a.setWidth 8)) cw false = .ok (p, s1) → (p.bad.isSome = true ∨ x.planar = p.cw.plane) →
    (cw.ben = false ∨ (g.tbars.get? b.toNat).isSome = true) → quiet x → s.copiesOf c.wave < 64 →
    StartsCopy (.tcopy h t a b cw) s { s1 with tiles := s1.tiles.set k (filling x) } c w (startedCopy s c w .load b k p)) ∧
  (∀ s c w g h t a b cw k x p s1, At s c w g h → allowed s w → names s g t k x →
    s.planCopy w t (.s (a.setWidth 8)) cw true = .ok (p, s1) → (p.bad.isSome = true ∨ x.planar = false) →
    (cw.ben = false ∨ (g.tbars.get? b.toNat).isSome = true) →
    (cw.blk = true ∨ s.inAttempt w = false ∨ s.storeDeclared w x p = true) →
    x.err = false → x.st = .ready → s.copiesOf c.wave < 64 →
    StartsCopy (.tstore h t a b cw) s { s1 with tiles := s1.tiles.set k { x with st := .draining } } c w
      (startedCopy s c w .store b k p)) ∧
  (∀ s c w g h t ts b cw k x j y, At s c w g h → allowed s w → names s g t k x → names s g ts j y → k ≠ j →
    g.shared.getLsbD t.toNat = false → x.planar = true → y.planar = false → cw.plane = true →
    (cw.rect x).1 ≤ y.rows → (cw.rect x).2 ≤ y.width → (cw.ben = false ∨ (g.tbars.get? b.toNat).isSome = true) →
    y.err = false → y.st = .ready → quiet x → s.copiesOf c.wave < 64 →
    StartsCopy (.tplane h t ts b cw) s
      { s with tiles := (s.tiles.set k (filling x)).set j { y with refs := y.refs + 1 } } c w
      (startedCopy s c w (.plane j) b k
        { geo := { base := 0, pitch := y.width, vrows := y.rows, vbytes := y.width }, cw := cw }))) ∧
  ((∀ s k x w, s.copies.get? k = some x → s.waves.get? x.wave = some w → x.token = true → 0 < w.tok x.cw.wtok.toNat →
    s.olderConsumer x.wave x.cw.wtok.toNat k = false →
    exec (.copyStart k) s = .next { s with
      copies := s.copies.set k { x with token := false, started := true }
      waves := s.waves.set x.wave { w with toks := w.toks.set x.cw.wtok.toNat (w.tok x.cw.wtok.toNat - 1) } }) ∧
  (∀ s k x t, s.copies.get? k = some x → s.tiles.get? x.tile = some t → x.kind = .load → x.started = true → x.bad = none →
    x.cw.plane = false → x.cw.src = .elems → t.planar = false → t.released = false → s.depOf x.wg = none →
    let v := x.geo.valid (t.rows, t.width)
    ∀ pa : Nat → Nat → Nat,
    (∀ r, r < v.1 → ∀ n, n < v.2 → s.translate (s.whoCp x.ctx x.cluster x.priv) .load (x.geo.row r + BitVec.ofNat 64 n) =
        .ok (pa r n) ∧ s.poisoned (pa r n) 1 = false) →
    (∀ r n, r < v.1 → n + 1 < v.2 → ((x.geo.row r).toNat + n + 1) % 32 ≠ 0 → pa r (n + 1) = pa r n + 1) →
    ∃ u t', exec (.copyComplete k) s = .next u ∧ u.copies = s.copies.del k ∧ u.mem = s.mem ∧ u.tiles.get? x.tile = some t' ∧
      t'.st = .ready ∧ t'.err = t.err ∧
      ∀ r n, r < t.rows → n < t.width →
        if r < v.1 ∧ n < v.2 then
          ∃ b, t'.bytes.get? (r * t.width + n) = some b ∧
            readsAs s x.wg (x.geo.row r + BitVec.ofNat 64 n) (s.readByte (x.cluster / 60) (pa r n)) b
        else t'.bytes.get? (r * t.width + n) = some (if x.cw.fill then 0xFF else 0)))

/-- R215, R224: `BINIT` sets a transaction barrier, `BEXPECT` adds awaited bytes (and arrives with `.arr`), `BARRIVE` arrives and
answers the generation it arrived in, a phase completes when every participant has arrived and no byte is awaited, and `BWAIT` retires
once the barrier's generation is past the one named. R214, R217, R225: `KSIG` signals a token whose count is below 255, `KWAIT` consumes
a signal that no older consumer waits for, `CSEAL` closes the open batch under the next number and answers it, and `CWAIT` retires when
at most the given number of sealed batches, or no batch up to the given number, is unfinished. What the rules leave open here is the
model's choice: notes/assumptions/14.md. -/
def Obligations.BarriersTokensAndBatches : Prop :=
  ((∀ s c w g h b gen part, At s c w g h → allowed s w → part.toNat < 2 ^ g.waves.length →
    Becomes (.binit h b gen part) s
      { s with wgs := s.wgs.set w.wg { g with tbars := g.tbars.set b.toNat { gen := rd32 w 0 gen, part := part, arrived := 0, bytes := 0 } } }
      c (PassedDeferring s c w)) ∧
  (∀ s c w g h b n nb arr x, At s c w g h → allowed s w → g.tbars.get? b.toNat = some x →
    (arr = true → mayArrive x w.idx ∧ s.posted c.wave 0xFFFFFFFF = false) →
    let y : TxBar := { x with bytes := x.bytes + rd32 w 0 n + nb }
    Becomes (.bexpect h b n nb arr) s
      { s with wgs := s.wgs.set w.wg { g with tbars := g.tbars.set b.toNat (phase (if arr then arriving y w.idx else y)) } }
      c (PassedDeferring s c w)) ∧
  (∀ s c w g h d b x, At s c w g h → allowed s w → g.tbars.get? b.toNat = some x → mayArrive x w.idx →
    s.posted c.wave 0xFFFFFFFF = false →
    Becomes (.barrive h d b) s
      { s with wgs := s.wgs.set w.wg { g with tbars := g.tbars.set b.toNat (phase (arriving x w.idx)) } }
      c (fun w' => ∃ w0, Defers s c w w0 ∧ Answered h d false (x.gen.setWidth 64) c w0 w')) ∧
  (∀ s c w g h b gen x, At s c w g h → allowed s w → g.tbars.get? b.toNat = some x → 0 < (x.gen - rd32 w 0 gen).toInt →
    Becomes (.bwait h b gen) s s c (Blocked c w)) ∧
  (∀ s c w g h b gen x, At s c w g h → allowed s w → g.tbars.get? b.toNat = some x → (x.gen - rd32 w 0 gen).toInt ≤ 0 →
    exec (.bwait h b gen) s = .next { s.waitAt c true with cur := none })) ∧
  ((∀ s c w g h k, At s c w g h → allowed s w → w.tok k.toNat < 255 →
    Becomes (.ksig h k) s s c (PassedDeferring s c { w with toks := w.toks.set k.toNat (w.tok k.toNat + 1) })) ∧
  (∀ s c w g h k, At s c w g h → allowed s w → w.dfault = none → 0 < w.tok k.toNat →
    s.olderConsumer c.wave k.toNat (match w.kwaits.find? fun x => x.1 == c.path with | some x => x.2.2 | none => s.fresh) = false →
    Becomes (.kwait h k) s s c (fun w' => ∃ w0, Defers s c w w0 ∧ Blocked c
      { w0 with
        toks := w.toks.set k.toNat (w.tok k.toNat - 1)
        kwaits := w.kwaits.filter fun x => x.1 != c.path } w')) ∧
  (∀ s c w g h d, At s c w g h → allowed s w → w.sealedB.length < 16 →
    Becomes (.cseal h d) s s c (Answered h d false (w.nextB.setWidth 64) c
      { w with
        sealedB := (w.sealedB ++ [(w.nextB, w.openB)]).dropWhile fun b => b.2.isEmpty
        openB := [], nextB := w.nextB + 1 })) ∧
  (∀ s c w g h a, At s c w g h → allowed s w → w.sealedB.length ≤ (rd32 w 0 a).toNat →
    Becomes (.cwait h a) s s c (Blocked c w)) ∧
  (∀ s c w g h a, At s c w g h → allowed s w → (rd32 w 0 a - w.nextB).toInt < 0 →
    0 < ((match w.sealedB with | [] => w.nextB | b :: _ => b.1) - rd32 w 0 a).toInt →
    Becomes (.cwaitTo h a) s s c (Blocked c w)))

end

namespace Sys2Proof.Claims

open Sys2Proof Sys2Proof.Machine

/-! ## Matrix instructions and the engine (09_matrix) -/

/-- A matrix instruction that issues where it may act (R243, R246): every live strand of the wave executes it in one path, no
deferred engine fault waits, and the transaction rules allow it. -/
structure Ready (s : State) (c : Issue) (w : Wave) (g : Wg) (h : Hd) : Prop where
  issue : Issuing s c w
  wg    : s.wgs.get? w.wg = some g
  all   : w.enabled c.mask h = w.liveMask
  tx    : allowed s w
  fault : w.dfault = none

/-- The entry that a matrix instruction posts (R239, R242, R243). -/
def entryOf (s : State) (c : Issue) (w : Wave) (cmd : MxCmd) (ch : Chain) (total : Nat) : Entry :=
  { cluster := s.coreOf w / 4, wave := c.wave, wg := w.wg, ctx := s.ctxOf w.wg, cmd := cmd, ch := ch, priv := w.priv, pc := c.pc
    marked := (s.engineD (s.coreOf w / 4)).baton == some c.wave, token := ch.wen, total := total, granted := 0, busy := false
    done := 0, inTx := s.inAttempt w, seq := w.icount.toNat }

/-- The instruction posts one entry and retires (R239): REFS of every tile that the command reads or fills steps; the wave is
`w0` but for what retiring changes. -/
def Posts (i : Instr) (s : State) (c : Issue) (w w0 : Wave) (cmd : MxCmd) (ch : Chain) (total : Nat) : Prop :=
  Becomes i s
    { s with
      fresh := s.fresh + 1
      entries := s.entries.set s.fresh (entryOf s c w cmd ch total)
      tiles := (cmd.reads ++ cmd.fills).foldl (fun t k => t.upd k fun x => { x with refs := x.refs + 1 }) s.tiles } c
    (Passed c w0)

/-- The cluster's reservation table has a free entry (R239). -/
def tableFree (s : State) (w : Wave) : Prop := (s.entries.filter fun e => e.2.cluster == s.coreOf w / 4).length < 32

/-- A tile that a command can read at once (R199, R249): bound, without error, ready. -/
def readyTile (s : State) (g : Wg) (t : BitVec 5) (k : Nat) (x : Tile) : Prop := names s g t k x ∧ x.err = false ∧ x.st = .ready

/-- The mask or scale tile of a pass is a third operand (R246). -/
def third (o : Mma) : Bool := o.p.opk == 2 || o.p.opk == 3

/-- The word of `MSTAT` (R255). -/
def mstatWord (s : State) (c : Issue) (w : Wave) : BitVec 64 :=
  let e := s.engineD (s.coreOf w / 4)
  let slot := if e.hold0 = some c.wave then some 0 else if e.hold1 = some c.wave then some 1 else none
  (0 : BitVec 32) ++ (match w.dfault with | some d => BitVec.ofNat 8 d.cause.code | none => 0) ++ (0 : BitVec 5) ++ w.lrung ++
    BitVec.ofBool (slot.isSome && s.inAttempt w) ++ BitVec.ofBool (slot == some 1) ++ BitVec.ofBool slot.isSome ++
    BitVec.ofBool e.baton.isSome ++ BitVec.ofBool (e.baton == some c.wave) ++
    BitVec.ofNat 6 (32 - (s.entries.filter fun x => x.2.cluster == s.coreOf w / 4).length) ++
    BitVec.ofNat 6 (s.entries.filter fun x => x.2.wave == c.wave).length

/-- Element (r, c) of an accumulator slot. -/
def accElem (t : Tab (BitVec 32)) (r c : Nat) : BitVec 32 := t.getD (256 * r + c) 0

end Sys2Proof.Claims

section

open Sys2Proof Sys2Proof.Machine Sys2Proof.Claims

/-- R239, R242, R246, R248 to R250, R252, R253, R256: each of the six commands posts one entry to its cluster's reservation table and
retires when its tiles are bound, of the right form and can be used and the table has room; nothing else changes. What the rules leave
open here is the model's choice: notes/assumptions/15.md. -/
def Obligations.MatrixCommandsPost : Prop :=
  (∀ s c w g h acc mb1 nb1 ch, Ready s c w g h → tableFree s w →
    Posts (.mzero h acc mb1 nb1 ch) s c w w (.mzero acc.toNat (mb1.toNat + 1) (nb1.toNat + 1)) ch 1) ∧
  (∀ s c w g h acc ts mb1 nb1 fmt row0 ch k x, Ready s c w g h → tableFree s w → readyTile s g ts k x → x.planar = false →
    row0.toNat + 64 * (mb1.toNat + 1) ≤ x.rows → 64 * (nb1.toNat + 1) * (match fmt with | .f32 => 4 | _ => 2) ≤ x.width →
    Posts (.mldc h acc ts mb1 nb1 fmt row0 ch) s c w w (.mldc acc.toNat (mb1.toNat + 1) (nb1.toNat + 1) fmt row0.toNat k) ch 1) ∧
  (∀ s c w g o ka a kb b kc m, Ready s c w g o.h → tableFree s w → readyTile s g o.ta ka a → readyTile s g o.tb kb b →
    formA o.p (o.p.mb1.toNat + 1) a = true → formB o.p (o.p.nb1.toNat + 1) b = true →
    (third o = true → readyTile s g o.tc kc m ∧
      formC o.p (o.p.mb1.toNat + 1) (o.p.nb1.toNat + 1) (some (if o.p.psel then b else a)) m = true) →
    (o.p.fix = false ∨ s.inAttempt w = false) →
    Posts (.mma o) s c w w
      (.mma o.acc.toNat o.p (some ka) (some kb) (if third o then some kc else none) (if o.p.fix then o.p.xrung else s.rungOf w.wg) none)
      o.ch ((o.p.mb1.toNat + 1) * (o.p.nb1.toNat + 1) * (o.p.nk1.toNat + 1))) ∧
  (∀ s c w g o ka a kb b kc m, Ready s c w g o.h → tableFree s w → g.lin % 2 = 0 → readyTile s g o.ta ka a →
    readyTile s g o.tb kb b → formA o.p 2 a = true → formB o.p 4 b = true →
    (third o = true → readyTile s g o.tc kc m ∧ formC o.p 2 4 (some (if o.p.psel then b else a)) m = true) →
    (o.p.fix = false ∨ s.inAttempt w = false) →
    Posts (.mmap o) s c w { w with mmapN := w.mmapN + 1 }
      (.mma o.acc.toNat o.p (some ka) (some kb) (if third o then some kc else none) (if o.p.fix then o.p.xrung else s.rungOf w.wg)
        (some w.mmapN)) o.ch (8 * (o.p.nk1.toNat + 1))) ∧
  (∀ s c w g o kb b kc m, Ready s c w g o.h → tableFree s w → g.lin % 2 = 1 → o.ta = 0 →
    readyTile s g o.tb kb b → formB o.p 4 b = true →
    (third o = true → readyTile s g o.tc kc m ∧ formC o.p 2 4 (if o.p.psel then some b else none) m = true) →
    (o.p.fix = false ∨ s.inAttempt w = false) →
    Posts (.mmap o) s c w { w with mmapN := w.mmapN + 1 }
      (.mma o.acc.toNat o.p none (some kb) (if third o then some kc else none) (if o.p.fix then o.p.xrung else s.rungOf w.wg)
        (some w.mmapN)) o.ch (8 * (o.p.nk1.toNat + 1))) ∧
  (∀ s c w g o fs geo, Ready s c w g o.h → tableFree s w → s.tilesOf w.wg o.fills = some fs →
    (∀ t ∈ o.fills, g.shared.getLsbD t.toNat = false) →
    (∀ x ∈ fs.zip o.needs, x.1.2.planar = false ∧ x.2.1 ≤ x.1.2.rows ∧ x.2.2 ≤ x.1.2.width) →
    s.drainGeo w o = .ok geo → s.drainDeclared w o geo = true → (∀ x ∈ fs, quiet x.2) →
    ∃ td tt tq, Posts (.mdrain o) s c w w (.mdrain o td tt tq geo (w.sreg o.areg.toNat)) o.ch 1 ∧
      (td = match g.handles.get? o.td.toNat with | some k => if (s.tiles.get? k).isSome then some k else none | none => none) ∧
      (tt = if o.ten then g.handles.get? o.tt.toNat else none) ∧
      (tq = if (drainFmt o.ofmt.toNat).2 = 2 then g.handles.get? o.tq.toNat else none)) ∧
  (∀ s c w g h td ts of8 ch k x j y, Ready s c w g h → tableFree s w → names s g td k x → readyTile s g ts j y → k ≠ j →
    g.shared.getLsbD td.toNat = false → x.planar = true → y.planar = true → y.width % 48 = 0 → x.rows = y.rows → 2 * x.width = y.width →
    quiet x → Posts (.mnmsel h td ts of8 ch) s c w w (.mnmsel of8 k j) ch 1)

/-- R242, R246, R254, R255: `MBATON` gives the baton to a live wave of the workgroup when it is free or the wave's own, `MREL` releases
it where the wave holds it, `MSTAT` answers the status word of the wave and its cluster; nothing else changes. R243: a wave with a
deferred engine fault takes it, with the address of the instruction that posted it, at its next `IDEM`, `TWAIT`, `KWAIT` or matrix
instruction, in place of that instruction's effect. What the rules leave open here is the model's choice: notes/assumptions/15.md. -/
def Obligations.BatonStatusAndFaults : Prop :=
  ((∀ s c w g h a u, Ready s c w g h → (rdU w a).toNat < 32 →
    ((s.liveWaves w.wg).find? fun v => (s.waveD v).idx == (rdU w a).toNat) = some u →
    ((s.engineD (s.coreOf w / 4)).baton = none ∨ (s.engineD (s.coreOf w / 4)).baton = some c.wave) →
    Becomes (.mbaton h a) s
      { s with engines := s.engines.set (s.coreOf w / 4) { s.engineD (s.coreOf w / 4) with baton := some u } } c (Passed c w)) ∧
  (∀ s c w g h, Ready s c w g h →
    Becomes (.mrel h) s
      { s with engines := s.engines.set (s.coreOf w / 4) { s.engineD (s.coreOf w / 4) with
          baton := if (s.engineD (s.coreOf w / 4)).baton = some c.wave then none else (s.engineD (s.coreOf w / 4)).baton } } c
      (Passed c w)) ∧
  (∀ s c w g h d, Ready s c w g h → (s.entries.filter fun x => x.2.cluster == s.coreOf w / 4).length ≤ 32 →
    (s.entries.filter fun x => x.2.wave == c.wave).length < 64 →
    Becomes (.mstat h d) s s c (Answered h (some d) true (mstatWord s c w) c w))) ∧
  (∀ s c w g d, Issuing s c w → s.wgs.get? w.wg = some g → w.dfault = some d → allowed s w → ∀ i,
    ((∃ v m, i = .idem v m) ∨ (∃ h t, i = .twait h t ∧ w.enabled c.mask h ≠ 0) ∨ (∃ h k, i = .kwait h k ∧ w.enabled c.mask h ≠ 0) ∨
      (∃ h, i = .mrel h ∧ w.enabled c.mask h = w.liveMask) ∨ (∃ h e, i = .mstat h e ∧ w.enabled c.mask h = w.liveMask) ∨
      (∃ h a m n ch, i = .mzero h a m n ch ∧ w.enabled c.mask h = w.liveMask) ∨
      (∃ o, i = .mma o ∧ w.enabled c.mask o.h = w.liveMask) ∨ (∃ o, i = .mdrain o ∧ w.enabled c.mask o.h = w.liveMask)) →
    exec i s = .next
      { ({ s with waves := s.waves.set c.wave { w with dfault := none } } : State).takeTrap c
          { cause := d.cause, info := if d.cause = .illegalOperand then 0xA else BitVec.ofNat 64 d.cause.code } (.deferred d.pc) with
        cur := none, tick := s.tick + 1 })

/-- R240, R241: the arbiter's choice is an entry of the cluster that takes part in arbitration (with its partner, for an `MMAP`), has
the highest priority of those, and is the oldest of these; `ENGINE_GRANT` of such a choice that is no `MMAP` and whose next pass meets
no fault runs it, and its wave holds a slot where it needs one. R231,
R239, R244, R248: a pass of an `MMA` that ends adds the group dots of each element of its 64 by 64 view, in order, in FP32, to the
element, and leaves every element outside the view; the end of an `MZERO` makes every element of its views +0 and leaves the others; the
entry's pass is then done, and memory is unchanged. A command all of whose passes are done completes: its entry is gone, the token that
it signals has one more signal (255 at most), and one that frees its slot leaves its wave without it. What the rules leave open here is
the model's choice: notes/assumptions/15.md. -/
def Obligations.EngineRunsCommands : Prop :=
  ((∀ (s : State) cl k e, (s.entries.map (·.1)).Pairwise (· < ·) → s.arbiter cl = some (k, e) →
    (k, e) ∈ s.entries ∧ e.cluster = cl ∧ s.contends k e = true ∧
    ∀ j x, (j, x) ∈ s.entries → x.cluster = cl → s.contends j x = true → x.ch.pri ≤ e.ch.pri ∧ (x.ch.pri = e.ch.pri → k ≤ j)) ∧
  (∀ s cl k e w, s.engineBusy cl = false → s.arbiter cl = some (k, e) → e.pairN = none → s.passFault e = none →
    s.waves.get? e.wave = some w → s.coreOf w / 4 = e.cluster →
    ∃ t, exec (.engineGrant cl) s = .next t ∧ t.mem = s.mem ∧ t.wgs = s.wgs ∧
      t.entries = s.entries.set k { e with token := false, granted := e.granted + 1, busy := true } ∧
      (e.needsSlot = true → (t.engineD e.cluster).hold0 = some e.wave ∨ (t.engineD e.cluster).hold1 = some e.wave) ∧
      (e.needsSlot = false → t.engines = s.engines))) ∧
  (((∀ s cl k e acc p ta tb tc r ops, (s.entries.filter fun x => x.2.cluster == cl).find? (·.2.busy) = some (k, e) →
    s.entries.get? k = some e → e.cluster = cl →
    e.cmd = .mma acc p ta tb tc r none → e.inTx = false → s.entryOps e (e.granted - 1) = .ok ops →
    ((s.accOf e).map (·.1)).Pairwise (· < ·) → acc < 8 → acc % 4 + p.nb1.toNat < 4 →
    let at_ := passAt acc (p.mb1.toNat + 1) (p.nb1.toNat + 1) (e.granted - 1)
    ∃ t, exec (.passComplete cl) s = .next t ∧ t.mem = s.mem ∧ t.waves = s.waves ∧ t.wgs = s.wgs ∧
      t.entries = s.entries.set k { e with busy := false, done := e.granted } ∧
      (∀ i j, i < 64 → j < 64 → accElem (t.accOf e) (64 * at_.2.1 + i) (64 * at_.2.2 + j) =
        BitVec.ofNat 32 (accumulate (accElem (s.accOf e) (64 * at_.2.1 + i) (64 * at_.2.2 + j)).toNat
          (((ops.dots (planesOf r)).getD i []).getD j []))) ∧
      ∀ i j, j < 256 → ¬(i / 64 = at_.2.1 ∧ j / 64 = at_.2.2) → accElem (t.accOf e) i j = accElem (s.accOf e) i j) ∧
  (∀ s cl k e acc mb nb, (s.entries.filter fun x => x.2.cluster == cl).find? (·.2.busy) = some (k, e) →
    s.entries.get? k = some e → e.cluster = cl → e.cmd = .mzero acc mb nb → e.inTx = false →
    ((s.accOf e).map (·.1)).Pairwise (· < ·) →
    ∃ t, exec (.passComplete cl) s = .next t ∧ t.mem = s.mem ∧ t.waves = s.waves ∧ t.wgs = s.wgs ∧ t.tiles = s.tiles ∧
      t.entries = s.entries.set k { e with busy := false, done := e.granted } ∧
      ∀ i j, j < 256 → accElem (t.accOf e) i j =
        if acc / 4 ≤ i / 64 ∧ i / 64 < acc / 4 + mb ∧ acc % 4 ≤ j / 64 ∧ j / 64 < acc % 4 + nb then 0
        else accElem (s.accOf e) i j)) ∧
  (∀ s k e w, s.entries.get? k = some e → e.busy = false → e.granted ≠ 0 → e.granted = e.total → s.waves.get? e.wave = some w →
    ∃ t, exec (.engineCommandComplete k) s = .next t ∧ t.entries = s.entries.del k ∧ t.mem = s.mem ∧
      (t.waveD e.wave).toks = (if e.ch.sen then w.toks.set e.ch.stok.toNat (min 255 (w.tok e.ch.stok.toNat + 1)) else w.toks) ∧
      (e.freeing = true → (t.engineD e.cluster).hold0 ≠ some e.wave ∧ (t.engineD e.cluster).hold1 ≠ some e.wave)))

end

namespace Sys2Proof.Claims

open Sys2Proof Sys2Proof.Machine

/-! ## Transactions (10_transactions) -/

/-- The transaction of a wave's workgroup: the one of the even half of a pair (R288). -/
def txOf (s : State) (w : Wave) : Tx := (s.wgD (s.txHome w.wg)).tx

/-- The word of `TXSTAT` (R284): for selector 0 the status bits with the rung, the start rung and whether the wave is in the
attempt; for 1 the underresolved and the nonzero elements; for 2 the tripped dots; each count saturates at 32 bits. -/
def txstatWord (s : State) (w : Wave) (sel : BitVec 2) : BitVec 64 :=
  let x := txOf s w
  let sat := fun (n : Nat) => BitVec.ofNat 32 (min n 0xFFFFFFFF)
  if s.isTxn w.wg = false then 0
  else if sel = 0 then
    x.status ||| ((0 : BitVec 59) ++ BitVec.ofBool (s.inAttempt w) ++ x.start ++ x.rung)
  else if sel = 1 then sat x.n ++ sat x.u
  else (0 : BitVec 32) ++ sat x.td

/-- Every wave of a workgroup has ended, and its versions and barriers are gone (R265); its queues stay as they are (R317). -/
def Discarded (s t : State) (g : Nat) : Prop :=
  (∀ u ∈ (s.wgD g).waves, (t.waveD u).st = .ended) ∧ (t.wgD g).ver = [] ∧ (t.wgD g).bars = [] ∧ (t.wgD g).tbars = [] ∧
    (t.wgD g).queues = (s.wgD g).queues

/-- A workgroup waits for its dispatch at a rung, its counters at zero (R265, R266). -/
def Requeued (s t : State) (g : Nat) (r : BitVec 2) : Prop :=
  Discarded s t g ∧ (t.wgD g).st = .replay ∧ (t.wgD g).tx.st = .none ∧ (t.wgD g).tx.rung = r ∧ (t.wgD g).tx.n = 0 ∧
    (t.wgD g).tx.u = 0 ∧ (t.wgD g).tx.td = 0 ∧ (t.wgD g).tx.gate = none

/-- No monitor trips (R270). -/
def untripped (s : State) (g : Nat) : Prop :=
  trips (s.txmonOf g) { n := (s.wgD g).tx.n, u := (s.wgD g).tx.u, td := (s.wgD g).tx.td, half := (s.wgD g).tx.half, nf := (s.wgD g).tx.nf } =
    (false, false, false)

end Sys2Proof.Claims

section

open Sys2Proof Sys2Proof.Machine Sys2Proof.Claims

/-- R260, R262, R264, R281: a converged `TXBEGIN` of a transactional workgroup outside an attempt joins the wave to the attempt and
answers its rung; the first one opens the attempt with its counters at zero, no gate and the write regions declared so far. R276, R277,
R284, R285, R286: `TXSTAT` answers its word, `TXPRED.rd` the history entry of a key in the die's table, `TXPRED.wr` writes or removes it
in all four tables and changes no other entry, and `TXGATE` records the gate of the attempt; nothing else changes. What the rules leave
open here is the model's choice: notes/assumptions/16.md. -/
def Obligations.TransactionsOpenAndReport : Prop :=
  (∀ s c w h early d g, Issuing s c w → w.enabled c.mask h = w.liveMask → s.wgs.get? (s.txHome w.wg) = some g →
    s.isTxn (s.txHome w.wg) = true → s.inAttempt w = false → g.tx.st ≠ .done →
    ∃ w' gs g', exec (.txbegin h early d) s = .next { onlyWave s c w' with wgs := gs } ∧
      Answered h d false (g.tx.rung.setWidth 64) c { w with joined := true } w' ∧
      gs.get? (s.txHome w.wg) = some g' ∧ g'.tx.rung = g.tx.rung ∧ g'.tx.start = g.tx.start ∧
      (early = true → g'.tx.early = true) ∧ g' = { g with tx := g'.tx } ∧
      (g.tx.st ≠ .none → g'.tx = { g.tx with early := g'.tx.early }) ∧
      (g.tx.st = .none → g'.tx.st = .opened ∧ g'.tx.n = 0 ∧ g'.tx.u = 0 ∧ g'.tx.td = 0 ∧ g'.tx.nf = 0 ∧ g'.tx.gate = none ∧
        g'.tx.writes = s.writeRegions (s.txHome w.wg) ∧ g'.tx.binds = g.handles)) ∧
  ((∀ s c w h sel d, Issuing s c w → w.enabled c.mask h ≠ 0 →
    Becomes (.txstat h sel d) s s c (Answered h (some d) true (txstatWord s w sel) c w)) ∧
  (∀ s c w h d k idx wb, Issuing s c w → w.enabled c.mask h ≠ 0 → (rdU w idx).toNat < 2 ^ 32 →
    let key := histHash (w.sreg k.toNat) (rdU w idx) (w.sreg wb.toNat) (s.ctxOf w.wg)
    let e := s.hist.get? (s.coreOf w / 240 * 1024 + histIndex key)
    Becomes (.txpredRd h d k idx wb) s s c (Answered h (some { s := true, n := d.setWidth 8 }) true
      (match e with
        | some x => if x.tag = histTag key then (0 : BitVec 58) ++ (1 : BitVec 1) ++ BitVec.ofBool x.p ++ x.conf ++ x.rung else 0
        | none => 0) c w)) ∧
  (∀ s c w h d k idx wb, Issuing s c w → w.enabled c.mask h ≠ 0 → s.inAttempt w = false → s.txPending w.wg = false →
    (rdU w idx).toNat < 2 ^ 32 → (w.sreg d.toNat).toNat < 64 → (s.hist.map (·.1)).Pairwise (· < ·) →
    let key := histHash (w.sreg k.toNat) (rdU w idx) (w.sreg wb.toNat) (s.ctxOf w.wg)
    let x := w.sreg d.toNat
    ∃ hist', Becomes (.txpredWr h d k idx wb) s { s with hist := hist' } c (Passed c w) ∧
      ∀ n, hist'.get? n =
        if n / 1024 < 4 ∧ n % 1024 = histIndex key then
          (if x.getLsbD 5 then
            some { tag := histTag key, rung := x.extractLsb' 0 2, conf := x.extractLsb' 2 2, p := x.getLsbD 4 }
          else match s.hist.get? n with
            | some e => if e.tag = histTag key then none else some e
            | none => none)
        else s.hist.get? n) ∧
  (∀ s c w h a x g pa, Issuing s c w → w.enabled c.mask h ≠ 0 → s.inAttempt w = true → s.wgs.get? (s.txHome w.wg) = some g →
    g.tx.gate = none → checks s w 8 .load (w.sreg a.toNat) pa →
    Becomes (.txgate h a x) s
      { s with wgs := s.wgs.set (s.txHome w.wg) { g with tx := { g.tx with
          gate := some { addr := w.sreg a.toNat, epoch := rd32 w 0 x, wave := c.wave } } } } c (Passed c w)))

/-- R275, R317: the word that a gate names is read, while no migration stalls writes, until its epoch is reached: while it is behind, the commit waits; when it is past, or the
trip word is not zero, the attempt's versions are discarded, the transaction is done with GATED and COMMITTED set and the waves go on;
when it is equal and the trip word is zero, the transaction commits. R265, R266, R270, R272, R283, R321, R386: `TXABORT.up` below rung
3, and a monitor that trips at the commit below rung 3, discard the attempt, leave its queues and requeue the workgroup one rung
higher; `TXABORT.up` at
rung 3 only records the request; `TXABORT.drop` ends the workgroup; memory is unchanged. What the rules leave open here is the model's
choice: notes/assumptions/16.md. -/
def Obligations.AttemptsGatedOrDiscarded : Prop :=
  (∀ s k x pa, let g := s.txHome k
    let w := s.waveD x.wave
    s.isDet g = false → s.stalling = false → s.gating g = true → (s.wgD g).tx.gate = some x → (s.allLive g).contains x.wave = true → checks s w 8 .load x.addr pa →
    let e := BitVec.ofNat 32 (ofBytes (s.readBytes (dieOf (s.coreOf w)) pa 4))
    let trip := ofBytes (s.readBytes (dieOf (s.coreOf w)) (pa + 4) 4)
    ∃ t, exec (.gateRead k) s = .next t ∧
      ((e - x.epoch).toInt < 0 → t = { s with mem := { s.mem with l1 := s.mem.l1.filter fun y => y.core != s.coreOf w } }) ∧
      (0 < (e - x.epoch).toInt ∨ (e = x.epoch ∧ trip ≠ 0) → (t.wgD g).tx.st = .done ∧ (t.wgD g).ver = [] ∧
        (t.wgD g).tx.status.getLsbD 10 = true ∧ (t.wgD g).tx.status.getLsbD 13 = true ∧ t.mem.cells = s.mem.cells ∧ t.mem.l2 = s.mem.l2) ∧
      (e = x.epoch → trip = 0 → (t.wgD g).tx.st = .done ∧ (t.wgD g).tx.status.getLsbD 13 = true)) ∧
  (((∀ s c w h, Issuing s c w → w.enabled c.mask h ≠ 0 → s.inAttempt w = true → (txOf s w).rung ≠ 3 →
    ∃ t, exec (.txabortUp h) s = .next t ∧ t.mem = s.mem ∧
      ∀ g ∈ s.halves (s.txHome w.wg), (s.wgs.get? g).isSome = true → Requeued s t g ((txOf s w).rung + 1)) ∧
  (∀ s c w h g, Issuing s c w → w.enabled c.mask h ≠ 0 → s.inAttempt w = true → s.wgs.get? (s.txHome w.wg) = some g → g.tx.rung = 3 →
    Becomes (.txabortUp h) s
      { s with wgs := s.wgs.set (s.txHome w.wg) { g with tx := { g.tx with swUp := true, status := g.tx.status ||| 0x100 } } } c (Passed c w)) ∧
  (∀ s c w h, Issuing s c w → w.enabled c.mask h ≠ 0 → s.inAttempt w = true → s.txPending (s.txHome w.wg) = true →
    ∃ t, exec (.txabortDrop h) s = .next t ∧ t.mem = s.mem ∧
      ∀ g ∈ s.halves (s.txHome w.wg), (s.wgs.get? g).isSome = true →
        Discarded s t g ∧ (t.wgD g).st = .ended ∧ (t.wgD g).killed = true)) ∧
  (∀ s k, let g := s.txHome k
    s.isDet g = false → s.stalling = false → s.commitReady g = true → ¬untripped s g → (s.wgD g).tx.toptrip = false → (s.wgD g).tx.rung ≠ 3 →
    ∃ t, exec (.txCommitProceed k) s = .next t ∧ t.mem = s.mem ∧ Requeued s t g ((s.wgD g).tx.rung + 1)))

/-- R190, R270, R272, R274, R279, R282: a converged `TXCOMMIT` in an attempt waits for the commit, in the blocking set, and nothing but
its wave changes. When every live wave waits so, nothing of the attempt is outstanding, no monitor trips, no gate is set and no
migration stalls writes, the commit
proceeds: the transaction is done with COMMITTED set, the versions are gone, no live wave waits for the commit any more, and a version
of one sector whose address translates stands in memory where the die reads it. What the rules leave open here is the model's choice:
notes/assumptions/7.md and notes/assumptions/16.md. -/
def Obligations.CommitsWaitAndPublish : Prop :=
  (∀ s c w h, Issuing s c w → w.enabled c.mask h = w.liveMask → s.inAttempt w = true → ∃ w',
    exec (.txcommit h) s = .next (onlyWave s c w') ∧
    w' = { w with
      strands := w'.strands, commitWait := true, turnOver := true
      paths := w.paths.map fun p => if p.born == c.path then
        { p with wait := .reply, edge := if p.edge = .mid then .event else p.edge, next := c.next } else p } ∧
    ∀ i, w'.strand i = if i < 32 ∧ c.mask.getLsbD i = true then { w.strand i with latN := 0 } else w.strand i) ∧
  (∀ s k, let g := s.txHome k
    s.isDet g = false → s.stalling = false → s.commitReady g = true → untripped s g → (s.wgD g).tx.toptrip = false → (s.wgD g).tx.swUp = false →
    (s.wgD g).tx.gate = none → (s.wgD g).tx.maxes = [] → (∀ h ∈ s.halves g, s.depOf h = none) →
    s.memWf = true →
    ∃ t, exec (.txCommitProceed k) s = .next t ∧ (t.wgD g).tx.st = .done ∧ (t.wgD g).tx.status.getLsbD 13 = true ∧ (t.wgD g).ver = [] ∧
      (∀ u ∈ s.allLive g, (t.waveD u).commitWait = false ∧ (t.waveD u).s = (s.waveD u).s) ∧
      ∀ sec lev pa d, (∀ e ∈ (s.wgD g).ver, e.1 / 32 = sec ∧ e.2.2 = lev) →
        ((s.wgD g).ver.map (·.1)).Pairwise (· < ·) →
        s.translate { s.whoLs (s.waveD (s.firstLive g)) with priv := lev } .store (BitVec.ofNat 64 (sec * 32)) = .ok pa →
        place pa = .cell d .cached → ∀ a b, (s.wgD g).ver.get? a = some (b, lev) →
          t.readByte (dieOf (s.coreOf (s.waveD (s.firstLive g)))) (pa + a % 32) = b)

/-- R85, R199, R218, R246, R260, R281, R282: an instruction of the tile class that reads an unbound handle traps TILE_UNDECLARED, and
one that waits for a tile in error traps COPY_ERROR with what the tile recorded; a matrix instruction, `TXBEGIN` and `TXCOMMIT` that not
every live strand of the wave executes in one path trap ILLEGAL_CONVERGENCE; `TXBEGIN` of a workgroup that is not transactional, in an
attempt or after the transaction, and `TXCOMMIT`, `TXABORT` and `TXGATE` outside an attempt, trap QUEUE_MISUSE. What the rules leave
open here is the model's choice: notes/assumptions/11.md and notes/assumptions/16.md. -/
def Obligations.ClassChecksTrap : Prop :=
  (∀ s c w g h t, At s c w g h → allowed s w → w.dfault = none →
    (g.handles.get? t.toNat = none → ∀ i, (i = .trel h t ∨ i = .twait h t ∨ (∃ a b cw, i = .tcopy h t a b cw) ∨
        (∃ a b cw, i = .tstore h t a b cw)) →
      exec i s = .next { s.takeTrap c { cause := .tileUndeclared } .precise with cur := none, tick := s.tick + 1 }) ∧
    (∀ k x, names s g t k x → x.err = true → x.st = .ready →
      exec (.twait h t) s = .next { s.takeTrap c
        { cause := .copyError, addr := x.eaddr
          info := BitVec.ofNat 64 (x.cause.toNat + x.esub.toNat * 2 ^ 8 + t.toNat * 2 ^ 12) } .precise with
        cur := none, tick := s.tick + 1 })) ∧
  (∀ s c w h i, Issuing s c w → w.enabled c.mask h ≠ w.liveMask →
    ((∃ a m n ch, i = .mzero h a m n ch) ∨ (∃ a t m n f r ch, i = .mldc h a t m n f r ch) ∨ (∃ o, o.h = h ∧ i = .mma o) ∨
      (∃ o, o.h = h ∧ i = .mmap o) ∨ (∃ o, o.h = h ∧ i = .mdrain o) ∨ (∃ td ts f ch, i = .mnmsel h td ts f ch) ∨
      (∃ a, i = .mbaton h a) ∨ i = .mrel h ∨ ∃ d, i = .mstat h d) →
    exec i s = .next { s.takeTrap c { cause := .illegalConvergence } .precise with cur := none, tick := s.tick + 1 }) ∧
  (∀ s c w h, Issuing s c w →
    (w.enabled c.mask h ≠ w.liveMask → ∀ i, ((∃ e d, i = .txbegin h e d) ∨ i = .txcommit h) →
      exec i s = .next { s.takeTrap c { cause := .illegalConvergence } .precise with cur := none, tick := s.tick + 1 }) ∧
    (w.enabled c.mask h = w.liveMask → w.liveMask ≠ 0 → ∀ i,
      ((∃ e d, i = .txbegin h e d ∧ (s.isTxn (s.txHome w.wg) = false ∨ s.inAttempt w = true ∨ (txOf s w).st = .done)) ∨
        ((i = .txcommit h ∨ i = .txabortUp h ∨ i = .txabortDrop h ∨ ∃ a x, i = .txgate h a x) ∧ s.inAttempt w = false)) →
      exec i s = .next { s.takeTrap c { cause := .queueMisuse } .precise with cur := none, tick := s.tick + 1 }))

end

namespace Sys2Proof.Claims

open Sys2Proof Sys2Proof.Machine

/-! ## Atomics and requests to the atomic service units (11_sync R292 to R298, R307, R308, R314, R315, 13_groups_stamps) -/

/-- A class that no attempt may execute lets the instruction act (R261, R263). -/
def outside (s : State) (w : Wave) : Prop := s.inAttempt w = false ∧ s.txPending w.wg = false

/-- The instruction is at no staging point of a release round (R340). -/
def unstaged (s : State) (c : Issue) (w : Wave) : Prop := s.isDet w.wg = false ∧ c.go = false

/-- The address of an atomic (R295): base and offset by sign. -/
def atomicAddr (w : Wave) (i : Nat) (o : Atomic) : BitVec 64 := BitVec.ofInt 64 (((rd64 w i o.a).toNat : Int) + (o.off.getD 0).toInt)

/-- The operand b of an atomic, as its type reads it (R33, R295). -/
def atomicB (w : Wave) (i : Nat) (o : Atomic) : BitVec 64 :=
  rdTy (match o.t with | .f32 => .f32 | .s64 => .s64 | .z64 => .z64 | .s32 => .s32 | .z32 => .z32) w i o.b

/-- The swap value of `ACAS` (R296): the destination's value. -/
def swapOf (w : Wave) (i : Nat) (o : Atomic) : BitVec 64 :=
  if o.d.s then w.sreg o.d.n.toNat
  else if o.t.bits = 64 then (w.strand i).v64 o.d.n.toNat else ((w.strand i).v32 o.d.n.toNat).setWidth 64

/-- Per slot of a mask, the count of latch values of a wave (R38). -/
def latchCounts (w : Wave) (m : BitVec 32) : Tab Nat :=
  (List.range 32).filterMap fun j => if m.getLsbD j then some (j, (w.strand j).pushes) else none

/-- The request of an atomic of slot `i` (R292 to R298); for one that returns a value, with the latch counts at its issue. -/
def atomicReq (s : State) (c : Issue) (w : Wave) (o : Atomic) (op : AsuOp) (slots : BitVec 32) (i : Nat) (pa : Nat) (d : Option Dst)
    (x y : BitVec 64) (ages : Tab Nat := []) : AsuReq :=
  { asu := asuOf ((asuCell pa).getD 0), wave := c.wave, wg := w.wg, ctx := s.ctxOf w.wg, path := c.path, slots := slots, op := op
    va := atomicAddr w i o, pa := pa, x := x, y := y, priv := w.priv
    acqL1 := (o.kind = .acq ∨ o.kind = .ar) && (o.remote || o.scope.wide), d := d, ages := ages, w64 := o.t.bits == 64
    nwb := o.h.nwb, sgn := o.t == .s32, precise := false, pc := c.pc, next := c.next, reply := none }

/-- Requests sent in order: each takes the next number, which is its place among all of them (R294). -/
def sent (s : State) (rs : List AsuReq) : Tab AsuReq :=
  ((List.range rs.length).zip rs).foldl (fun t x => t.set (s.fresh + x.1) { x.2 with seq := s.fresh + x.1 }) s.reqs

/-- An atomic of the strands `slots` may issue: its accesses pass the checks of R293 and reach cells that a unit serves, no page is
stalled, a release waits for nothing, and for a returning one the lane's return slots suffice (R294). -/
structure AtomicMay (s : State) (c : Issue) (w : Wave) (o : Atomic) (slots : List Nat) (pa : Nat → Nat) (returns : Bool) : Prop where
  on     : w.enabled c.mask o.h ≠ 0
  out    : outside s w
  free   : unstaged s c w
  checks : ∀ j ∈ slots, checks s w (o.t.bits / 8) .store (atomicAddr w j o) (pa j) ∧ (asuCell (pa j)).isSome = true ∧
    s.stalledAt (pa j) = false
  rel    : o.kind = .rel ∨ o.kind = .ar → s.posted c.wave c.mask = false
  room   : returns = true → s.slotsUsed (s.coreOf w) w.lane + slots.length ≤ 32

/-- The strands whose atomics are made: the enabled ones, or the lowest of them for a uniform one. -/
def atomicSlots (e : BitVec 32) (uniform : Bool) : List Nat := if uniform then [lead e] else slotsOf e

/-- What a returning atomic leaves of the wave (R38, R59, R316): it has retired, its path goes on, the latches have shifted, and
the strands that it serves defer. -/
def AtomicWaits (c : Issue) (w : Wave) (o : Atomic) (w' : Wave) : Prop :=
  let e := w.enabled c.mask o.h
  let ins : AccessIns :=
    { h := o.h, srcs := [], n := 0, elems := fun _ _ _ => [], dst := o.d, latch := some (o.t.bits == 64) }
  Retired c w w' ∧ w'.s = w.s ∧ w'.fpflags = w.fpflags ∧
  ∀ j, w'.strand j = if j < 32 ∧ c.mask.getLsbD j = true then
      { ins.after c w e j (w.strand j) with defer := (w.strand j).defer || o.d.s || e.getLsbD j }
    else ins.aside w j

/-- What an atomic without a result, or a store of a mask, leaves of the wave (R297, R316, R373, R376): it has retired, and the
strands that it serves defer, all of the path for a uniform one. -/
def ServedGoOn (c : Issue) (w : Wave) (h : Hd) (uniform : Bool) (w' : Wave) : Prop :=
  Retired c w w' ∧ Others c w w' ∧ w'.s = w.s ∧ w'.fpflags = w.fpflags ∧
  ∀ i, i < 32 → c.mask.getLsbD i = true → w'.strand i =
    { w.strand i with
      pc := c.next, latN := if c.next.toNat % 32 = 0 then 0 else (w.strand i).latN
      defer := (w.strand i).defer || uniform || (w.enabled c.mask h).getLsbD i }

/-- An instruction whose one request waits for its reply (R293, R308, R315, R371, R372). -/
structure ReqIns where
  h      : Hd
  srcs   : List Src := []
  op     : AsuOp
  obj    : BitVec 6
  /-- Alignment of what is addressed; an object of a sample group has its own checks (R351). -/
  align  : Option Nat
  x      : BitVec 64 := 0
  y      : BitVec 64 := 0
  d      : Option Dst := none
  w64    : Bool := false
  acq    : Bool := false
  within : Bool := false
  defers : Bool := true

/-- The deque instructions (R308), `GQREL` (R315) and the sample-group instructions that go to the unit (R371, R372). -/
def reqOf (w : Wave) : Instr → Option ReqIns
  | .dqpush h _ d hd e =>
    some { h := h, op := .dqpush, obj := hd, align := some 32, x := w.sreg e.toNat, d := some ⟨true, d.setWidth 8⟩, w64 := true }
  | .dqpop h sc d hd =>
    some { h := h, op := .dqpop, obj := hd, align := some 32, d := some ⟨true, d.setWidth 8⟩, w64 := true, acq := sc.wide }
  | .dqsteal h sc d hd =>
    some { h := h, op := .dqsteal, obj := hd, align := some 32, d := some ⟨true, d.setWidth 8⟩, w64 := true, acq := sc.wide }
  | .gqrel h a idx => some { h := h, srcs := [idx], op := .gqrel, obj := a, align := some 64, x := rdU w idx, acq := true, defers := false }
  | .sgreward h d obj idx rew =>
    some { h := h, op := .sgreward, obj := obj, align := none, x := rdU w idx, y := rdTy .f32 w 0 rew, d := some d }
  | .sgcancel h obj idx => some { h := h, op := .sgcancel, obj := obj, align := none, x := rdU w idx }
  | .sgclose h obj => some { h := h, op := .sgclose, obj := obj, align := none }
  | .sginfo h sel d obj =>
    some { h := h, op := .sginfo sel.toNat, obj := obj, align := none, d := some d, w64 := true, within := true, defers := false }
  | _ => none

/-- What it addresses can be used (R293, R351, R369): the sample-group instructions are collective. -/
def ReqIns.may (o : ReqIns) (s : State) (c : Issue) (w : Wave) (pa : Nat) : Prop :=
  let e := w.enabled c.mask o.h
  match o.align with
  | some n => e ≠ 0 ∧ s.checkAsuRw (s.whoLs w) n (w.sreg o.obj.toNat) = .ok pa
  | none => e = w.liveMask ∧ s.checkObj w (w.sreg o.obj.toNat) (lead e) = .ok pa

/-- The new value of a read-modify-write on words of `n` bits (R296). -/
def rmwWord (op : AtomOp) (t : AtomTy) {n : Nat} (old b : BitVec n) : BitVec n :=
  let signed := t = .s32 ∨ t = .s64
  match op with
  | .add => if t = .f32 then BitVec.ofNat n (faddBits old.toNat b.toNat) else old + b
  | .min =>
    if t = .f32 then BitVec.ofNat n (fminmax false fmt32 (fmt32.read false old.toNat) (fmt32.read false b.toNat)).1
    else if (if signed then old.toInt ≤ b.toInt else old.toNat ≤ b.toNat) then old else b
  | .max =>
    if t = .f32 then BitVec.ofNat n (fminmax true fmt32 (fmt32.read false old.toNat) (fmt32.read false b.toNat)).1
    else if (if signed then old.toInt ≤ b.toInt else old.toNat ≤ b.toNat) then b else old
  | .and => old &&& b
  | .or => old ||| b
  | .xor => old ^^^ b
  | .exch => b
  | .inc => if old.toNat ≥ b.toNat then 0 else old + 1
  | .dec => if old = 0 ∨ old.toNat > b.toNat then b else old - 1

end Sys2Proof.Claims

section

open Sys2Proof Sys2Proof.Machine Sys2Proof.Claims

/-- R59, R293 to R298: `ATOM`, `ACAS` and `RED` that may issue send one request for each strand that they serve, in slot order, with
the address, operands and destination that the instruction gives (`RED.add.f32`: one for each distinct address, with the tree
sum of its strands), and retire, and their path goes on; memory is unchanged until the unit acts. What the rules leave open here is the
model's choice: notes/assumptions/7.md. -/
def Obligations.AtomicsIssue : Prop :=
  (∀ s c w op o pa, Issuing s c w → latchOk w c.mask [o.a, o.b] = true →
    let slots := atomicSlots (w.enabled c.mask o.h) o.d.s
    let mask := fun (j : Nat) => if o.d.s then c.mask else BitVec.ofNat 32 (2 ^ j)
    AtomicMay s c w o slots pa true →
    ∃ w', exec (.atom op o) s = .next { onlyWave s c w' with
        fresh := s.fresh + slots.length
        reqs := sent s (slots.map fun j =>
          atomicReq s c w o (.rmw op o.t) (mask j) j (pa j) (some o.d) (atomicB w j o) 0 (latchCounts w' (mask j))) } ∧
      AtomicWaits c w o w') ∧
  (∀ s c w o pa, Issuing s c w → latchOk w c.mask [o.a, o.b] = true →
    let slots := atomicSlots (w.enabled c.mask o.h) o.d.s
    let mask := fun (j : Nat) => if o.d.s then c.mask else BitVec.ofNat 32 (2 ^ j)
    AtomicMay s c w o slots pa true →
    ∃ w', exec (.acas o) s = .next { onlyWave s c w' with
        fresh := s.fresh + slots.length
        reqs := sent s (slots.map fun j =>
          atomicReq s c w o (.cas o.t) (mask j) j (pa j) (some o.d) (atomicB w j o) (swapOf w j o) (latchCounts w' (mask j))) } ∧
      AtomicWaits c w o w') ∧
  (∀ s c w op o pa, Issuing s c w → latchOk w c.mask [o.a, o.b] = true → ¬(op = .add ∧ o.t = .f32) →
    let uniform := Src.uniform o.a && Src.uniform o.b
    let slots := atomicSlots (w.enabled c.mask o.h) uniform
    AtomicMay s c w o slots pa false →
    ∃ w', exec (.red op o) s = .next { onlyWave s c w' with
        fresh := s.fresh + slots.length
        reqs := sent s (slots.map fun j =>
          atomicReq s c w o (.rmw op o.t) (if uniform then w.enabled c.mask o.h else BitVec.ofNat 32 (2 ^ j)) j (pa j) none
            (atomicB w j o) 0) } ∧
      ServedGoOn c w o.h uniform w') ∧
  (∀ s c w o pa, Issuing s c w → latchOk w c.mask [o.a, o.b] = true → o.t = .f32 →
    let uniform := Src.uniform o.a && Src.uniform o.b
    let slots := atomicSlots (w.enabled c.mask o.h) uniform
    AtomicMay s c w o slots pa false →
    ∃ (w' : Wave) (firsts : List Nat), exec (.red .add o) s = .next { onlyWave s c w' with
        fresh := s.fresh + firsts.length
        reqs := sent s (firsts.map fun j =>
          atomicReq s c w o (.rmw .add .f32)
            (if uniform then w.enabled c.mask o.h else maskOf (slots.filter fun i => atomicAddr w i o == atomicAddr w j o)) j (pa j)
            none
            (BitVec.ofNat 64 (treeOf faddBits 0x80000000 ((List.range 32).map fun i =>
              if i ∈ slots ∧ atomicAddr w i o = atomicAddr w j o then (atomicB w i o).toNat else 0x80000000))) 0) } ∧
      ServedGoOn c w o.h uniform w' ∧
      (∀ j, j ∈ firsts ↔ j ∈ slots ∧ ∀ i ∈ slots, i < j → atomicAddr w i o ≠ atomicAddr w j o) ∧
      firsts.Pairwise (· < ·))

/-- R293, R294, R308, R315, R351, R369, R371, R372: the deque instructions, `GQREL` and the sample-group instructions that a unit performs send one
request when what they address passes its checks; their path waits for the reply at the instruction, which retires with it. -/
def Obligations.PreciseRequestsIssue : Prop :=
  ∀ s c w i o pa, reqOf w i = some o → Issuing s c w → latchOk w c.mask o.srcs = true → o.may s c w pa →
    (if o.within then allowed s w else outside s w) → unstaged s c w → s.stalledAt pa = false → s.posted c.wave c.mask = false →
    (o.d.isSome = true ∨ o.align = none → s.slotsUsed (s.coreOf w) w.lane < 32) →
    ∃ w', exec i s = .next { onlyWave s c w' with
        fresh := s.fresh + 1
        reqs := s.reqs.set s.fresh
          { asu := asuOf ((asuCell pa).getD 0), wave := c.wave, wg := w.wg, ctx := s.ctxOf w.wg, path := c.path
            slots := w.enabled c.mask o.h, op := o.op, va := w.sreg o.obj.toNat, pa := pa, x := o.x, y := o.y, priv := w.priv
            acqL1 := o.acq, d := o.d, w64 := o.w64, nwb := o.d.isSome && o.h.nwb, sgn := false, precise := true, pc := c.pc
            next := c.next, reply := none, seq := s.fresh } } ∧
      w' = { w with
        strands := w'.strands
        paths := w.paths.map fun p => if p.born == c.path then { p with wait := .reply, next := c.next } else p } ∧
      ∀ i, w'.strand i = if i < 32 ∧ c.mask.getLsbD i = true ∧ o.defers = true then { w.strand i with defer := deferred s w i }
        else w.strand i

/-- R292, R294, R296, R307, R308: a unit performs a request when it may, with the line taken exclusively by its home die (which
changes nothing that the home die reads, where no other die holds the line dirty): a read-modify-write replies the value read and
leaves the new one, and no other byte that the home die reads changes; a deque push stores its word at the bottom of a deque with room
and steps it, a pop or a steal takes the word at the bottom or at the top, and an empty or a full deque replies 0 and stays. -/
def Obligations.UnitsPerformRequests : Prop :=
  (∀ (s : State) r cell, asuCell r.pa = some cell → s.memWf = true → ownLine s (homeDie cell) cell →
    ∀ p c, place p = .cell c .cached → (s.homeTake r).readByte (homeDie cell) p = s.readByte (homeDie cell) p) ∧
  (∀ (s : State) k r op (t : AtomTy) cell, s.reqs.get? k = some r → s.reqReady k r = true → (r.op = .rmw op t ∨ r.op = .cas t) →
    asuCell r.pa = some cell → cell % (t.bits / 8) = 0 → s.memWf = true →
    let n := t.bits / 8
    let taken := s.homeTake r
    let old : BitVec t.bits := BitVec.ofNat _ (taken.homeRead r.pa n)
    let new := if r.op = .cas t then (if old = r.x.setWidth _ then r.y.setWidth _ else old) else rmwWord op t old (r.x.setWidth _)
    ∃ u, exec (.asuOperation k) s = .next u ∧ u.waves = s.waves ∧ u.wgs = s.wgs ∧
      u.reqs = (if r.d = none ∧ r.precise = false then s.reqs.del k
        else s.reqs.set k { r with reply := some (.val (old.setWidth 64)) }) ∧
      u.homeRead r.pa n = new.toNat ∧ u.mem.cells = s.mem.cells ∧
      ∀ p c, place p = .cell c .cached → ¬(cell ≤ c ∧ c < cell + n) →
        u.readByte (homeDie cell) p = taken.readByte (homeDie cell) p) ∧
  (∀ (s : State) k r pa head cell, s.reqs.get? k = some r → s.reqReady k r = true → r.precise = true →
    (r.op = .dqpush ∨ r.op = .dqpop ∨ r.op = .dqsteal) → s.memWf = true →
    let taken := s.homeTake r
    let d := taken.dequeHdr r.pa
    d.bad = false →
    let top := BitVec.ofNat 64 d.top
    let bottom := BitVec.ofNat 64 d.bottom
    let size := (bottom - top).toNat
    let entry := fun (i : BitVec 64) => d.array + BitVec.ofNat 64 (8 * (i.toNat % d.cap))
    (r.op = .dqpush → r.x ≠ 0) →
    taken.checkAsuRw (taken.whoReq r) 8
      (match r.op with | .dqpush => entry bottom | .dqpop => entry (bottom - 1) | _ => entry top) = .ok pa →
    asuCell r.pa = some head → head % 32 = 0 → asuCell pa = some cell → cell % 8 = 0 → (cell + 8 ≤ head ∨ head + 32 ≤ cell) →
    ∃ u x, exec (.asuOperation k) s = .next u ∧ u.waves = s.waves ∧ u.reqs = s.reqs.set k { r with reply := some (.val x) } ∧
      (r.op = .dqpush → if size = d.cap then x = 0 ∧ u.mem.cells = s.mem.cells ∧ u.mem.l2 = taken.mem.l2
        else x = 1 ∧ u.homeRead pa 8 = r.x.toNat ∧ u.homeRead (r.pa + 24) 8 = (bottom + 1).toNat) ∧
      (r.op = .dqpop → if size = 0 then x = 0 ∧ u.mem.cells = s.mem.cells ∧ u.mem.l2 = taken.mem.l2
        else x = BitVec.ofNat 64 (taken.homeRead pa 8) ∧ u.homeRead (r.pa + 24) 8 = (bottom - 1).toNat) ∧
      (r.op = .dqsteal → if size = 0 then x = 0 ∧ u.mem.cells = s.mem.cells ∧ u.mem.l2 = taken.mem.l2
        else x = BitVec.ofNat 64 (taken.homeRead pa 8) ∧ u.homeRead (r.pa + 16) 8 = (top + 1).toNat))

/-- R38, R59, R293, R294: the reply of a request writes its value to the destination that the request names, in the strands it serves,
and to the latch to which the value's place has been shifted meanwhile, and changes nothing else of the wave; an instruction that waited for it retires with it, or takes the trap that
the unit reports. -/
def Obligations.RepliesArrive : Prop :=
  (∀ (s : State) k r w d x, s.reqs.get? k = some r → s.waves.get? r.wave = some w → r.reply = some (.val x) → r.precise = false →
    r.d = some d → w.st = .running →
    ∃ t w', exec (.asuReplyArrival k) s = .next t ∧ t.reqs = s.reqs.del k ∧ t.mem = s.mem ∧ t.wgs = s.wgs ∧
      t.waves = s.waves.set r.wave w' ∧
      (∀ i n, i < 32 → (w'.strand i).v32 n =
        if d.s = false ∧ r.nwb = false ∧ r.slots.getLsbD i = true ∧ r.w64 = true ∧ n = d.n.toNat + 1 then x.extractLsb' 32 32
        else if d.s = false ∧ r.nwb = false ∧ r.slots.getLsbD i = true ∧ n = d.n.toNat then x.extractLsb' 0 32
        else (w.strand i).v32 n) ∧
      (∀ i (n : BitVec 2), i < 32 → (w'.strand i).latch n =
        if r.slots.getLsbD i = true ∧ (w.strand i).pushes - r.ages.getD i (w.strand i).pushes = n.toNat then
          (if r.w64 then x else (x.setWidth 32).setWidth 64)
        else (w.strand i).latch n) ∧
      w' = { w with strands := w'.strands, s := w'.s } ∧
      ∀ n, w'.sreg n = if d.s = true ∧ r.nwb = false ∧ n = d.n.toNat then
          (if r.w64 then x else if r.sgn then (x.setWidth 32).signExtend 64 else (x.setWidth 32).setWidth 64)
        else w.sreg n) ∧
  (∀ (s : State) k r w p x, s.reqs.get? k = some r → s.waves.get? r.wave = some w → r.reply = some x → r.precise = true →
    w.st = .running → w.path? r.path = some p → w.mayIssue p = true →
    let c : Issue := { wave := r.wave, path := r.path, mask := p.mask, pc := r.pc, next := r.next }
    match x with
    | .trap t => exec (.asuReplyArrival k) s = .next (({ s with reqs := s.reqs.del k } : State).takeTrap c t .precise)
    | .val v => ∃ w', exec (.asuReplyArrival k) s = .next { s with reqs := s.reqs.del k, waves := s.waves.set r.wave w' } ∧
        Retired c w w' ∧
        (r.d = none → Passed c w w') ∧
        ∀ d, r.d = some d → Wrote
          { h := { g := { p := 0, neg := false }, nwb := r.nwb }, d := d, w64 := r.w64, sgn := r.sgn, srcs := [], val := fun _ _ _ => v }
          c w r.slots w')

end

namespace Sys2Proof.Claims

open Sys2Proof Sys2Proof.Machine

/-! ## Barriers, queues and the register pool (11_sync) -/

/-- An arrival at a named barrier (R300): guard, barrier, kind (none: `BAR`; `n`: `BARS` of n waves), and whether it waits. -/
def barOf (w : Wave) : Instr → Option (Hd × Nat × Option Nat × Bool)
  | .bar h id => some (h, (rd32 w 0 id).toNat, none, true)
  | .bars h arr id n =>
    if 1 ≤ (rd32 w 0 n).toNat ∧ (rd32 w 0 n).toNat ≤ 32 then some (h, (rd32 w 0 id).toNat, some (rd32 w 0 n).toNat, !arr) else none
  | _ => none

/-- The phase of a barrier with the enabled strands arrived (R300). -/
def arrivedAt (b : NamedBar) (c : Issue) (e : BitVec 32) (kind : Option Nat) : NamedBar :=
  { b with kind := some kind, arrived := b.arrived ++ [(c.wave, e)] }

/-- The trap of the issuing instruction. -/
def Traps (i : Instr) (s : State) (c : Issue) (t : Trap) : Prop :=
  exec i s = .next { s.takeTrap c t .precise with cur := none, tick := s.tick + 1 }

/-- The one path of a wave with a number is the issuing one, and no path has another's number. -/
structure OnPath (c : Issue) (w : Wave) (p : Path) : Prop where
  path : w.path? c.path = some p
  mask : p.mask = c.mask
  born : w.paths.Pairwise fun x y => x.born ≠ y.born

/-- A word in a ring of a word queue (R303): the four bytes of entry `k` in its owner's local store. -/
def ringWord (s : State) (x : Queue) (k : Nat) (v : BitVec 32) : Prop :=
  ∀ j, j < 4 → (s.wgD x.owner).lmem.get? (x.base + 4 * k + j) = some (v.extractLsb' (8 * j) 8)

/-- A queue with one entry more (R305). -/
def pushedQ (x : Queue) : Queue := { x with allow := x.allow - 1, count := x.count + 1 }

/-- A queue with its first entry taken: its allowance comes back at once with `.ag` (R305). -/
def poppedQ (x : Queue) (ag : Bool) : Queue :=
  { x with
    head := (x.head + 1) % x.cap, count := x.count - 1, out := if ag then x.out else x.out + 1
    allow := if ag then x.allow + 1 else x.allow }

/-- A queue instruction may act: its queue is configured, it stands at no staging point, and R261 and R263 allow it. -/
structure QueueMay (s : State) (c : Issue) (w : Wave) (g : Wg) (h : Hd) (cl : Bool) (q : BitVec 4) (x : Queue) : Prop where
  at_   : At s c w g h
  queue : s.queue? w.wg cl q.toNat = some x
  owner : (s.wgs.get? x.owner).isSome = true
  stage : unstaged s c w
  tx    : if cl then outside s w else allowed s w

/-- The wave waits in a queue at its instruction. -/
def waitsQueued (t : State) (c : Issue) : Prop := ∃ q, (t.waveD c.wave).path? c.path = some q ∧ q.wait = .queued

/-- What no queue instruction touches. -/
def keepsRest (s t : State) : Prop :=
  t.mem.cells = s.mem.cells ∧ t.mem.l2 = s.mem.l2 ∧ t.grids = s.grids ∧ t.ctxs = s.ctxs ∧ t.reqs = s.reqs ∧ t.entries = s.entries ∧
    t.copies = s.copies

/-- Window registers after a wave's window has become `n` registers (R310): those that it had stay, new ones read zero. -/
def resized (w w' : Wave) (n : Nat) : Prop :=
  w'.win = n ∧ (∀ i r, i < 32 → (w'.strand i).v32 r = if r < n then (w.strand i).v32 r else 0) ∧ w'.s = w.s ∧
    ∀ i, i < 32 → (w'.strand i).pred = (w.strand i).pred ∧ (w'.strand i).live = (w.strand i).live

/-- The register tables of a wave's strands are in order. -/
def ordered (w : Wave) : Prop := ∀ i, ((w.strand i).v.map (·.1)).Pairwise (· < ·)

end Sys2Proof.Claims

section

open Sys2Proof Sys2Proof.Machine Sys2Proof.Claims

/-- R302 to R306, R316: `QGRANT.cfg` configures a queue with its allowance, `QGRANT` returns allowance, `QPUSH` adds a word or a tile at
the end of a queue with allowance that nobody waits for, `QPOP` takes the first entry, and `QTRY` does either, whoever waits, or
answers 0 and changes nothing; a push or a pop whose condition does not hold waits in the queue, and is served when it holds. What the rules leave open here
is the model's choice: notes/assumptions/17.md. -/
def Obligations.NamedQueues : Prop :=
  (∀ s c w g h cl q r, At s c w g h → unstaged s c w → (if cl then outside s w else allowed s w) → g.st ≠ .ended →
    (∀ y, s.queue? w.wg cl q.toNat = some y → y.count = 0 ∧ y.out = 0 ∧ y.owner = w.wg) →
    let v := (w.sreg r.toNat).toNat
    let base := v % 2 ^ 18
    let cap := v / 2 ^ 18 % 2 ^ 13
    let hq := v.testBit 31
    let allow := v / 2 ^ 32 % 2 ^ 13
    v < 2 ^ 45 → 0 < cap → allow ≤ cap → (hq = true → cap ≤ 32 ∧ base = 0) → (hq = false → cap ≤ 4096 ∧ base % 4 = 0) →
    base + 4 * cap ≤ s.localSize w.wg →
    ∃ t, exec (.qgrantCfg h cl q r) s = .next t ∧ keepsRest s t ∧ PassedDeferring s c w (t.waveD c.wave) ∧
      t.queue? w.wg cl q.toNat = some
        { handles := hq, base := base, cap := cap, head := 0, count := 0, allow := allow, out := cap - allow, owner := w.wg }) ∧
  (∀ s c w g h cl q a x, QueueMay s c w g h cl q x → (rd32 w 0 a).toNat ≤ x.out →
    ∃ t, exec (.qgrant h cl q a) s = .next t ∧ keepsRest s t ∧ PassedDeferring s c w (t.waveD c.wave) ∧
      t.queue? w.wg cl q.toNat = some { x with out := x.out - (rd32 w 0 a).toNat, allow := x.allow + (rd32 w 0 a).toNat }) ∧
  (∀ s c w g h cl q a x, QueueMay s c w g h cl q x → x.handles = false → s.posted c.wave 0xFFFFFFFF = false →
    0 < x.allow →
    (s.firstWaiter w.wg true cl q.toNat = none →
      ∃ t, exec (.qpush h cl q (.word a)) s = .next t ∧ keepsRest s t ∧ (∃ w0, Defers s c w w0 ∧ Blocked c w0 (t.waveD c.wave)) ∧
      t.queue? w.wg cl q.toNat = some (pushedQ x) ∧ ringWord t x ((x.head + x.count) % x.cap) (rd32 w 0 a)) ∧
    ∀ d, ∃ t, exec (.qtry h cl q d (.push (.word a))) s = .next t ∧ keepsRest s t ∧
      (∃ w0, Defers s c w w0 ∧ Answered h (some { s := true, n := d.setWidth 8 }) true 0x100000000 c w0 (t.waveD c.wave)) ∧
      t.queue? w.wg cl q.toNat = some (pushedQ x) ∧ ringWord t x ((x.head + x.count) % x.cap) (rd32 w 0 a)) ∧
  (∀ s c w g h cl q r k x, QueueMay s c w g h cl q x → x.handles = true → g.handles.get? r.toNat = some k →
    s.posted c.wave 0xFFFFFFFF = false → 0 < x.allow → s.firstWaiter w.wg true cl q.toNat = none →
    ∃ t, exec (.qpush h cl q (.tile r)) s = .next t ∧ keepsRest s t ∧ (∃ w0, Defers s c w w0 ∧ Blocked c w0 (t.waveD c.wave)) ∧
      (t.wgD w.wg).handles = g.handles.del r.toNat ∧
      t.queue? w.wg cl q.toNat = some { pushedQ x with tiles := x.tiles.set ((x.head + x.count) % x.cap) k }) ∧
  (∀ s c w g h cl ag q x v, QueueMay s c w g h cl q x → x.handles = false → 0 < x.count → ringWord s x x.head v →
    (s.firstWaiter w.wg false cl q.toNat = none → ∀ d, ∃ t, exec (.qpop h cl ag q (.s d)) s = .next t ∧ keepsRest s t ∧ t.queue? w.wg cl q.toNat = some (poppedQ x ag) ∧
      (t.waveD c.wave).icount = w.icount + 1 ∧
      ∀ n, (t.waveD c.wave).sreg n = if h.nwb = false ∧ n = d.toNat then v.setWidth 64 else w.sreg n) ∧
    ∀ d, ∃ t, exec (.qtry h cl q d (.pop ag none)) s = .next t ∧ keepsRest s t ∧ t.queue? w.wg cl q.toNat = some (poppedQ x ag) ∧
      (∃ w0, Defers s c w w0 ∧
        Answered h (some { s := true, n := d.setWidth 8 }) true ((1 : BitVec 32) ++ v) c w0 (t.waveD c.wave))) ∧
  (∀ s c w g h cl ag q r x k, QueueMay s c w g h cl q x → x.handles = true → 0 < x.count → x.tiles.get? x.head = some k →
    s.firstWaiter w.wg false cl q.toNat = none →
    ∃ t, exec (.qpop h cl ag q (.tile r)) s = .next t ∧ keepsRest s t ∧ (t.wgD w.wg).handles.get? r.toNat = some k ∧
      t.queue? w.wg cl q.toNat = some { poppedQ x ag with tiles := x.tiles.del x.head } ∧
      ∃ w0, Defers s c w w0 ∧ Blocked c w0 (t.waveD c.wave)) ∧
  (∀ s c w g h cl q x p, QueueMay s c w g h cl q x → x.handles = false → w.path? c.path = some p →
    (∀ a, s.posted c.wave 0xFFFFFFFF = false → x.allow = 0 →
      (∃ t, exec (.qpush h cl q (.word a)) s = .next t ∧ keepsRest s t ∧ t.wgs = s.wgs ∧ t.cqueues = s.cqueues ∧ waitsQueued t c ∧
        t.waiters = s.waiters.set s.fresh
          { wave := c.wave, path := c.path, push := true, cl := cl, q := q.toNat, hq := false, ag := false
            val := (rd32 w 0 a).setWidth 64, reg := 0, nwb := false }) ∧
      ∀ d, Becomes (.qtry h cl q d (.push (.word a))) s s c (Answered h (some { s := true, n := d.setWidth 8 }) true 0 c w)) ∧
    (∀ ag, x.count = 0 →
      (∀ d, ∃ t, exec (.qpop h cl ag q (.s d)) s = .next t ∧ keepsRest s t ∧ t.wgs = s.wgs ∧ t.cqueues = s.cqueues ∧ waitsQueued t c ∧
        t.waiters = s.waiters.set s.fresh
          { wave := c.wave, path := c.path, push := false, cl := cl, q := q.toNat, hq := false, ag := ag, val := 0
            reg := d.toNat, nwb := h.nwb }) ∧
      ∀ d, Becomes (.qtry h cl q d (.pop ag none)) s s c (Answered h (some { s := true, n := d.setWidth 8 }) true 0 c w))) ∧
  (∀ s k x w p y, s.waiters.get? k = some x → s.waves.get? x.wave = some w → w.path? x.path = some p →
    s.queue? w.wg x.cl x.q = some y → y.handles = false → x.hq = false → s.firstWaiter w.wg x.push x.cl x.q = some k →
    (s.wgs.get? y.owner).isSome = true → p.mask ≠ 0 → x.reg < 64 → (if x.push = true then 0 < y.allow else 0 < y.count) →
    ∃ t, exec (.queueWaiterServed k) s = .next t ∧ t.waiters = s.waiters.del k ∧ keepsRest s t ∧
      t.queue? w.wg x.cl x.q = some (if x.push then pushedQ y else poppedQ y x.ag) ∧ (t.waveD x.wave).icount = w.icount + 1 ∧
      (∀ q, (t.waveD x.wave).path? x.path = some q → q.wait = .none) ∧
      (x.push = true → ringWord t y ((y.head + y.count) % y.cap) (x.val.setWidth 32)) ∧
      (∀ v, x.push = false → ringWord s y y.head v → ∀ n, (t.waveD x.wave).sreg n =
        if x.nwb = false ∧ n = x.reg then v.setWidth 64 else w.sreg n))

/-- R299, R300: `BAR` and `BARS` record the arrival of their enabled strands. The last one ends the phase: the generation steps, no
arrival is left, and no path of the workgroup waits at the barrier any more; before that a `BAR` or a `BARS` without `.arr` waits, and a
`BARS.arr` goes on. An arrival of another kind than the phase's traps QUEUE_MISUSE. R309 to R313: `REGGIVE` takes registers from the
wave's window, and they are free in its core's pool; `REGCLAIM` adds registers to it when nobody waits and the pool has them, else it
waits in the core's claim queue, whose head is served when the pool has what it claims. What the rules leave open here is the model's
choice: notes/assumptions/17.md. -/
def Obligations.BarriersAndRegisterPool : Prop :=
  (∀ s c w g i h id kind waits p, barOf w i = some (h, id, kind, waits) → At s c w g h → allowed s w → id ≤ 15 → OnPath c w p →
    let b := g.bars.getD id {}
    let b' := arrivedAt b c (w.enabled c.mask h) kind
    (b.kind ≠ none → b.kind ≠ some kind → Traps i s c { cause := .queueMisuse }) ∧
    ((b.kind = none ∨ b.kind = some kind) → (∀ n, kind = some n → (s.arrivedWaves w.wg b').length ≤ n) →
      s.posted c.wave (w.enabled c.mask h) = false → (∀ q ∈ w.paths, q.wait ≠ .barrier id) → c.wave ∈ g.waves →
      ∃ t, exec i s = .next t ∧ t.mem = s.mem ∧ t.tiles = s.tiles ∧
        (if s.barDone w.wg b' = true then
          (t.wgD w.wg).bars.getD id {} = { gen := b.gen + 1 } ∧
            ∀ u ∈ g.waves, ∀ q ∈ (t.waveD u).paths, q.wait ≠ .barrier id
        else
          (t.wgD w.wg).bars.getD id {} = { b' with waves := s.arrivedWaves w.wg b' } ∧
            (waits = true → ∃ q, (t.waveD c.wave).path? c.path = some q ∧ q.wait = .barrier id)) ∧
        (s.barDone w.wg b' = true ∨ waits = false →
          (t.waveD c.wave).icount = w.icount + 1 ∧ ∀ j, j < 32 → c.mask.getLsbD j = true → (t.waveD c.wave).strand j =
            { w.strand j with pc := c.next, latN := 0, defer := ((t.waveD c.wave).strand j).defer }))) ∧
  ((∀ s c w g h a, At s c w g h → w.enabled c.mask h = w.liveMask → outside s w → ordered w →
    let n := (rd32 w 0 a).toNat
    n % 4 = 0 → 4 ≤ n → n + 4 ≤ w.win → w.win ≤ 256 →
    ∃ w', exec (.reggive h a) s = .next (onlyWave s c w') ∧ resized w w' (w.win - n) ∧ w'.icount = w.icount + 1) ∧
  (∀ s c w g h a, At s c w g h → w.enabled c.mask h = w.liveMask → outside s w → ordered w →
    let n := (rd32 w 0 a).toNat
    n % 4 = 0 → 4 ≤ n → w.win + n ≤ 256 → 4 ≤ w.win → s.claims.getD (s.coreOf w) [] = [] → 32 * n ≤ s.regFree (s.coreOf w) →
    (∀ i r, w.win ≤ r → (w.strand i).v32 r = 0) →
    ∃ w', exec (.regclaim h a) s = .next (onlyWave s c w') ∧ resized w w' (w.win + n) ∧ w'.icount = w.icount + 1) ∧
  (∀ s c w g h a p, At s c w g h → w.enabled c.mask h = w.liveMask → outside s w → w.path? c.path = some p →
    let n := (rd32 w 0 a).toNat
    let q := s.claims.getD (s.coreOf w) []
    n % 4 = 0 → 4 ≤ n → w.win + n ≤ 256 → 4 ≤ w.win → (q ≠ [] ∨ s.regFree (s.coreOf w) < 32 * n) →
    (∃ v ∈ s.liveWaves w.wg, v ≠ c.wave ∧ ∀ x ∈ q, x.1 ≠ v) →
    ∃ w', exec (.regclaim h a) s = .next { onlyWave s c w' with claims := s.claims.set (s.coreOf w) (q ++ [(c.wave, c.path, n)]) } ∧
      w'.s = w.s ∧ w'.win = w.win ∧ w'.icount = w.icount ∧ ∃ r, w'.path? c.path = some r ∧ r.wait = .queued) ∧
  (∀ s core u b n rest w p, s.claims.getD core [] = (u, b, n) :: rest → 32 * n ≤ s.regFree core → s.waves.get? u = some w →
    w.path? b = some p → ordered w → (∀ i r, w.win ≤ r → (w.strand i).v32 r = 0) →
    ∃ w', exec (.regclaimServe core) s = .next { s with claims := s.claims.set core rest, waves := s.waves.set u w' } ∧
      resized w w' (w.win + n) ∧ w'.icount = w.icount + 1 ∧ ∀ q, w'.path? b = some q → q.wait = .none) ∧
  (∀ s core, s.claims.getD core [] = [] → exec (.regclaimServe core) s = .next s))

end

namespace Sys2Proof.Claims

open Sys2Proof Sys2Proof.Machine

/-! ## Sample groups, stamped words, random numbers (13_groups_stamps) -/

/-- A round of the generator (R366). -/
def mixed (k x : BitVec 64) (rnd : Nat) : BitVec 64 :=
  let y := (x ^^^ (k + BitVec.ofNat 64 (rnd * 0x9E3779B97F4A7C15))) * 0xD1342543DE82EF95
  y ^^^ (y >>> 29)

/-- The generator's number for a stream and a counter (R366): the high half after six rounds, for the launch's seed. -/
def random (s : State) (g : Nat) (stream : BitVec 32) (c : BitVec 64) : BitVec 32 :=
  let k := ((0 : BitVec 32) ++ stream) + ((s.gridOf g).lat.seed <<< 32)
  (mixed k (mixed k (mixed k (mixed k (mixed k (mixed k c 0) 1) 2) 3) 4) 5).extractLsb' 32 32

/-- The keep mask (R376). -/
def keepMask (s : State) (g : Nat) (stream : BitVec 32) (c : BitVec 64) (thr : BitVec 32) : BitVec 32 :=
  maskOf ((List.range 32).filter fun j => (random s g stream (c + BitVec.ofNat 64 j)).toNat < thr.toNat)

/-- `RNG`, `RNGF` and `RNGMASK` (R376). `RNGF`: the FP32 pattern of the number's high 24 bits times 2^-24. -/
def rngOf (s : State) (g : Nat) : Instr → Option DataIns
  | .rng h d a b => some
    { h := h, d := d, w64 := false, sgn := false, srcs := [a, b], val := fun w _ i => (random s g (rd32 w i a) (rd64 w i b)).setWidth 64 }
  | .rngf h d a b => some
    { h := h, d := d, w64 := false, sgn := false, srcs := [a, b]
      val := fun w _ i =>
        let k := (random s g (rd32 w i a) (rd64 w i b)).toNat / 256
        BitVec.ofNat 64 (if k = 0 then 0 else (Nat.log2 k + 103) * 2 ^ 23 + (k * 2 ^ (23 - Nat.log2 k) - 2 ^ 23)) }
  | .rngmask h d a b x => some
    { h := h, d := d, w64 := false, sgn := false, srcs := [a, b, x]
      val := fun w _ i => (keepMask s g (rd32 w i a) (rd64 w i b) (rd32 w i x)).setWidth 64 }
  | _ => none

/-- `RNGMASK.st` as a store (R376). -/
def rngStore (s : State) (w : Wave) (h : Hd) (d : Dst) (a b x : Src) : AccessIns :=
  { h := h, srcs := [a, b, x], n := 4, elems := fun _ w i => [some (if d.s then w.sreg d.n.toNat else (w.strand i).v64 d.n.toNat)]
    dst := d
    data := fun _ i _ => (List.range 4).map fun k => (keepMask s w.wg (rd32 w i a) (rd64 w i b) (rd32 w i x)).extractLsb' (8 * k) 8 }

/-- A stamped word (R360). -/
def stamped (val : Nat) (st : BitVec 16) (sel : Nat) : Nat := val % 2 ^ 32 + st.toNat * 2 ^ 32 + sel % 2 ^ 8 * 2 ^ 48

/-- VAL, STAMP and SEL of a word (R360). -/
def valOf (x : Nat) : Nat := x % 2 ^ 32
/-- STAMP. -/
def stampBits (x : Nat) : BitVec 16 := BitVec.ofNat 16 (x / 2 ^ 32)
/-- SEL. -/
def selOf (x : Nat) : Nat := x / 2 ^ 48 % 256

/-- The age of a word (R363), where it has one. -/
def ageOf (x : Nat) (st : BitVec 16) : Option Nat :=
  if x = 0 then some 0
  else if x / 2 ^ 56 % 256 ≠ 0 then none
  else if (st - stampBits x).toNat < 32768 then some (st - stampBits x).toNat else none

/-- FP32 sum, product and difference of patterns, rounded to nearest even (R355). -/
def addF (a b : Nat) : Nat := (fadd fmt32 plainEnv (fmt32.read false a) (fmt32.read false b)).1
/-- Product. -/
def mulF (a b : Nat) : Nat := (fmul fmt32 plainEnv (fmt32.read false a) (fmt32.read false b)).1

/-- gpow (R363): the product of the squarings that the bits of the age name. -/
def powF (g a : Nat) : Nat :=
  ((List.range 15).foldl (fun (x : Nat × Nat) b => (if a.testBit b then mulF x.1 x.2 else x.1, mulF x.2 x.2)) (0x3F800000, g)).1

/-- The step stamp of a wave's context outside deterministic mode (R361). -/
def stepStamp (s : State) (w : Wave) : BitVec 16 := ((s.ctxD (s.ctxOf w.wg)).stepv).setWidth 16

/-- A word with its age and decay factor: `g` is what the decay table gives its selector (R362). -/
def ages (s : State) (w : Wave) (i : Nat) (x a g : Nat) : Prop :=
  ageOf x (stepStamp s w) = some a ∧ s.gammaFor w i (selOf x) = .ok g

/-- Reads leave memory: L1s may lose lines (R154) and L2s obtain copies (R155), and nothing else changes. -/
def onlyReads (m m' : Memory) : Prop :=
  m' = { m with l1 := m'.l1, l2 := m'.l2 } ∧ (∀ x ∈ m'.l1, x ∈ m.l1) ∧ ∃ l, m'.l2 = m.l2 ++ l ∧ ∀ x ∈ l, x.bytes = []

/-- The trap of the issuing instruction, after what it has read (R5). -/
def TrapsReading (i : Instr) (s : State) (c : Issue) (t : Trap) : Prop :=
  ∃ m n, onlyReads s.mem m ∧ exec i s = .next { ({ s with mem := m, free := n } : State).takeTrap c t .precise with
    cur := none, tick := s.tick + 1 }

/-- The address of a stamped word (R368). -/
def wordAddr (w : Wave) (i : Nat) (a c : Src) : BitVec 64 := BitVec.ofInt 64 (((rd64 w i a).toNat : Int) + (rd32 w i c).toInt * 8)

/-- A group's object that lies in one page of cells: its physical address (R349, R351). -/
structure ObjectAt (s : State) (w : Wave) (va : BitVec 64) (slot : Nat) (pa : Nat) : Prop where
  checked : s.checkObj w va slot = .ok pa
  page    : va.toNat % 4096 + 640 ≤ 4096
  same    : pa % 4096 = va.toNat % 4096

/-- What discarding a sibling of the group may touch: it has been dispatched, where its grid is there. -/
def dispatched (s : State) (o : ObjAt) (i : Nat) : Prop :=
  ∀ k, s.sgGrid o = some k → ∀ d e, (d, e) ∈ s.deps → e.grid = k → e.lin = i → e.wg.isSome = true

/-- A request of a group's unit (R351). -/
structure GroupReq (s : State) (k : Nat) (r : AsuReq) (o : ObjAt) : Prop where
  req   : s.reqs.get? k = some r
  ready : s.reqReady k r = true
  waits : r.precise = true
  obj   : o = { ctx := r.ctx, va := r.va, pa := r.pa }
  page  : r.va.toNat % 4096 + 640 ≤ 4096 ∧ r.pa % 4096 = r.va.toNat % 4096
  cell  : (asuCell r.pa).isSome = true
  good  : ((s.homeTake r).sgHdr o).bad = false
  wf    : s.memWf = true

end Sys2Proof.Claims

section

open Sys2Proof Sys2Proof.Machine Sys2Proof.Claims

/-- R366, R367, R376: `RNG`, `RNGF` and `RNGMASK` write the generator's number, its FP32 value in [0, 1) or the mask of the numbers
below the threshold, raise no flag and change nothing else; `RNGMASK.st` stores the mask where its destination register points, as a
plain 4-byte store, and writes no register. R360 to R363, R368, R373, R374: `DLD` answers the decayed value of the stamped word,
`DMERGE` merges two words, `DSET` sends the new word to the unit, which stores it, and `DADD` updates the word: a zero word takes the
addend, a newer one adds, an older one adds to its decayed value. A word too old, of another selector or malformed traps STALE_STAMP.
R361, R364, R375: `STEPADV` raises STEP to a target above it that is at most 8,192 further and answers STEP; a target at or below it
changes nothing, and one further on traps; a visit of the sweeper ages a nonzero word of age 16,384 or more to the step's stamp and
leaves every other word, and goes on to the next. What the rules leave open here is the model's choice: notes/assumptions/7.md and
notes/assumptions/19.md. -/
def Obligations.DrawsStampsAndSweeps : Prop :=
  (((∀ s c w i o, rngOf s w.wg i = some o → Issuing s c w → latchOk w c.mask o.srcs = true → allowed s w →
    ∃ w', exec i s = .next (onlyWave s c w') ∧ Retired c w w' ∧ Wrote o c w (w.enabled c.mask o.h) w') ∧
  (∀ s c w h d a b x, let o := rngStore s w h d a b x
    Issuing s c w → latchOk w c.mask o.srcs = true → w.enabled c.mask h ≠ 0 → s.memWf = true → outside s w →
    s.isDet w.wg = false → s.depOf w.wg = none → ∀ pa : BitVec 64 → Nat, o.goes s c w pa →
    ∃ w' m, exec (.rngmaskSt h d a b x) s = .next { onlyWave s c w' with mem := m } ∧
      ServedGoOn c w h (d.s && Src.uniform a && Src.uniform b && Src.uniform x) w' ∧
      ∀ p, (∀ j ∈ slotsOf (w.enabled c.mask h), ∀ va, some va ∈ o.elems s w j → sameWay s.hub (pa va) p) →
        ownLine s (dieOf (s.coreOf w)) p →
        readsAfter s { s with mem := m } (dieOf (s.coreOf w)) (o.stores s w (w.enabled c.mask h) pa) p)) ∧
  ((∀ s c w h d a x, Issuing s c w → latchOk w c.mask [a, x] = true → w.enabled c.mask h ≠ 0 → allowed s w → s.isDet w.wg = false →
    s.posted c.wave c.mask = false →
    let slots := atomicSlots (w.enabled c.mask h) d.s
    ∀ (pa word age gam : Nat → Nat),
    let read := slots.foldl (fun t j => t.freshRead w (pa j)) s
    (∀ j ∈ slots, checks s w 8 .load (wordAddr w j a x) (pa j) ∧ s.poisoned (pa j) 8 = false ∧
      (∀ b, b < 8 → s.overlay w.wg (wordAddr w j a x + BitVec.ofNat 64 b) = none) ∧
      word j = ofBytes (read.readBytes (dieOf (s.coreOf w)) (pa j) 8)) →
    ((∀ j ∈ slots, word j ≠ 0 → ages read w j (word j) (age j) (gam j)) →
      ∃ w' n m, exec (.dld h d a x) s = .next { onlyWave s c w' with free := n, mem := m } ∧ onlyReads s.mem m ∧ Retired c w w' ∧
        Wrote { h := h, d := d, w64 := false, sgn := false, srcs := [a, x]
                val := fun _ _ j => BitVec.ofNat 64 (if word j = 0 then 0 else mulF (valOf (word j)) (powF (gam j) (age j))) }
          c w (w.enabled c.mask h) w') ∧
    (word (lead (w.enabled c.mask h)) / 2 ^ 56 % 256 = 0 → ageOf (word (lead (w.enabled c.mask h))) (stepStamp s w) = none →
      TrapsReading (.dld h d a x) s c { cause := .staleStamp, addr := wordAddr w (lead (w.enabled c.mask h)) a x })) ∧
  (∀ s c w h d a b, Issuing s c w → latchOk w c.mask [a, b] = true → w.enabled c.mask h ≠ 0 → allowed s w → s.isDet w.wg = false →
    let p := fun j => (rd64 w j a).toNat
    let q := fun j => (rd64 w j b).toNat
    ∀ (ap aq g : Nat → Nat),
    ((∀ j ∈ atomicSlots (w.enabled c.mask h) d.s, p j ≠ 0 → q j ≠ 0 → selOf (p j) = selOf (q j) ∧
        ages s w j (p j) (ap j) (g j) ∧ ages s w j (q j) (aq j) (g j)) →
      ∃ w' n m, exec (.dmerge h d a b) s = .next { onlyWave s c w' with free := n, mem := m } ∧ onlyReads s.mem m ∧ Retired c w w' ∧
        Wrote { h := h, d := d, w64 := true, sgn := false, srcs := [a, b]
                val := fun _ _ j => BitVec.ofNat 64 (
                  if p j = 0 then q j else if q j = 0 then p j
                  else if ap j ≤ aq j then
                    stamped (addF (valOf (p j)) (mulF (valOf (q j)) (powF (g j) (aq j - ap j)))) (stampBits (p j)) (selOf (p j))
                  else
                    stamped (addF (valOf (q j)) (mulF (valOf (p j)) (powF (g j) (ap j - aq j)))) (stampBits (q j)) (selOf (q j))) }
          c w (w.enabled c.mask h) w') ∧
    (p (lead (w.enabled c.mask h)) ≠ 0 → q (lead (w.enabled c.mask h)) ≠ 0 →
      selOf (p (lead (w.enabled c.mask h))) ≠ selOf (q (lead (w.enabled c.mask h))) →
      TrapsReading (.dmerge h d a b) s c { cause := .staleStamp, info := 1 })) ∧
  (∀ s c w h sel a x y (pa : Nat → Nat), Issuing s c w → latchOk w c.mask [a, x, y] = true → w.enabled c.mask h ≠ 0 → outside s w →
    unstaged s c w →
    let uniform := Src.uniform a && Src.uniform x && Src.uniform y
    let slots := atomicSlots (w.enabled c.mask h) uniform
    (∀ j ∈ slots, checks s w 8 .store (wordAddr w j a y) (pa j) ∧ (asuCell (pa j)).isSome = true ∧ s.stalledAt (pa j) = false) →
    ∃ w', exec (.dset h sel a x y) s = .next { onlyWave s c w' with
        fresh := s.fresh + slots.length
        reqs := sent s (slots.map fun j =>
          { asu := asuOf ((asuCell (pa j)).getD 0), wave := c.wave, wg := w.wg, ctx := s.ctxOf w.wg, path := c.path
            slots := if uniform then w.enabled c.mask h else BitVec.ofNat 32 (2 ^ j), op := .dset, va := wordAddr w j a y, pa := pa j
            priv := w.priv, pc := c.pc, next := c.next
            x := BitVec.ofNat 64 (stamped (rdTy .f32 w j x).toNat (stepStamp s w) sel.toNat) }) } ∧ ServedGoOn c w h uniform w') ∧
  (∀ s k r cell, s.reqs.get? k = some r → s.reqReady k r = true → r.op = .dset → r.d = none → r.precise = false →
    asuCell r.pa = some cell → cell % 8 = 0 → s.memWf = true →
    ∃ t, exec (.asuOperation k) s = .next t ∧ t.reqs = s.reqs.del k ∧ t.waves = s.waves ∧ t.homeRead r.pa 8 = r.x.toNat) ∧
  (∀ s c w h sel a x y j pa cell, Issuing s c w → latchOk w c.mask [a, x, y] = true → outside s w → unstaged s c w →
    s.posted c.wave c.mask = false → w.enabled c.mask h ≠ 0 → s.memWf = true →
    let uniform := Src.uniform a && Src.uniform x && Src.uniform y
    atomicSlots (w.enabled c.mask h) uniform = [j] →
    checks s w 8 .store (wordAddr w j a y) pa → asuCell pa = some cell → cell % 8 = 0 → s.stalledAt pa = false →
    let taken : State := { s with mem := s.mem.l2Take (cell / 64) (homeDie cell) (s.asidOf (s.ctxOf w.wg)) }
    let old := taken.homeRead pa 8
    let add := (rdTy .f32 w j x).toNat
    let st := stepStamp s w
    ∀ age g new,
    (old = 0 ∧ new = stamped (addF 0 add) st sel.toNat) ∨
    (old ≠ 0 ∧ 0 < (stampBits old - st).toInt ∧ new = old / 2 ^ 32 * 2 ^ 32 + addF (valOf old) add) ∨
    (old ≠ 0 ∧ (stampBits old - st).toInt ≤ 0 ∧ ages taken w j old age g ∧
      new = stamped (addF (mulF (valOf old) (powF g age)) add) st (selOf old)) →
    ∃ t, exec (.dadd h sel a x y) s = .next t ∧ t.homeRead pa 8 = new ∧ t.mem.cells = s.mem.cells ∧ t.wgs = s.wgs ∧ t.reqs = s.reqs ∧
      ServedGoOn c w h uniform (t.waveD c.wave) ∧
      ∀ p d, place p = .cell d .cached → ¬(cell ≤ d ∧ d < cell + 8) → t.readByte (homeDie cell) p = taken.readByte (homeDie cell) p))) ∧
  ((∀ s c w g h d t, At s c w g h → outside s w → unstaged s c w →
    let cx := s.ctxD (s.ctxOf w.wg)
    let to_ := w.sreg t.toNat
    (to_.toNat ≤ cx.stepv.toNat → s.posted c.wave c.mask = false →
      Becomes (.stepadv h d t) s s c (Answered h (some d) true cx.stepv c w)) ∧
    (cx.stepv.toNat < to_.toNat → to_.toNat - cx.stepv.toNat ≤ 8192 → to_.toNat / 8192 = cx.stepv.toNat / 8192 →
      s.posted c.wave c.mask = false →
      Becomes (.stepadv h d t) s { s with ctxs := s.ctxs.set (s.ctxOf w.wg) { cx with stepv := to_ } } c
        (Answered h (some d) true to_ c w)) ∧
    (8192 < to_.toNat - cx.stepv.toNat → Traps (.stepadv h d t) s c { cause := .illegalOperand, info := 5 })) ∧
  (∀ (s : State) (ctx : BitVec 6) va n rest pa g cell, (s.ctxD ctx.toNat).sweep = some { regions := (va, n) :: rest } →
    s.checkAsuRw (s.whoHub ctx.toNat) 8 va = .ok pa → asuCell pa = some cell → cell % 8 = 0 → s.stalledAt pa = false →
    s.memWf = true →
    let taken : State := { s with mem := s.mem.l2Take (cell / 64) (homeDie cell) (s.asidOf ctx.toNat) }
    let x := taken.homeRead pa 8
    let st := ((s.ctxD ctx.toNat).stepv).setWidth 16
    let old := x ≠ 0 ∧ x / 2 ^ 56 % 256 = 0 ∧ 16384 ≤ (st - stampBits x).toNat ∧ (st - stampBits x).toNat < 32768
    (old → s.gamma (s.whoHub ctx.toNat) none (s.ctxD ctx.toNat).decaytab (selOf x) = .ok g) →
    ∃ t, exec (.sweepVisit ctx) s = .next t ∧ t.waves = s.waves ∧ t.mem.cells = s.mem.cells ∧
      (old → t.homeRead pa 8 = stamped (mulF (valOf x) (powF g (st - stampBits x).toNat)) st (selOf x)) ∧
      (¬old → t.homeRead pa 8 = x) ∧
      (t.ctxD ctx.toNat).sweep =
        if 1 < n then some { regions := (va + 8, n - 1) :: rest } else if rest = [] then none else some { regions := rest }))

/-- R349, R352, R353, R370, R372: `SGFORK` initialises the group's object (its size, open, every sibling valid, none reported, the
budget) and starts one sibling grid of that many workgroups as a child of the wave; `SGWAIT` retires with the status once the group is
done, and waits while it is open. R315, R351, R354, R355, R371, R372: the unit answers `SGINFO` from the header, records a reward and
that its sibling has reported, takes a cancelled sibling out of the valid ones, closes a group (which is then done), and a sibling whose
budget is used up times out; `GQREL` leaves the released index in the queue. What the rules leave open here is the model's choice:
notes/assumptions/7.md and notes/assumptions/19.md. -/
def Obligations.SiblingGroups : Prop :=
  ((∀ s c w g h obj ker bud g1 nstr1 pa hd, At s c w g h → w.enabled c.mask h = w.liveMask → outside s w → unstaged s c w →
    s.memWf = true → (s.gridOf w.wg).depth ≤ 9 → ObjectAt s w (w.sreg obj.toNat) (lead (w.enabled c.mask h)) pa →
    (w.sreg ker.toNat).toNat % 64 = 0 → s.readHeader (s.ctxOf w.wg) (w.sreg ker.toNat) = some hd → hd.pair = false →
    hd.cores = false → hd.txn = false → hd.templs = [] → s.waveQuiet c.wave = true →
    s.depCount (s.ctxOf w.wg) + (g1.toNat + 1) ≤ 4096 →
    s.objStalled { ctx := s.ctxOf w.wg, va := w.sreg obj.toNat, pa := pa } = false → s.slotless w = false →
    (s.objRead { ctx := s.ctxOf w.wg, va := w.sreg obj.toNat, pa := pa } 4 4).testBit 0 = false →
    ∃ t k, exec (.sgfork h obj ker bud g1 0 nstr1) s = .next t ∧
      t.sgHdr { ctx := s.ctxOf w.wg, va := w.sreg obj.toNat, pa := pa } =
        { g := g1.toNat + 1, status := 1, valid := 2 ^ (g1.toNat + 1) - 1, reported := 0, cancel := 0, budget := (w.sreg bud.toNat).toNat
          timedout := 0, bad := false } ∧
      t.grids.get? s.fresh = some k → k.kind = .siblings (w.sreg obj.toNat) pa [] ∧
        k.parent = some c.wave ∧ k.lrec.kernel = w.sreg ker.toNat ∧ k.size = g1.toNat + 1 ∧ k.lrec.nstr = nstr1.toNat + 1 ∧
        (t.waveD c.wave).kids = w.kids + 1 ∧ (t.waveD c.wave).icount = w.icount + 1) ∧
  (∀ s c w g h d obj pa, At s c w g h → w.enabled c.mask h = w.liveMask → allowed s w →
    s.checkObj w (w.sreg obj.toNat) (lead (w.enabled c.mask h)) = .ok pa →
    let x := s.sgHdr { ctx := s.ctxOf w.wg, va := w.sreg obj.toNat, pa := pa }
    s.slotless w = false → x.bad = false →
    (x.status.testBit 2 = true → ∃ w', exec (.sgwait h d obj) s = .next { onlyWave s c w' with
          mem := { s.mem with l1 := s.mem.l1.filter fun y => y.core != s.coreOf w } } ∧
        w'.icount = w.icount + 1 ∧ (∀ n, w'.sreg n = if d.s = true ∧ h.nwb = false ∧ n = d.n.toNat
          then (BitVec.ofNat 32 x.status).setWidth 64 else w.sreg n) ∧
        ∀ i n, i < 32 → c.mask.getLsbD i = true → (w'.strand i).v32 n =
          if d.s = false ∧ h.nwb = false ∧ (w.enabled c.mask h).getLsbD i = true ∧ n = d.n.toNat then BitVec.ofNat 32 x.status
          else (w.strand i).v32 n) ∧
    (x.status.testBit 2 = false → x.status.testBit 0 = true → exec (.sgwait h d obj) s = .next { s.waitAt c true with cur := none }))) ∧
  ((∀ s k r o sel, GroupReq s k r o → r.op = .sginfo sel →
    let x := (s.homeTake r).sgHdr o
    ∃ t, exec (.asuOperation k) s = .next t ∧ t.mem.cells = s.mem.cells ∧
    t.mem.l2 = (s.homeTake r).mem.l2 ∧ t.waves = s.waves ∧ t.reqs = s.reqs.set k { r with reply := some (.val (BitVec.ofNat 64 (
      match sel with
      | 0 => x.status + x.g * 2 ^ 32
      | 1 => x.valid
      | 2 => x.reported
      | 3 => x.cancel
      | _ => x.timedout))) }) ∧
  (∀ s k r o, GroupReq s k r o → r.op = .sgreward →
    let x := (s.homeTake r).sgHdr o
    x.status.testBit 0 = true → x.status.testBit 2 = false → r.x.toNat < x.g → x.cancel.testBit r.x.toNat = false →
    x.reported.testBit r.x.toNat = false → x.valid &&& (x.reported ||| 2 ^ r.x.toNat) ≠ x.valid →
    ∃ t, exec (.asuOperation k) s = .next t ∧ t.waves = s.waves ∧ t.reqs = s.reqs.set k { r with reply := some (.val 1) } ∧
      t.sgHdr o = { x with reported := x.reported ||| 2 ^ r.x.toNat } ∧
      t.objRead o (64 + 4 * r.x.toNat) 4 = r.y.toNat % 2 ^ 32) ∧
  (∀ s k r o, GroupReq s k r o → r.op = .sgcancel → ((s.homeTake r).sgHdr o).status.testBit 0 = true →
    r.x.toNat < ((s.homeTake r).sgHdr o).g → dispatched s o r.x.toNat →
    ∃ t, exec (.asuOperation k) s = .next t ∧ t.reqs.get? k = some { r with reply := some (.val 0) } ∧
      (t.sgHdr o).cancel.testBit r.x.toNat = true ∧ (t.sgHdr o).valid.testBit r.x.toNat = false) ∧
  (∀ s k r o, GroupReq s k r o → r.op = .sgclose → ((s.homeTake r).sgHdr o).status.testBit 0 = true → (∀ i, dispatched s o i) →
    ∃ t, exec (.asuOperation k) s = .next t ∧ t.reqs.get? k = some { r with reply := some (.val 0) } ∧
      (t.sgHdr o).status.testBit 2 = true ∧ (t.sgHdr o).status.testBit 1 = true ∧
      (t.sgHdr o).valid = ((s.homeTake r).sgHdr o).valid &&& ((s.homeTake r).sgHdr o).reported) ∧
  (∀ s g x, (s.wgD g).sib = some x → s.isDet g = false → s.budgetOver g = true → s.memWf = true →
    let o : ObjAt := { ctx := s.ctxOf g, va := x.obj, pa := x.pa }
    x.obj.toNat % 4096 + 640 ≤ 4096 → x.pa % 4096 = x.obj.toNat % 4096 → (asuCell x.pa).isSome = true → dispatched s o x.index →
    (s.sgHdr o).bad = false → (s.sgHdr o).status.testBit 0 = true → (s.sgHdr o).valid.testBit x.index = true →
    (s.sgHdr o).reported.testBit x.index = false →
    ∃ t, exec (.siblingBudgetExpiry g) s = .next t ∧ (t.sgHdr o).timedout.testBit x.index = true ∧
      (t.sgHdr o).cancel.testBit x.index = true ∧ (t.sgHdr o).valid.testBit x.index = false) ∧
  (∀ s k r cell s' q, s.reqs.get? k = some r → s.reqReady k r = true → r.precise = true → r.op = .gqrel → asuCell r.pa = some cell →
    cell % 64 = 0 → s.memWf = true →
    let taken := s.homeTake r
    let rd := fun off n => taken.homeRead (r.pa + off) n
    rd 29 3 = 0 → rd 56 8 = 0 → powerIn 1 20 (rd 24 4) = true → rd 28 1 ≤ 2 → r.x.toNat ≤ rd 32 8 →
    (r.x.toNat ≤ rd 40 8 → ∃ t, exec (.asuOperation k) s = .next t ∧ t.mem.cells = s.mem.cells ∧ t.mem.l2 = taken.mem.l2 ∧
      t.reqs = s.reqs.set k { r with reply := some (.val 0) }) ∧
    (rd 40 8 < r.x.toNat → r.x.toNat - rd 40 8 ≤ rd 24 4 →
      taken.egressAll r (BitVec.ofNat 64 (rd 0 8)) (BitVec.ofNat 64 (rd 8 8)) (rd 24 4) (16 * 2 ^ rd 28 1)
        ((List.range (r.x.toNat - rd 40 8)).map (rd 40 8 + ·)) = .ok s' →
      s'.checkAt (taken.whoReq r) .store 8 (BitVec.ofNat 64 (rd 16 8)) = .ok q →
      ∃ t, exec (.asuOperation k) s = .next t ∧ t.reqs.get? k = some { r with reply := some (.val 0) } ∧
        t.homeRead (r.pa + 40) 8 = r.x.toNat)))

end

namespace Sys2Proof.Claims

open Sys2Proof Sys2Proof.Machine

/-! ## Launches and tasks (12_tasks) -/

/-- What an instruction of the blocking set with a result leaves of the registers (R32, R39). -/
def BlockAnswered (h : Hd) (d : Dst) (x : BitVec 32) (c : Issue) (w w' : Wave) : Prop :=
  w'.icount = w.icount + 1 ∧
  (∀ n, w'.sreg n = if d.s = true ∧ h.nwb = false ∧ n = d.n.toNat then x.setWidth 64 else w.sreg n) ∧
  ∀ i n, i < 32 → c.mask.getLsbD i = true → (w'.strand i).v32 n =
    if d.s = false ∧ h.nwb = false ∧ (w.enabled c.mask h).getLsbD i = true ∧ n = d.n.toNat then x else (w.strand i).v32 n

/-- The wave may start a child (R324, R325, R344): nothing of it is outstanding, its record can be read, depth 10 is not passed. -/
structure MayStart (s : State) (c : Issue) (w : Wave) (g : Wg) (h : Hd) (va : BitVec 64) (pa : Nat) : Prop where
  at_    : At s c w g h
  out    : outside s w
  free   : unstaged s c w
  depth  : (s.gridOf w.wg).depth ≤ 9
  record : checks s w 64 .load va pa
  quiet  : s.waveQuiet c.wave = true

/-- The grid that an instruction has started (R323, R324): a child of the wave, one level deeper, with its context's CSRs
latched. -/
def childGrid (s t : State) (c : Issue) (w : Wave) (k : Grid) : Prop :=
  t.grids.get? s.fresh = some k ∧ k.ctx = s.ctxOf w.wg ∧ k.parent = some c.wave ∧ k.depth = (s.gridOf w.wg).depth + 1 ∧
  k.lat.seed = (s.ctxD (s.ctxOf w.wg)).seed ∧ k.lat.detctl = (s.ctxD (s.ctxOf w.wg)).detctl ∧
  k.number = (s.ctxD (s.ctxOf w.wg)).accepted ∧ (t.waveD c.wave).kids = w.kids + 1 ∧ (t.waveD c.wave).icount = w.icount + 1 ∧
  t.mem.cells = s.mem.cells ∧ t.mem.l2 = s.mem.l2

/-- The number in bytes `o` to `o + n - 1` of a record, little-endian. -/
def fieldOf (b : List (BitVec 8)) (o n : Nat) : Nat := ofBytes ((b.drop o).take n)

/-- The value of `QRY` (R346). -/
def queried (s : State) (w : Wave) : QrySel → Nat
  | .split i => match (s.gridOf w.wg).hdr with
    | some h => match h.splits.find? fun e => e.1 == rd32 w 0 i with
      | some e => e.2.toNat
      | none => 0
    | none => 0
  | .depth => (s.gridOf w.wg).depth
  | .lin => (s.wgD w.wg).lin
  | .nwg => (s.gridOf w.wg).lrec.nx * (s.gridOf w.wg).lrec.ny * (s.gridOf w.wg).lrec.nz
  | .kids => w.kids
  | .tasks => 4096 - (s.deps.filter fun e => e.2.die == s.tableDie (s.ctxOf w.wg)).length
  | .round => if (s.gridOf w.wg).lat.detctl.getLsbD 0 then ((s.gridOf w.wg).round).getD 0 else 0

/-- A step of the lottery's generator (R327). -/
def xorshift (x : BitVec 32) : BitVec 32 :=
  let x := x ^^^ (x <<< 13)
  let x := x ^^^ (x >>> 17)
  x ^^^ (x <<< 5)

/-- Tickets of a list of queues. -/
def ticketSum (l : List (Nat × Nat × Nat × Nat)) : Nat := (l.map fun q => q.2.2.1).sum

/-- The status code that a grid retires with (R321). -/
def statusCode (g : Grid) : Nat :=
  if g.aborted = true then 7
  else match g.fail with
    | some c => c
    | none => if g.killed = true then 6 else if g.poisoned = true then 5 else if g.part = true then 8 else 0

/-- A launch whose next workgroup can be dispatched by itself (R328): no replay, no workgroup of the swap area and no task comes
before it. -/
structure NextOffer (s : State) (k lin : Nat) (g : Grid) (hd : Header) : Prop where
  grid   : s.grids.get? k = some g
  offers : s.offers k = true
  det    : g.det = false
  hdr    : g.hdr = some hd
  pair   : hd.pair = false
  next   : lin = g.next ∧ g.next < g.size
  replay : s.replaysOf g.ctx g.queue = []
  swap   : s.swapPending k = none

end Sys2Proof.Claims

section

open Sys2Proof Sys2Proof.Machine Sys2Proof.Claims

/-- R320, R323 to R325, R329, R335, R343, R344: `LAUNCH`, `TASK` and `TASKC` start a grid, a child of the wave with its context's CSRs
latched, from the record or descriptor that the wave reads: a launch waits in the queue that the instruction names, a task is entered
into the dependence table or decided at once; the wave retires with one child more, and no byte of memory changes. R344, R345, R346,
R347, R348, R340: `LAUNCH` and `TASK` at depth 10 trap NESTING_OVERFLOW; `JOINC` of a wave without children answers and clears what
their statuses were, and waits while there are children; `QRY` answers its word, `TASKQ` reads and sets a queue's tickets, and `DETSYNC`
retires outside deterministic mode and is a staging point in it; nothing else changes. What the rules leave open here is the model's
choice: notes/assumptions/7.md and notes/assumptions/18.md. -/
def Obligations.ChildrenStartAndJoin : Prop :=
  ((∀ s c w g h a q same pa b, MayStart s c w g h (w.sreg a.toNat) pa →
    s.snapshot w (w.sreg a.toNat) 128 (lead (w.enabled c.mask h)) = .ok b →
    let n := if same then (s.gridOf w.wg).queue else q.toNat
    ∃ t k, exec (.launch h a q same) s = .next t ∧ childGrid s t c w k ∧ k.kind = .launch ∧ k.queue = n ∧
      k.lrec.kernel = BitVec.ofNat 64 (fieldOf b 0 8) ∧ k.lrec.nx = fieldOf b 8 4 ∧ k.lrec.ny = fieldOf b 12 2 ∧
      k.lrec.nz = fieldOf b 14 2 ∧ k.lrec.nstr = fieldOf b 16 1 ∧ k.lrec.args.length = 8 ∧
      (∀ i, i < 8 → k.lrec.args[i]? = some (BitVec.ofNat 64 (fieldOf b (64 + 8 * i) 8))) ∧
      ((t.ctxD (s.ctxOf w.wg)).queues.getD n {}).kids = ((s.ctxD (s.ctxOf w.wg)).queues.getD n {}).kids ++ [s.fresh]) ∧
  (∀ s c w g h a cond inv pa b r i, (i = Instr.task h a ∧ cond = false ∧ inv = false ∨ i = Instr.taskc h a inv ∧ cond = true) →
    MayStart s c w g h (w.sreg a.toNat) pa → s.depCount (s.ctxOf w.wg) < 4096 →
    s.snapshot w (w.sreg a.toNat) 64 (lead (w.enabled c.mask h)) = .ok b →
    s.snapshot w (w.sreg a.toNat + 64) (32 * fieldOf b 20 1) (lead (w.enabled c.mask h)) = .ok r →
    ∃ t k, exec i s = .next t ∧ childGrid s t c w k ∧ k.queue = (s.gridOf w.wg).queue ∧
      (∃ rs, k.kind = .task (BitVec.ofNat 32 (fieldOf (b ++ r) 8 4)) (BitVec.ofNat 32 (fieldOf (b ++ r) 12 4))
        (BitVec.ofNat 32 (fieldOf (b ++ r) 16 4)) rs (if cond then some (BitVec.ofNat 64 (fieldOf (b ++ r) 24 8)) else none) inv) ∧
      k.lrec.kernel = BitVec.ofNat 64 (fieldOf (b ++ r) 0 8) ∧ k.lrec.nstr = fieldOf (b ++ r) 21 1 ∧ k.started = true ∧
      (k.fail.isSome = true ∨ ∃ d e, t.deps.get? d = some e ∧ e.grid = s.fresh ∧ e.st = .waiting))) ∧
  ((∀ s c w g h, At s c w g h → outside s w → 10 ≤ (s.gridOf w.wg).depth → ∀ i,
    (∃ a, i = Instr.task h a) ∨ (∃ a v, i = .taskc h a v) ∨ (∃ a q m, i = .launch h a q m) →
    Traps i s c { cause := .nestingOverflow }) ∧
  (∀ s c w g h d, At s c w g h → allowed s w →
    (w.kids = 0 → ∃ w', exec (.joinc h d) s = .next { onlyWave s c w' with
        mem := { s.mem with l1 := s.mem.l1.filter fun y => y.core != s.coreOf w } } ∧
      BlockAnswered h d w.kidMask c w w' ∧ w'.kidMask = 0) ∧
    (w.kids ≠ 0 → exec (.joinc h d) s = .next { s.waitAt c true with cur := none })) ∧
  (∀ s c w g h d o, At s c w g h → allowed s w →
    Becomes (.qry h d o) s s c (Answered h (some d) true (BitVec.ofNat 64 (queried s w o)) c w)) ∧
  (∀ s c w g h d q, At s c w g h → allowed s w →
    let n := (rdU w q).toNat
    let x := (s.ctxD (s.ctxOf w.wg)).queues.getD n {}
    (n < 64 → x.tickets < 256 → Becomes (.taskqRd h d q) s s c (Answered h (some d) true
      ((0 : BitVec 55) ++ BitVec.ofBool (!(x.kids ++ x.recs).isEmpty) ++ BitVec.ofNat 8 x.tickets) c w)) ∧
    (64 ≤ n → Traps (.taskqRd h d q) s c { cause := .illegalOperand, info := 5 })) ∧
  (∀ s c w g h q a, At s c w g h → allowed s w →
    let n := (rdU w q).toNat
    let cx := s.ctxD (s.ctxOf w.wg)
    (n < 64 → (rdU w a).toNat < 256 → Becomes (.taskqWr h q a) s
      { s with ctxs := s.ctxs.set (s.ctxOf w.wg) { cx with
          queues := cx.queues.set n ({ cx.queues.getD n {} with tickets := (rdU w a).toNat } : HwQueue) } } c (Passed c w)) ∧
    (n < 64 → 256 ≤ (rdU w a).toNat → Traps (.taskqWr h q a) s c { cause := .illegalOperand, info := 6 })) ∧
  (∀ s c w g h, At s c w g h → allowed s w →
    (s.isDet w.wg = false ∨ c.go = true → Becomes (.detsync h) s s c (Passed c w)) ∧
    (s.isDet w.wg = true → c.go = false → exec (.detsync h) s = .next { s.stageAt c with cur := none, tick := s.tick + 1 })))

/-- R51, R326, R327, R408: a ring record that can be read becomes a pending launch of its queue, its consumer index steps and is stored;
a lottery draw steps the generator, and the queue in whose tickets the number falls starts its first record. What the rules leave open
here is the model's choice: notes/assumptions/18.md. -/
def Obligations.RecordsAcceptedAndDrawn : Prop :=
  (∀ (s : State) (ctx q : BitVec 6) k pa b pc c, s.ringReady ctx.toNat q.toNat = true → s.stalling = false → (s.ctxD ctx.toNat).queues.get? q.toNat = some k →
    0 < k.cap → let a := s.whoHub ctx.toNat
    let va := k.rbase + BitVec.ofNat 64 (128 * (k.cidx.toNat % k.cap))
    s.checkAt a .load 64 va = .ok pa → s.readRange a va 128 = .ok b →
    ∃ t g, exec (.ringRecordAccept ctx q) s = .next t ∧ t.grids.get? s.fresh = some g ∧ g.ctx = ctx.toNat ∧ g.queue = q.toNat ∧
      g.kind = .launch ∧ g.parent = none ∧ g.lrec.kernel = BitVec.ofNat 64 (fieldOf b 0 8) ∧ g.lrec.nx = fieldOf b 8 4 ∧
      g.lrec.nstr = fieldOf b 16 1 ∧ g.lat.seed = (s.ctxD ctx.toNat).seed ∧
      (t.ctxD ctx.toNat).queues.get? q.toNat = some { k with recs := k.recs ++ [s.fresh], cidx := k.cidx + 1 } ∧
      (s.checkAt a .store 4 k.cons = .ok pc → place pc = .cell c .cached →
        t.readBytes 0 pc 4 = toBytes 4 (k.cidx + 1).toNat)) ∧
  (∀ (s : State) before cx q n k rest, s.eligibleQueues = before ++ (cx, q, n, k) :: rest → (s.grids.get? k).isSome = true →
    let x := (xorshift s.hub.lottery).toNat % ticketSum s.eligibleQueues
    ticketSum before ≤ x → x < ticketSum before + n →
    ∃ t, exec .lotteryDraw s = .next t ∧ t.hub.lottery = xorshift s.hub.lottery ∧ (t.gridD k).started = true ∧ t.mem = s.mem) ∧
  (∀ (s : State) cx q n k rest, s.eligibleQueues = (cx, q, n, k) :: rest → ticketSum s.eligibleQueues = 0 →
    (s.grids.get? k).isSome = true →
    ∃ t, exec .lotteryDraw s = .next t ∧ t.hub.lottery = xorshift s.hub.lottery ∧ (t.gridD k).started = true) ∧
  (∀ s : State, s.eligibleQueues = [] → exec .lotteryDraw s = .next s)

/-- R16 to R18, R23, R197, R323, R324, R328: `WORKGROUP_DISPATCH` makes the next workgroup of a launch resident on the core that has
room in a cluster whose tile table has room, with the header's waves, each with the launch's strands at the entry point, where no replay
of the queue, no workgroup of the swap area and no ready task comes before it; where the offered die has no room, the offer goes to the
next one; a co-resident grid is placed whole or not at all. What the rules leave open here is the model's choice: notes/assumptions/18.md. -/
def Obligations.WorkgroupsDispatch : Prop :=
  (∀ s k lin g hd core, NextOffer s k lin g hd → s.taskFits (s.offerDie k lin) = false →
    s.pickCore hd ((s.coresOfDie g.ctx (s.offerDie k lin)).filter fun c => s.tilesFor k (clusterOf c)) = some core →
    ∃ t x, exec (.workgroupDispatch k) s = .next t ∧ t.wgs.get? s.fresh = some x ∧ x.grid = k ∧ x.lin = lin ∧ x.core = core ∧
      x.st = .running ∧ x.pair = none ∧ x.waves.length = hd.waves ∧ (t.gridD k).next = lin + 1 ∧ (t.gridD k).die = none ∧ t.mem = s.mem ∧
      (g.kind = .launch → x.x = BitVec.ofNat 32 (lin % g.lrec.nx) ∧ x.y = BitVec.ofNat 32 (lin / g.lrec.nx % g.lrec.ny) ∧
        x.z = BitVec.ofNat 32 (lin / g.lrec.nx / g.lrec.ny)) ∧
      ∀ i u, x.waves[i]? = some u → ∃ w, t.waves.get? u = some w ∧ w.wg = s.fresh ∧ w.idx = i ∧ w.win = hd.wregs ∧ w.st = .running ∧
        (∀ j, j < 8 → w.sreg j = (g.lrec.args[j]?).getD 0) ∧
        ∀ j, j < 32 → (w.strand j).live = decide (j < g.lrec.nstr) ∧ (j < g.lrec.nstr → (w.strand j).pc = g.lrec.kernel + 64)) ∧
  (∀ s k lin g hd, NextOffer s k lin g hd → g.parent = none → s.placeIn k lin (s.offerDie k lin) = none → (s.ctxD g.ctx).dies = 0xF →
    s.offerDie k lin < 4 →
    exec (.dispatchOfferTimeout k) s =
      .next { s with grids := s.grids.set k { g with die := some ((s.offerDie k lin + 1) % 4) } }) ∧
  (∀ (s : State) k g hd, s.grids.get? k = some g → g.hdr = some hd → hd.cores = true → g.started = true → g.fail = none →
    (s.ctxD g.ctx).st = .running → g.det = false → g.hasDeps = false → g.next = 0 → (hd.pair = true → g.size % 2 = 0) →
    g.parent = none → s.replaysOf g.ctx g.queue = [] → (∀ d ∈ (s.ctxD g.ctx).dieList, s.taskFits d = false) →
    ∃ t, exec (.coresidentPlacement k) s = .next t ∧ (s.placeAll k g.size 0 = none → t = s) ∧
      (∀ u, s.placeAll k g.size 0 = some u → t = u ∧ (t.gridD k).next = g.size) ∧
      (∀ d rest core, hd.pair = false → g.size = 1 → offerOrder (s.ctxD g.ctx).dieList 0 = d :: rest →
        s.pickCore hd ((s.coresOfDie g.ctx d).filter fun c => s.tilesFor k (clusterOf c)) = some core → ∃ x, t.wgs.get? s.fresh = some x ∧ x.grid = k ∧ x.core = core ∧
          x.st = .running ∧ (t.gridD k).next = 1))

/-- R329 to R333, R335: a task whose earlier conflicts are gone is dispatched to a core with room, and starts when its tiles are staged;
one that reads what a killed task was to write never runs; the predicate of a conditional task, with what earlier tasks wrote where the
task declares that it reads it, decides whether it runs; a retired task's versions drain to memory, those of the regions that no earlier
task holds back, and the entry is free when all have. What the rules leave open here is the model's choice: notes/assumptions/18.md. -/
def Obligations.TasksProceed : Prop :=
  (∀ s k d hd die rest core, s.deps.get? k = some d → s.depReady d = true → d.det = false → (s.gridD d.grid).hdr = some hd → hd.pair = false →
    hd.cores = false → s.replaysOf d.ctx (s.gridD d.grid).queue = [] → offerOrder (s.ctxD d.ctx).dieList d.lin = die :: rest →
    s.pickCore hd ((s.coresOfDie d.ctx die).filter fun c => s.tileRoom d (clusterOf c)) = some core →
    ∃ t e g, exec (.taskDispatch k) s = .next t ∧ t.deps.get? k = some e ∧ e.st = .staging ∧ e.wg = some s.fresh ∧
      t.wgs.get? s.fresh = some g ∧ g.task = some k ∧ g.core = core ∧ g.st = .staging ∧ g.waves.length = hd.waves ∧ t.mem = s.mem) ∧
  (∀ s k d, s.deps.get? k = some d → d.poison = true → d.st = .waiting → (s.deps.map (·.1)).Pairwise (· < ·) → k < s.fresh →
    (s.grids.get? d.grid).isSome = true → (s.gridD d.grid).next = (s.gridD d.grid).size →
    (∀ e ∈ s.deps, e.2.grid = d.grid → e.2.pred = none ∨ e.1 = k) →
    ∃ t, exec (.taskDispatch k) s = .next t ∧ t.deps.get? k = none ∧ (t.gridD d.grid).retired = (s.gridD d.grid).retired + 1 ∧
      t.mem = s.mem ∧ t.waves = s.waves) ∧
  (∀ s k d g x, s.deps.get? k = some d → d.st = .staging → d.wg = some g → s.wgs.get? g = some x → x.task = some k → x.st = .staging →
    x.pair = none → (∀ h, (s.gridD d.grid).hdr = some h → h.cores = false) →
    (∀ r ∈ d.regions, r.2.fitsTile = true → r.2.mode = .write) →
    exec (.taskStagedStart k) s = .next { s with
      deps := s.deps.set k { d with st := .running }, wgs := s.wgs.set g { x with st := .running } }) ∧
  (∀ s k d va pa, s.deps.get? k = some d → d.pred = some va → d.st = .waiting → d.poison = false → (s.ctxD d.ctx).st = .running →
    s.depClear d = true → s.checkAt (s.whoHub d.ctx) .load 4 va = .ok pa →
    (s.deps.map (·.1)).Pairwise (· < ·) → k < s.fresh → (s.grids.get? d.grid).isSome = true →
    (s.gridD d.grid).next = (s.gridD d.grid).size → (∀ e ∈ s.deps, e.1 ≠ k → e.2.grid ≠ d.grid ∧ s.predReady e.2 = false) →
    let byte := fun j =>
      let v := va + BitVec.ofNat 64 j
      let here := s.readByte (s.whoHub d.ctx).die (pa + j)
      if d.regions.any fun q => q.2.mode != .write && (q.2.locate v).isSome then (s.olderByte d v).getD here else here
    ∃ t, exec (.conditionalPredicateRead k) s = .next t ∧
      (((∃ j, j < 4 ∧ byte j ≠ 0) ↔ d.inv = false) → t = { s with deps := s.deps.set k { d with pred := none } }) ∧
      (¬((∃ j, j < 4 ∧ byte j ≠ 0) ↔ d.inv = false) → t.deps.get? k = none ∧ t.waves = s.waves ∧ t.mem = s.mem ∧
        (t.gridD d.grid).retired = (s.gridD d.grid).retired + 1 ∧
        ((∃ a b c r p v, (s.gridD d.grid).kind = .task a b c r p v) → (t.gridD d.grid).fail = some 4))) ∧
  (∀ s k d, s.deps.get? k = some d → s.drainReady d = true → (d.det = false ∨ (s.ctxD d.ctx).roundOpen = false) → s.memWf = true →
    (∀ e ∈ s.deps, e.2.pred = none) →
    let due := s.readyRegions d
    let goes := fun (e : Nat × BitVec 8 × BitVec 2) => due.any fun q => (q.2.locate (BitVec.ofNat 64 e.1)).isSome
    let left := { d with ver := d.ver.filter fun e => !goes e, drained := d.drained ++ due.map (·.1) }
    ∃ t, exec (.versionDrain k) s = .next t ∧
      t.deps.get? k = some (if d.regions.any left.undrained then left else { left with st := .draining, ver := [] }) ∧
      t.waves = s.waves ∧
      ∀ sec pa c, (∀ e ∈ d.ver, goes e = true → e.1 / 32 = sec) → (d.ver.map (·.1)).Pairwise (· < ·) →
        s.translate (s.whoDrain d) .store (BitVec.ofNat 64 (sec * 32)) = .ok pa → place pa = .cell c .cached →
        ∀ a b l, d.ver.get? a = some (b, l) → goes (a, b, l) = true → t.readByte (s.whoDrain d).die (pa + a % 32) = b) ∧
  (∀ s k d, s.deps.get? k = some d → d.st = .draining → (s.deps.map (·.1)).Pairwise (· < ·) → k < s.fresh →
    ∃ t, exec (.versionDrainComplete k) s = .next t ∧ t.deps.get? k = none ∧ t.mem = s.mem ∧ t.waves = s.waves)

/-- R22, R56, R321, R322, R324: a workgroup that has ended, whose children have retired and that has nothing outstanding retires: its
record and its waves are gone and its grid counts it; a grid all of whose workgroups have retired ends: its parent has one child less
and the status among those of its children, and its signal word, where it has one, is stored with the status. What the rules leave open
here is the model's choice: notes/assumptions/21.md. -/
def Obligations.WorkgroupsAndLaunchesEnd : Prop :=
  (∀ s k g, s.wgs.get? k = some g → s.isDet k = false → s.retireReady k = true → g.pair = none → g.sib = none → g.task = none →
    (∀ e ∈ s.deps, s.predReady e.2 = false) →
    ∃ t, exec (.workgroupRetire k) s = .next t ∧ t.wgs = s.wgs.del k ∧ t.waves = s.waves.filter (fun e => e.2.wg != k) ∧ t.mem = s.mem ∧
      ∀ x, s.grids.get? g.grid = some x → (t.gridD g.grid).retired = x.retired + 1 ∧ (t.gridD g.grid).part = (x.part || g.killed)) ∧
  (∀ s k g, s.grids.get? k = some g → g.det = false → g.kind = .launch → s.endReady k = true →
    (s.grids.map (·.1)).Pairwise (· < ·) →
    ∃ t, exec (.endOfLaunch k) s = .next t ∧ t.grids.get? k = none ∧
      (∀ u w, g.parent = some u → s.waves.get? u = some w →
        t.waves = s.waves.set u { w with kids := w.kids - 1, kidMask := w.kidMask ||| BitVec.ofNat 32 (2 ^ statusCode g) }) ∧
      (g.parent = none → t.waves = s.waves) ∧
      ∀ pa c, g.lrec.sigen = true → s.writeBackAll.checkAt (s.whoHub g.ctx) .store 8 g.lrec.sigaddr = .ok pa →
        place pa = .cell c .cached → t.readBytes 0 pa 8 = toBytes 8 (g.lrec.sigval.toNat + statusCode g * 2 ^ 32)) ∧
  (∀ s k, s.endReady k = false → exec (.endOfLaunch k) s = .next s) ∧
  (∀ s k, s.retireReady k = false → exec (.workgroupRetire k) s = .next s)

end

namespace Sys2Proof.Claims

open Sys2Proof Sys2Proof.Machine

/-! ## Traps, control registers, system instructions (14_system) -/

/-- `TRAP` and `BRK` (R399): guard, operand, cause. -/
def trapOfInstr : Instr → Option (Hd × Src × Cause)
  | .trap h a => some (h, a, .software)
  | .brk h a => some (h, a, .breakpoint)
  | _ => none

/-- What entering the handler leaves of the wave (R382, R383, R385): the other paths stop, the path's predicate words are saved and
become 0x0001, its latches end, the trap registers are written, PRIV is 1 and the path stands at TRAPBASE; every register keeps
its value. -/
structure Entered (s : State) (c : Issue) (w w' : Wave) (cause : BitVec 8) (addr info : BitVec 64) : Prop where
  frame : w' = { w with
    strands := w'.strands, saved := w'.saved, stopped := w'.stopped
    paths := w.paths.map fun p => if p.born == c.path then { p with wait := .none, edge := .window } else p
    turnOf := some c.path, turnOver := false
    trapcause := cause, trappc := c.pc, trapaddr := addr, trapinfo := info
    trapstat := c.mask ++ (0 : BitVec 4) ++ BitVec.ofBool (s.isDet w.wg) ++ BitVec.ofBool (s.inAttempt w) ++ (0 : BitVec 2)
    rp := c.pc, rpNext := c.next, rpNoLen := c.noLen, priv := 1 }
  strands : ∀ i, w'.strand i = if i < 32 ∧ c.mask.getLsbD i = true then
      { w.strand i with pred := 1, latN := 0, pc := (s.ctxD (s.ctxOf w.wg)).trapbase &&& 0x00FFFFFFFFFFFFE0 } else w.strand i
  saved : ∀ i, i < 32 → c.mask.getLsbD i = true → w'.saved.get? i = some (w.strand i).pred
  stopped : ∀ b, b ∈ w'.stopped ↔ b ≠ c.path ∧ ∃ p ∈ w.paths, p.born = b

/-- A workgroup has been killed (R386 code 2): its waves have ended and it is marked. -/
def Killed (t : State) (g : Nat) (ws : List Nat) : Prop :=
  (∀ u ∈ ws, (t.waveD u).st = .ended) ∧ (t.wgD g).st = .ended ∧ (t.wgD g).killed = true

/-- The strands to which a `TRET` returns (R386): those of PMASK and of the path that are live. -/
def returning (c : Issue) (w : Wave) (i : Nat) : Prop :=
  i < 32 ∧ (w.trapstat.getLsbD (8 + i) = true ∨ c.mask.getLsbD i = true) ∧ (w.strand i).live = true

/-- What `TRET` 0 or 1 to an address leaves of the wave (R386, R400). -/
structure Returned (c : Issue) (w w' : Wave) (dest : BitVec 64) : Prop where
  frame : w' = { w with
    strands := w'.strands, paths := w'.paths, icount := w.icount + 1, roundN := w.roundN + 1, priv := 0, stopped := [], saved := [] }
  back : ∀ i, returning c w i → w'.strand i = { w.strand i with pred := w.saved.getD i (w.strand i).pred, latN := 0, pc := dest }
  rest : ∀ i, ¬returning c w i → w'.strand i = w.strand i
  path : ∀ p ∈ w'.paths, p.born = c.path → ∀ i, i < 32 → (p.mask.getLsbD i = true ↔ returning c w i)

/-- Bits of a control register that a write changes (R45, and the rules of each register). -/
def writable (n : Nat) : BitVec 64 :=
  if n = 0x040 ∨ n = 0x201 then 0xFF
  else if n = 0x041 then 0xF
  else if n = 0x042 then 0x1F
  else if n = 0x100 ∨ n = 0x103 ∨ n = 0x108 then 0xFFFFFFFF
  else if n = 0x101 ∨ n = 0x202 ∨ n = 0x203 ∨ n = 0x204 then 0xFFFFFFFFFFFFFFFF
  else if n = 0x102 then 0x00FFFFFFFFFFFC01
  else if n = 0x104 then 0x3FFFF1FFF
  else if n = 0x105 then 0x00FFFFFFFFFFF0F3
  else if n = 0x106 ∨ n = 0x107 ∨ n = 0x300 then 1
  else if n = 0x200 then 0x00FFFFFFFFFFFFE1
  else if n = 0x301 then 0xFFF
  else if n = 0x302 then 0x000FFFFFFFFF8001
  else if n = 0x303 then 0xFFFF001F
  else if n = 0x304 then 0x000FFFFFFFFFFC01
  else 0

/-- A value that a register's own rule forbids (R62, R273, R337, R357). -/
def forbidden (n : Nat) (x : BitVec 64) : Prop :=
  (n = 0x040 ∧ x.toNat % 256 = 0) ∨ (n = 0x103 ∧ (x.getLsbD 31 = true ∨ x.toNat / 2 ^ 23 % 256 = 255)) ∨ (n = 0x105 ∧ x.toNat % 4 = 3) ∨
    (n = 0x108 ∧ x.toNat % 2 ^ 32 = 0)

/-- The numbers that are assigned (R45). -/
def assigned (n : Nat) : Prop :=
  n ≤ 0x00F ∨ (0x040 ≤ n ∧ n ≤ 0x042) ∨ (0x100 ≤ n ∧ n ≤ 0x108) ∨ (0x200 ≤ n ∧ n ≤ 0x206) ∨ (0x300 ≤ n ∧ n ≤ 0x304)

/-- The levels that the table gives for a read and for a write (R45). -/
def levelOf (n : Nat) (write : Bool) : Nat :=
  if n < 0x200 then (if write = true ∧ n = 0x107 then 1 else 0) else if n < 0x300 then 1 else 2

/-- A register of the table as a wave outside deterministic mode reads it (R45), but for CYCLE and ICOUNT. -/
def csrWord (s : State) (w : Wave) (n : Nat) : BitVec 64 :=
  let g := s.wgD w.wg
  let k := s.gridOf w.wg
  let x := s.ctxD (s.ctxOf w.wg)
  let z := BitVec.ofNat 64
  let task := match k.kind with | .task _ _ _ _ _ _ => true | _ => false
  let dims := if task then [1, 1, 1] else [k.lrec.nx, k.lrec.ny, k.lrec.nz]
  let rung : BitVec 2 := match k.hdr with
    | none => 0
    | some h => if h.txn then (s.wgD (s.txHome w.wg)).tx.rung else h.rung
  match [z w.idx, g.x.setWidth 64, g.y.setWidth 64, g.z.setWidth 64, z (dims.getD 0 0), z (dims.getD 1 0), z (dims.getD 2 0), z g.core,
      z (240 * ((List.range 4).filter fun d => x.dies.getLsbD d).length),
      z (match g.sib with | some y => y.index % 64 + 64 | none => 0), rung.setWidth 64][n - 1]? with
  | some y => y
  | none =>
    if n = 0x00E then z (s.regFree g.core) else if n = 0x00F then z w.paths.length
    else if n = 0x040 then w.quantum.setWidth 64 else if n = 0x041 then w.fpctl.setWidth 64 else if n = 0x042 then w.fpflags.setWidth 64
    else if n = 0x100 then x.seed else if n = 0x101 then x.stepv else if n = 0x102 then x.decaytab else if n = 0x103 then x.sgeps
    else if n = 0x104 then x.txmon else if n = 0x105 then x.txpol else if n = 0x106 then x.fmtchk else if n = 0x107 then x.detctl
    else if n = 0x108 then x.detq else if n = 0x200 then x.trapbase else if n = 0x201 then w.trapcause.setWidth 64
    else if n = 0x202 then w.trappc else if n = 0x203 then w.trapaddr else if n = 0x204 then w.trapinfo
    else if n = 0x205 then w.trapstat.setWidth 64 else if n = 0x206 then w.priv.setWidth 64
    else if n = 0x300 then x.world else if n = 0x301 then x.asid else if n = 0x302 then x.ptbase else if n = 0x303 then x.migctl
    else if n = 0x304 then s.hub.regiontab else 0

/-- A number whose value only the program changes: not CYCLE and not ICOUNT. -/
def steady (n : Nat) : Prop := assigned n ∧ n ≠ 0 ∧ n ≠ 0x00C ∧ n ≠ 0x00D

/-- A written register (R401): its other fields keep their value. -/
def merged (s : State) (w : Wave) (n : Nat) (x : BitVec 64) : BitVec 64 :=
  (csrWord s w n &&& ~~~writable n) ||| (x &&& writable n)

/-- A write of a register acts (R46, R401). -/
def writeOk (s : State) (w : Wave) (n : Nat) (x : BitVec 64) : Prop :=
  assigned n ∧ 0x010 ≤ n ∧ levelOf n true ≤ w.priv.toNat ∧ ¬forbidden n (merged s w n x)

/-- The registers after a write of `x` to number `n` (R401): that one is merged, and every other one keeps its value. -/
def CsrWritten (s t : State) (c : Issue) (w : Wave) (n : Nat) (x : BitVec 64) : Prop :=
  csrWord t (t.waveD c.wave) n = merged s w n x ∧ ∀ m, steady m → m ≠ n → csrWord t (t.waveD c.wave) m = csrWord s w m

/-- What a register instruction leaves of the machine: everything but its wave, its context's record and the hub's. -/
def onlyCsrs (s t : State) : Prop :=
  t.mem = s.mem ∧ t.wgs = s.wgs ∧ t.grids = s.grids ∧ t.tiles = s.tiles ∧ t.reqs = s.reqs ∧ t.loads = s.loads ∧ t.copies = s.copies ∧
    t.entries = s.entries ∧ t.engines = s.engines

/-- Instructions without a destination that act once for the wave, at a level that may execute them: with a guard that is false
everywhere they only retire. -/
def quietWhenOff (w : Wave) (h : Hd) (i : Instr) : Prop :=
  (∃ a, i = .trap h a) ∨ (∃ a, i = .brk h a) ∨ ((∃ a, i = .halt h a) ∧ w.priv = 2) ∨ ((∃ a d, i = .tret h a d) ∧ w.priv = 1) ∨
    (∃ a n, i = .csrw h a n ∧ assigned n.toNat ∧ 0x010 ≤ n.toNat ∧ levelOf n.toNat true ≤ w.priv.toNat) ∨
    ((∃ o, i = .tlbinv h o) ∧ w.priv = 2) ∨ (∃ t, i = .trel h t) ∨ i = .detsync h ∨ (∃ k, i = .ksig h k) ∨ (∃ a, i = .task h a) ∨ (∃ a v, i = .taskc h a v) ∨
    (∃ a q m, i = .launch h a q m) ∨ (∃ q a, i = .taskqWr h q a) ∨ (∃ t a b cw, i = .tcopy h t a b cw) ∨ (∃ t a b cw, i = .tstore h t a b cw) ∨
    ∃ cl q a, i = .qgrant h cl q a

end Sys2Proof.Claims

section

open Sys2Proof Sys2Proof.Machine Sys2Proof.Claims

/-- R382, R383, R385, R399: `TRAP` and `BRK` at level 0, with the handler enabled, enter it: TRAPCAUSE, TRAPPC, TRAPADDR, TRAPINFO and
TRAPSTAT are written, the predicate words are saved and set to 0x0001, PRIV becomes 1 and the path continues at TRAPBASE; nothing else
changes. R380, R384, R386, R403: a trap at level 1 kills the workgroup, and one at level 0 with the handler disabled ends the workgroup
and its grid, each with the cause in the context's error record; a trap at level 2 halts the wave and is reported. `HALT` halts a wave
of level 2, traps PRIVILEGE below, and a halted wave goes on or is discarded. What the rules leave open here is the model's choice:
notes/assumptions/20.md. -/
def Obligations.TrapEntryAndHalt : Prop :=
  (∀ s c w i h a k, trapOfInstr i = some (h, a, k) → Issuing s c w → w.enabled c.mask h ≠ 0 → allowed s w → w.priv = 0 →
    (s.ctxD (s.ctxOf w.wg)).trapbase.getLsbD 0 = true →
    ∃ w', exec i s = .next (onlyWave s c w') ∧ Entered s c w w' (BitVec.ofNat 8 k.code) 0 (rdU w a)) ∧
  ((∀ s c w g i h a k, trapOfInstr i = some (h, a, k) → At s c w g h → outside s w → w.priv = 1 → g.pair = none →
    ∃ t, exec i s = .next t ∧ Killed t w.wg g.waves ∧ t.mem = s.mem ∧
      (t.ctxD (s.ctxOf w.wg)).err.cause = BitVec.ofNat 8 k.code ∧ (t.ctxD (s.ctxOf w.wg)).err.trappc = c.pc) ∧
  (∀ s c w g i h a k, trapOfInstr i = some (h, a, k) → At s c w g h → outside s w → w.priv = 0 → g.pair = none → g.task = none →
    g.st ≠ .ended → (s.ctxD (s.ctxOf w.wg)).trapbase.getLsbD 0 = false → (s.grids.get? g.grid).isSome = true →
    (s.wgs.map (·.1)).Pairwise (· < ·) →
    ∃ t, exec i s = .next t ∧ Killed t w.wg g.waves ∧ (t.gridD g.grid).killed = true ∧ t.mem = s.mem ∧
      (t.ctxD (s.ctxOf w.wg)).err.cause = BitVec.ofNat 8 k.code) ∧
  (∀ s c w i h a code, Issuing s c w → w.enabled c.mask h ≠ 0 → allowed s w → w.priv = 2 →
    ((∃ k, trapOfInstr i = some (h, a, k) ∧ code = BitVec.ofNat 64 k.code) ∨ (i = .halt h a ∧ code = rdU w a)) →
    ∃ t, exec i s = .next t ∧ (t.waveD c.wave).st = .halted ∧ t.mem = s.mem ∧ t.wgs = s.wgs ∧ (t.waveD c.wave).s = w.s ∧
      (∀ j, j < 32 → c.mask.getLsbD j = true → (t.waveD c.wave).strand j = { w.strand j with pc := c.next, latN := 0 }) ∧
      (t.ctxD (s.ctxOf w.wg)).err.halt = code ∧ (t.ctxD (s.ctxOf w.wg)).err.haltPc = c.pc ∧
      t.hub = { s.hub with halts := s.hub.halts ++ [(s.ctxOf w.wg, s.coreOf w, w.idx, c.pc, code)] }) ∧
  (∀ s c w h a, Issuing s c w → w.priv ≠ 2 → Traps (.halt h a) s c { cause := .privilege }) ∧
  (∀ (s : State) u w, s.waves.get? u = some w → w.st = .halted →
    exec (.haltResume u false) s = .next { s with waves := s.waves.set u { w with st := .running } } ∧
    ∃ t, exec (.haltResume u true) s = .next t ∧ (t.waveD u).st = .ended) ∧
  (∀ (s : State) u d, (s.waveD u).st ≠ .halted → exec (.haltResume u d) s = .next s))

/-- R386, R400: `TRET` at level 0 or 2 traps PRIVILEGE, and with a code above 4 traps ILLEGAL_OPERAND. With code 0 the path's predicate
words come back and it continues at the return point, with code 1 at the fall-through or at the target that `.to` names; PRIV becomes 0
and the other paths issue again. Code 2 kills the workgroup, code 3 its grid, code 4 aborts the context. What the rules leave open here
is the model's choice: notes/assumptions/16.md. -/
def Obligations.TretActs : Prop :=
  (∀ s c w h a d, Issuing s c w →
    (w.priv ≠ 1 → Traps (.tret h a d) s c { cause := .privilege }) ∧
    (w.enabled c.mask h ≠ 0 → allowed s w → w.priv = 1 → 4 < (rdU w a).toNat ∨ (d.isSome = true ∧ rdU w a ≠ 1) → Traps (.tret h a d) s c { cause := .illegalOperand, info := 5 })) ∧
  (∀ s c w h a d dest, Issuing s c w → w.enabled c.mask h ≠ 0 → allowed s w → w.priv = 1 → w.trapstat.getLsbD 0 = false →
    (txOf s w).st ≠ .trapped → (s.wgD (s.txHome w.wg)).misalign = false →
    ((rdU w a = 0 ∧ d = none ∧ dest = w.rp) ∨ (rdU w a = 1 ∧ d = none ∧ w.rpNoLen = false ∧ dest = w.rpNext) ∨
      (rdU w a = 1 ∧ ∃ r, d = some r ∧ dest = w.sreg r.toNat)) → targetOk dest →
    ∃ w', exec (.tret h a d) s = .next (onlyWave s c w') ∧ Returned c w w' dest) ∧
  (∀ s c w g h a, At s c w g h → outside s w → w.priv = 1 → g.pair = none → g.misalign = false →
    (rdU w a = 2 ∨ (rdU w a = 0 ∧ w.trapstat.getLsbD 0 = true) → ∃ t, exec (.tret h a none) s = .next t ∧ Killed t w.wg g.waves ∧
      t.mem = s.mem) ∧
    (rdU w a = 3 → g.task = none → g.st ≠ .ended → (s.grids.get? g.grid).isSome = true → (s.wgs.map (·.1)).Pairwise (· < ·) →
      ∃ t, exec (.tret h a none) s = .next t ∧ Killed t w.wg g.waves ∧ (t.gridD g.grid).killed = true ∧ t.mem = s.mem) ∧
    (rdU w a = 4 → g.task = none → g.st ≠ .ended → (s.grids.get? g.grid).isSome = true → (s.wgs.map (·.1)).Pairwise (· < ·) →
      (s.grids.map (·.1)).Pairwise (· < ·) → (s.gridD g.grid).status = none →
      ∃ t, exec (.tret h a none) s = .next t ∧ Killed t w.wg g.waves ∧ (t.gridD g.grid).aborted = true ∧
        (t.ctxD (s.ctxOf w.wg)).st = .aborted ∧ t.mem = s.mem))

/-- R45, R46, R62, R273, R337, R357, R388, R401: `CSRR` answers a control register that the level may read (for STRAND each strand its own
slot), `CSRW` and `CSRX` merge a value into one that it may write, and `CSRX` answers the old value; every other register of the
table keeps its value. A number that is not assigned or may never be written, a level too low, and a value that the register's
rule forbids, trap, the first two whatever the guard (R40). -/
def Obligations.ControlRegisters : Prop :=
  (∀ s c w h d n, Issuing s c w → w.enabled c.mask h ≠ 0 → s.isDet w.wg = false → (assigned n.toNat) → levelOf n.toNat false ≤ w.priv.toNat →
    (steady n.toNat → Becomes (.csrr h d n) s s c (Answered h (some d) d.s (csrWord s w n.toNat) c w)) ∧
    (n = 0x00D → Becomes (.csrr h d n) s s c (Answered h (some d) d.s w.icount c w)) ∧
    (n = 0 → d.s = false → Becomes (.csrr h d n) s s c fun w' => Retired c w w' ∧
      Wrote { h := h, d := d, w64 := false, sgn := false, srcs := [], val := fun _ _ i => BitVec.ofNat 64 i } c w
        (w.enabled c.mask h) w') ∧
    (n = 0 → d.s = true → Traps (.csrr h d n) s c { cause := .illegalOperand, info := 4 })) ∧
  (∀ s c w h a (n : BitVec 12), Issuing s c w → w.enabled c.mask h ≠ 0 → allowed s w → s.isDet w.wg = false → c.go = false →
    let x := rdU w a
    (writeOk s w n.toNat x → ∃ t, exec (.csrw h a n) s = .next t ∧ onlyCsrs s t ∧ CsrWritten s t c w n.toNat x ∧
      (t.waveD c.wave).icount = w.icount + 1 ∧ (t.waveD c.wave).s = w.s) ∧
    (∀ op d, let y := match op with
        | .swap => x
        | .set => csrWord s w n.toNat ||| x
        | .clr => csrWord s w n.toNat &&& ~~~x
      writeOk s w n.toNat y → ∃ t, exec (.csrx h op d a n) s = .next t ∧ onlyCsrs s t ∧ CsrWritten s t c w n.toNat y ∧
        (t.waveD c.wave).icount = w.icount + 1 ∧
        ∀ m, (t.waveD c.wave).sreg m = if d.s = true ∧ h.nwb = false ∧ m = d.n.toNat then csrWord s w n.toNat else w.sreg m)) ∧
  (∀ s c w h op a d (n : BitVec 12), Issuing s c w →
    (¬assigned n.toNat → Traps (.csrr h d n) s c { cause := .illegalOperand, info := 9 }) ∧
    (assigned n.toNat → w.priv.toNat < levelOf n.toNat false → Traps (.csrr h d n) s c { cause := .privilege }) ∧
    (∀ i, i = Instr.csrw h a n ∨ i = .csrx h op d a n →
      (¬assigned n.toNat ∨ n.toNat < 0x010 → Traps i s c { cause := .illegalOperand, info := 9 }) ∧
      (assigned n.toNat → 0x010 ≤ n.toNat → w.priv.toNat < levelOf n.toNat true → Traps i s c { cause := .privilege })) ∧
    (w.enabled c.mask h ≠ 0 → allowed s w → s.isDet w.wg = false → assigned n.toNat → 0x010 ≤ n.toNat → levelOf n.toNat true ≤ w.priv.toNat → forbidden n.toNat (merged s w n.toNat (rdU w a)) →
      Traps (.csrw h a n) s c { cause := .illegalOperand, info := 9 }))

/-- R35, R39, R57, R391, R402: `TLBINV` at a level that may execute it removes the entries it selects from every TLB, once earlier
writes are performed, and changes of the translation registers then govern; below that level it traps, whatever the guard (R40). A latch source that is not valid
traps STALE_LATCH before anything happens, and with a guard that is false in every strand an instruction only retires. What the rules
leave open here is the model's choice: notes/assumptions/20.md. -/
def Obligations.TlbsLatchesAndGuards : Prop :=
  (∀ s c w h, Issuing s c w → w.enabled c.mask h ≠ 0 → allowed s w → s.posted c.wave 0xFFFFFFFF = false →
    (s.isDet w.wg = true → ∀ x ∈ (s.wgD w.wg).staged, x.wave ≠ w.idx) →
    (∀ v, 1 ≤ w.priv.toNat → ∃ w', exec (.tlbinv h (.va v none)) s = .next { onlyWave s c w' with
        mem := { s.mem with tlb := s.mem.tlb.filter fun e =>
          !(e.asid == ((s.ctxD (s.ctxOf w.wg)).asid).setWidth 12 && decide (e.va ≤ (w.sreg v.toNat).toNat % 2 ^ 56) &&
            decide ((w.sreg v.toNat).toNat % 2 ^ 56 < e.va + e.size)) } } ∧ Passed c w w') ∧
    (w.priv = 2 → ∃ w' t, exec (.tlbinv h .all) s = .next t ∧ Passed c w w' ∧ t.mem = { s.mem with tlb := [] } ∧
      t.waves = s.waves.set c.wave w' ∧ t.hub = { s.hub with regionsNow := s.hub.regiontab } ∧
      ∀ k x, s.ctxs.get? k = some x →
        t.ctxs.get? k = some { x with worldNow := x.world, asidNow := x.asid, ptbaseNow := x.ptbase }) ∧
    (∀ a, w.priv = 2 → ∃ w' t, exec (.tlbinv h (.asid (some a))) s = .next t ∧ Passed c w w' ∧ t.waves = s.waves.set c.wave w' ∧
      t.mem = { s.mem with tlb := s.mem.tlb.filter fun e => e.asid != (rdU w a).extractLsb' 0 12 } ∧ t.hub = s.hub)) ∧
  (∀ s c w h o, Issuing s c w →
    (w.priv = 0 ∨ (w.priv = 1 ∧ (o = .all ∨ (∃ v a, o = .va v (some a)) ∨ ∃ a, o = .asid (some a)))) →
    Traps (.tlbinv h o) s c { cause := .privilege }) ∧
  (∀ s c w i o, (aluOf i = some o ∨ moveOf i = some o ∨ floatOf i = some o) → Issuing s c w → latchOk w c.mask o.srcs = false →
    Traps i s c { cause := .staleLatch }) ∧
  (∀ s c w i o, (loadOf i = some o ∨ storeOf i = some o) → Issuing s c w → latchOk w c.mask o.srcs = false →
    Traps i s c { cause := .staleLatch }) ∧
  (∀ s c w h i, Issuing s c w → w.enabled c.mask h = 0 → quietWhenOff w h i → Becomes i s s c (Passed c w)) ∧
  (∀ s c w i o, storeOf i = some o → Issuing s c w → latchOk w c.mask o.srcs = true → w.enabled c.mask o.h = 0 →
    Becomes i s s c (Passed c w))

end

namespace Sys2Proof.Claims

open Sys2Proof Sys2Proof.Machine

/-! ## What comes back to waves, rounds, pre-emption, migration (03_control, 06_memory, 12_tasks, 14_system) -/

/-- The path is the first of the wave that waits for its window (R61). -/
def missesFirst (w : Wave) (p : Path) : Prop :=
  ∃ before rest, w.paths = before ++ p :: rest ∧ p.wait = .icache ∧ ∀ q ∈ before, q.wait ≠ .icache

/-- A wave as its checkpoint restores it (R71). -/
structure Restored (s : State) (g : Nat) (w w' : Wave) : Prop where
  st     : w'.st = .running
  icount : w'.icount = w.ck.icount
  fp     : w'.fpctl = w.ck.fp.extractLsb' 0 4 ∧ w'.fpflags = w.ck.fp.extractLsb' 4 5
  live   : ∀ i, i < 32 → (w'.strand i).live = w.ck.mask.getLsbD i
  strand : ∀ i, i < 32 → w.ck.mask.getLsbD i = true →
    (w'.strand i).pc = (w.strand i).ckr.start ∧ (w'.strand i).pred = (w.strand i).ckr.pred ||| 1 ∧ (w'.strand i).latN = 0 ∧
      (w'.strand i).defer = false ∧
      ∀ n, (w'.strand i).v32 n = if (w.strand i).ckr.vvalid.getLsbD n = true then (w.strand i).ckr.v.getD n 0 else 0
  sregs  : ∀ n, w'.sreg n = if w.ck.svalid.getLsbD n = true ∧ (w.ck.s.get? n).isSome = true then w.ck.s.getD n 0
    else ((s.gridOf g).lrec.args[n]?).getD 0

/-- The checkpoint tables of a wave are in order, and its record names strands that are there. -/
def ckOrdered (w : Wave) : Prop :=
  (w.ck.s.map (·.1)).Pairwise (· < ·) ∧ (∀ i, ((w.strand i).ckr.v.map (·.1)).Pairwise (· < ·)) ∧
    ∀ i, i < 32 → w.ck.mask.getLsbD i = true → (w.strands.get? i).isSome = true

end Sys2Proof.Claims

section

open Sys2Proof Sys2Proof.Machine Sys2Proof.Claims

/-- R60, R61, R65, R151, R153, R339: a missing window's line comes from the die's L2 into the core's instruction cache, where of the
eight lines of a full set the least recently used one goes, and its path can issue; a path that has used up its quantum at a boundary loses its turn; a page walk that succeeds puts its translation into the TLBs,
and one that faults leaves nothing; a wave that has retired its quantum of a round has ended its part. R338, R339: no release round
takes place while a live workgroup of the context's deterministic grids has not ended its part; when all have, and nothing they issued
is outstanding, the round releases every staged store, no wave's part has ended any more, and every deterministic grid of the context
that is left is in its next round. What the rules leave open here is the model's choice: notes/assumptions/10.md and
notes/assumptions/21.md. -/
def Obligations.ArrivalsTurnsAndRounds : Prop :=
  ((∀ (s : State) u w p pa, s.waves.get? u = some w → missesFirst w p →
    s.translate (s.whoLs w) .fetch (windowOf (w.pathPc p)) = .ok pa →
    ∃ t, exec (.icacheMissFill u) s = .next t ∧ t.mem.cells = s.mem.cells ∧ (∃ l, t.mem.l2 = s.mem.l2 ++ l ∧ ∀ x ∈ l, x.bytes = []) ∧
      t.waves = s.waves.set u { w with paths := w.paths.map fun q => if q.born == p.born then { q with wait := .none } else q } ∧
      (∃ x ∈ t.mem.icache, x.core = s.coreOf w ∧ x.line = pa / 64) ∧
      ((∀ x ∈ s.mem.icache, ¬(x.core = s.coreOf w ∧ x.line = pa / 64)) →
        let got : CoreLine :=
          { core := s.coreOf w, line := pa / 64, bytes := s.readBytes (dieOf (s.coreOf w)) (pa / 64 * 64) 64 }
        let set := s.mem.icache.filter fun x => x.core == s.coreOf w && x.line % 64 == pa / 64 % 64
        (set.length < 8 → t.mem.icache = s.mem.icache ++ [got]) ∧
        ∀ old rest, set = old :: rest → 8 ≤ set.length → t.mem.icache = s.mem.icache.erase old ++ [got])) ∧
  (∀ (s : State) u w p b, s.waves.get? u = some w → w.st = .running → w.turnOf = some b → w.path? b = some p → w.turnOver = false →
    p.edge = .window → w.turnQ.toNat ≤ p.turn →
    exec (.quantumExpiry u) s = .next { s with waves := s.waves.set u { w with turnOver := true } }) ∧
  (∀ (s : State) u w, s.waves.get? u = some w → w.turnOver = true → exec (.quantumExpiry u) s = .next s) ∧
  (∀ (s : State) core (ctx : BitVec 6) va, core < 960 → (s.ctxD ctx.toNat).st = .running → va.toNat < 2 ^ 56 →
    (s.tlbHit (s.whoCore ctx.toNat core) va.toNat).isSome = false →
    (∀ pte, s.walk (s.whoCore ctx.toNat core) s.regionTable va.toNat = .ok pte →
      ∃ t, exec (.pageWalk core ctx va) s = .next t ∧ t.waves = s.waves ∧ t.mem.cells = s.mem.cells ∧
        ∃ e ∈ t.mem.tlb, e.core = some core ∧ e.asid = s.asidOf ctx.toNat ∧ e.va ≤ va.toNat ∧ va.toNat < e.va + e.size ∧
          e.pte = BitVec.ofNat 64 pte) ∧
    ∀ f, s.walk (s.whoCore ctx.toNat core) s.regionTable va.toNat = .error f → exec (.pageWalk core ctx va) s = .next s) ∧
  (∀ (s : State) u w, s.waves.get? u = some w → w.st = .running → s.isDet w.wg = true →
    ((s.gridOf w.wg).lat.detq.toNat ≤ w.roundN →
      exec (.detqExpiry u) s = .next { s with waves := s.waves.set u { w with partEnd := true } }) ∧
    (w.roundN < (s.gridOf w.wg).lat.detq.toNat → exec (.detqExpiry u) s = .next s))) ∧
  ((∀ (s : State) (ctx : BitVec 6), s.roundQuiet ctx.toNat = false → exec (.releaseRound ctx) s = .next s) ∧
  (∀ (s : State) (ctx : BitVec 6), s.roundQuiet ctx.toNat = true → (s.wgs.map (·.1)).Pairwise (· < ·) →
    (s.waves.map (·.1)).Pairwise (· < ·) → (s.grids.map (·.1)).Pairwise (· < ·) →
    ∃ t, exec (.releaseRound ctx) s = .next t ∧
      (∀ k x, t.grids.get? k = some x → x.ctx = ctx.toNat → x.lat.detctl.getLsbD 0 = true →
        ∃ y, s.grids.get? k = some y ∧ x.round = match y.round with | none => some 0 | some n => some (n + 1)) ∧
      ∀ g x, t.wgs.get? g = some x → t.isDet g = true → t.ctxOf g = ctx.toNat → x.staged = [] ∧
        ∀ u w, t.waves.get? u = some w → w.wg = g → w.partEnd = false))

/-- R71, R226, R387, R389, R393: a wave that may be dropped is: its loads go, its checkpoint stays, and memory is unchanged; a suspended
workgroup goes to the save area; when it resumes, every dropped wave is restored from its checkpoint; when a switch's deadline passes,
every wave that is left is to be dropped, whatever its flags. What the rules leave open here is the model's choice:
notes/assumptions/21.md. -/
def Obligations.PreemptionAndResumption : Prop :=
  (∀ (s : State) u w, s.waves.get? u = some w → s.mayDrop u = true → s.txPending w.wg = false →
    ∃ t, exec (.waveDrop u) s = .next t ∧ (t.waveD u).st = .dropped ∧ (t.waveD u).ck = w.ck ∧ (t.waveD u).toks = w.toks ∧
      (t.waveD u).kids = w.kids ∧ t.mem = s.mem ∧ t.loads = s.loads.filter (fun l => l.2.wave != u) ∧
      ∀ i, ((t.waveD u).strand i).ckr = (w.strand i).ckr) ∧
  (∀ (s : State) u w, s.waves.get? u = some w → (w.dropReq = false ∨ (w.forced = false ∧ s.txPending w.wg = false ∧ s.deferred u = true)) →
    exec (.waveDrop u) s = .next s) ∧
  (∀ (s : State) g x, s.wgs.get? g = some x →
    (x.st = .dropped → exec (.workgroupSave g) s = .next { s with wgs := s.wgs.set g { x with st := .saved } }) ∧
    (x.st ≠ .dropped → exec (.workgroupSave g) s = .next s)) ∧
  (∀ (s : State) g x core, s.wgs.get? g = some x → s.mayResume g = true → s.resumeSet g = [g] → s.resumeCore g = some core →
    x.waves.Nodup →
    ∃ t, exec (.workgroupResume g) s = .next t ∧ (t.wgD g).core = core ∧ ((t.wgD g).st = .running ∨ (t.wgD g).st = .staging) ∧
      ∀ u ∈ x.waves, ∀ w, s.waves.get? u = some w → w.st = .dropped → ckOrdered w → Restored s g w (t.waveD u)) ∧
  (∀ (s : State) g, s.mayResume g = false → exec (.workgroupResume g) s = .next s) ∧
  (∀ (s : State) (ctx : BitVec 6), (s.ctxD ctx.toNat).st = .leaving → (s.ctxD ctx.toNat).deadline ≠ 0 → (s.ctxD ctx.toNat).expired = false →
    ∃ t, exec (.switchDeadlineExpiry ctx) s = .next t ∧ (t.ctxD ctx.toNat).expired = true ∧ t.mem = s.mem ∧
      ∀ g x u w, s.wgs.get? g = some x → (g, x) ∈ s.wgs → s.ctxOf g = ctx.toNat → u ∈ x.waves →
        s.waves.get? u = some w → w.st = .running ∨ w.st = .halted → (t.waveD u).dropReq = true ∧ (t.waveD u).forced = true)

/-- R159, R160, R162, R391: a migration that may start copies its page, byte for byte, and records itself; it stalls the page's writers;
when nothing was written meanwhile it replaces the leaf entry and its TLB entries go, else it copies what was written again, or is given
up after the configured number of attempts; the refresh counters are reset by a window's start and by a refresh command. What the rules
leave open here is the model's choice: notes/assumptions/23.md. -/
def Obligations.MigrationAndRefresh : Prop :=
  (∀ (s : State) (ctx : BitVec 6) (va : BitVec 64) dst l src, s.leafAt ctx.toNat va.toNat = some l → cellOf l.page = some src →
    (s.ctxD ctx.toNat).st ≠ .free → s.mayMigrate l src dst = true → s.memWf = true → s.mem.l2 = [] →
    ∃ t, exec (.migrationStart ctx va dst) s = .next t ∧ t.waves = s.waves ∧ t.ctxs = s.ctxs ∧
      t.mem.migs = s.mem.migs.set s.fresh
        { ctx := ctx.toNat, va := BitVec.ofNat 64 (va.toNat / 2 ^ l.bits * 2 ^ l.bits), src := src, dst := dst, size := 2 ^ l.bits
          dirty := [] } ∧
      (∀ i, i < 2 ^ l.bits → memGet t.mem.cells (dst + i) = memGet s.mem.cells (src + i)) ∧
      ∀ a, ¬(dst ≤ a ∧ a < dst + 2 ^ l.bits) → memGet t.mem.cells a = memGet s.mem.cells a) ∧
  (∀ (s : State) k x, s.mem.migs.get? k = some x →
    exec (.migrationStall k) s = .next { s with mem := { s.mem with migs := s.mem.migs.set k { x with stalled := true } } }) ∧
  (∀ (s : State) k x, s.mem.migs.get? k = some x → x.stalled = false → exec (.migrationSwitch k) s = .next s) ∧
  (∀ (s : State) k x l a c, s.mem.migs.get? k = some x → x.stalled = true → x.dirty = [] → s.leafAt x.ctx x.va.toNat = some l →
    l.slots = [a] → place a = .cell c .cached → c % 8 = 0 → s.memWf = true → l.pte < 2 ^ 64 → l.pte - l.page + x.move l.page < 2 ^ 64 →
    ∃ t, exec (.migrationSwitch k) s = .next t ∧ t.mem.migs.map (·.1) = (s.mem.migs.del k).map (·.1) ∧
      ofBytes (t.readBytes 0 a 8) = l.pte - l.page + x.move l.page ∧ ∀ e ∈ t.mem.tlb, leafPa e.pte.toNat 0 ≠ l.page) ∧
  (∀ (s : State) k x, s.mem.migs.get? k = some x → x.stalled = true → x.dirty ≠ [] →
    ((s.ctxD x.ctx).migctl.toNat % 16 ≤ x.tries + 1 → exec (.migrationSwitch k) s = .next { s with
      mem := { s.mem with migs := s.mem.migs.del k }, hub := { s.hub with migFails := s.hub.migFails + 1 } }) ∧
    (x.tries + 1 < (s.ctxD x.ctx).migctl.toNat % 16 → ∃ t, exec (.migrationSwitch k) s = .next t ∧ t.waves = s.waves ∧
      t.mem.migs = s.mem.migs.set k { x with dirty := [], stalled := false, tries := x.tries + 1 })) ∧
  (∀ (s : State) bank, exec (.refreshWindowStart bank) s = .next { s with mem := { s.mem with rows := s.mem.rows.del bank } }) ∧
  (∀ (s : State) bank row cfg n, s.hub.cfg = some cfg → (row, n) ∈ s.mem.rows.getD bank [] → cfg.refresh ≤ n →
    exec (.rfmIssue bank row) s = .next { s with
      mem := { s.mem with rows := s.mem.rows.set bank ((s.mem.rows.getD bank []).filter fun e => e.1 != row) }
      hub := { s.hub with rfms := s.hub.rfms + 1 } })

end

namespace Sys2Proof.Claims

open Sys2Proof Sys2Proof.Machine

/-! ## Host, management, scale-out (15_host) -/

/-- A command of a host that acts at once (R405, R407, R411): the port's link is up, its host owns the device, no command is in
progress, the device runs, and no migration stalls writes (R159). -/
structure MayCommand (s : State) (p : Bool) : Prop where
  link  : (if p then s.hub.p1 else s.hub.p0).link = true
  owner : s.hub.owner = some p
  busy  : s.hub.busy = false
  runs  : s.hub.bootState = 0x03
  calm  : s.stalling = false

/-- A command for a context, by its instruction, with its code (R411). -/
def commandOf (p : Bool) (cx : BitVec 6) : Instr → Option Nat
  | .create q x => if q = p ∧ x = cx then some 1 else none
  | .run q x => if q = p ∧ x = cx then some 2 else none
  | .suspend q x => if q = p ∧ x = cx then some 3 else none
  | .reset q x => if q = p ∧ x = cx then some 4 else none
  | .setq q x => if q = p ∧ x = cx then some 5 else none
  | .setep q x => if q = p ∧ x = cx then some 6 else none
  | .boot q => if q = p ∧ cx = 0 then some 7 else none
  | .attest q => if q = p ∧ cx = 0 then some 8 else none
  | .setcsr q x => if q = p ∧ x = cx then some 9 else none
  | _ => none

/-- The command has acted with a failure reason, 0 for none, and is in progress (R411). -/
def Acted (i : Instr) (s t : State) (cx : BitVec 6) (op err : Nat) : Prop :=
  exec i s = .next t ∧ t.hub.busy = true ∧ t.hub.cmdOp = BitVec.ofNat 8 op ∧ t.hub.cmdCtx = cx ∧ t.mem.cells = s.mem.cells ∧
    t.hub.command = some { op := BitVec.ofNat 8 op, ctx := cx.toNat, acted := true, err := BitVec.ofNat 8 err }

/-- The device's own state after a reset (R413): as at first, but for the steppings, the links and the memory of the hosts. -/
def afterReset (s : State) : State :=
  { State.reset with
    hub := { State.reset.hub with
      steps := s.hub.steps
      bootState := if s.hub.steps.all (· == s.hub.steps.headD 0) then 0x00 else 0x13
      p0 := { link := s.hub.p0.link }, p1 := { link := s.hub.p1.link } }
    mem := { State.reset.mem with cells := s.mem.cells.filter fun e => decide (2 ^ 51 ≤ e.1 ∧ e.1 < 10 * 2 ^ 48) }
    fresh := s.fresh, free := s.free, clk := s.clk, tick := s.tick }

/-- A transfer of an instruction (R420). -/
def xferOf (s : State) (c : Issue) (w : Wave) (ep : BitVec 12) (off : BitVec 64) (kind : XferKind) (ben : Bool) (bar : BitVec 4) : Xfer :=
  { wave := c.wave, wg := w.wg, ctx := s.ctxOf w.wg, ep := ep.toNat, off := off, kind := kind, bar := if ben then some bar.toNat else none
    priv := w.priv, seq := s.fresh }

/-- The instruction puts a transfer in flight and retires; the strands of the path defer (R388, R420). -/
def Sends (i : Instr) (s : State) (c : Issue) (w : Wave) (x : Xfer) : Prop :=
  Becomes i s { s with fresh := s.fresh + 1, xfers := s.xfers.set s.fresh x } c (PassedDeferring s c w)

/-- The remote part of a transfer of `n` bytes is in the endpoint's window (R420). -/
def inWindow (s : State) (w : Wave) (ep : BitVec 12) (off : BitVec 64) (n : Nat) (e : Endpoint) : Prop :=
  s.endpoint (s.ctxOf w.wg) ep.toNat = some e ∧ 0 < n ∧ n ≤ 2 ^ 30 ∧ off.toNat + n ≤ e.rwin

/-- The cell of a byte of a port's BAR2 (R404). -/
def bar2 (s : State) (p : Bool) (off : Nat) : Nat := (if p then s.hub.p1 else s.hub.p0).winbase.toNat + off

end Sys2Proof.Claims

section

open Sys2Proof Sys2Proof.Machine Sys2Proof.Claims

/-- R147, R404, R405, R407, R408, R413, R417: a device reset leaves the state of reset but for the steppings, the links and the hosts'
memories; links go down and up, a port is claimed while nobody owns the device, and the owner releases it, passes it on, rings doorbells
and writes registers and its window; nobody else's writes do anything; a query of the management processor answers. What the rules leave
open here is the model's choice: notes/assumptions/1.md and notes/assumptions/22.md. -/
def Obligations.HostsAndPorts : Prop :=
  (∀ s : State, exec .deviceReset s = .next (afterReset s)) ∧
  (∀ (s : State) p, ∃ t, exec (.dlDown p) s = .next t ∧ (if p then t.hub.p1 else t.hub.p0).link = false ∧
    (s.hub.owner = some p → t.hub.owner = none) ∧ (s.hub.owner ≠ some p → t.hub.owner = s.hub.owner) ∧ t.mem = s.mem ∧ t.ctxs = s.ctxs) ∧
  (∀ (s : State) p, ∃ t, exec (.dlUp p) s = .next t ∧ (if p then t.hub.p1 else t.hub.p0).link = true ∧ t.hub.owner = s.hub.owner ∧
    t.mem = s.mem ∧ t.ctxs = s.ctxs) ∧
  (∀ (s : State) p on, ∃ t, exec (.busMasteringChange p on) s = .next t ∧ (if p then t.hub.p1 else t.hub.p0).master = on ∧
    t.hub.owner = s.hub.owner ∧ t.mem = s.mem ∧ t.ctxs = s.ctxs) ∧
  (∀ s : State, s.hub.owner = none →
    (s.hub.p0.link = true → ∀ b, exec (.mgClaim true b) s = .next { s with hub := { s.hub with owner := some false } }) ∧
    (s.hub.p1.link = true → exec (.mgClaim false true) s = .next { s with hub := { s.hub with owner := some true } })) ∧
  (∀ (s : State) a b, s.hub.owner ≠ none → exec (.mgClaim a b) s = .next s) ∧
  (∀ (s : State) p q, (if p then s.hub.p1 else s.hub.p0).link = true →
    (s.hub.owner = some p → exec (.handoverRelease p) s = .next { s with hub := { s.hub with owner := none } } ∧
      exec (.handoverPass p q) s = .next { s with hub := { s.hub with owner := some q } }) ∧
    (s.hub.owner ≠ some p → exec (.handoverRelease p) s = .next s ∧ exec (.handoverPass p q) s = .next s)) ∧
  (∀ (s : State) p (cx q : BitVec 6) x k, (if p then s.hub.p1 else s.hub.p0).link = true → s.hub.owner = some p →
    (s.ctxD cx.toNat).st ≠ .free → (s.ctxD cx.toNat).queues.get? q.toNat = some k → k.isSet = true →
    ((x - k.cidx).toNat ≤ k.cap → (x - k.pidx).toNat ≤ k.cap → exec (.doorbell p cx q x) s = .next { s with
      ctxs := s.ctxs.set cx.toNat { s.ctxD cx.toNat with queues := (s.ctxD cx.toNat).queues.set q.toNat { k with pidx := x } } }) ∧
    (k.cap < (x - k.cidx).toNat → (s.ctxD cx.toNat).err.bells ≠ 0xFF → ∃ t, exec (.doorbell p cx q x) s = .next t ∧
      (t.ctxD cx.toNat).queues = (s.ctxD cx.toNat).queues ∧ (t.ctxD cx.toNat).err.bells = (s.ctxD cx.toNat).err.bells + 1)) ∧
  (∀ (s : State) p x, (if p then s.hub.p1 else s.hub.p0).link = true →
    (s.hub.owner = some p → s.hub.busy = false →
      exec (.mgRegisterWrite p 0x30 x) s = .next { s with hub := { s.hub with arg0 := x } } ∧
      exec (.mgRegisterWrite p 0x38 x) s = .next { s with hub := { s.hub with arg1 := x } } ∧
      exec (.mgRegisterWrite p 0x40 x) s = .next { s with hub := { s.hub with arg2 := x } } ∧
      exec (.mgRegisterWrite p 0x48 x) s = .next { s with hub := { s.hub with arg3 := x } }) ∧
    (s.hub.owner ≠ some p → exec (.mgRegisterWrite p 0x30 x) s = .next s) ∧
    (s.hub.owner ≠ none → ∃ t, exec (.mgRegisterWrite p 0x58 x) s = .next t ∧
      (if p then t.hub.p1 else t.hub.p0).winbase = x &&& 0x3FFC0000000 ∧ t.mem = s.mem)) ∧
  (∀ (s : State) p off n, (if p then s.hub.p1 else s.hub.p0).link = true → s.hub.regionsNow.getLsbD 0 = false → bar2 s p (off + n) ≤ 2 ^ 42 →
    off + n ≤ 2 ^ (s.hub.port p).barBits →
    ∃ t, exec (.hostBar2Read p off n) s = .next t ∧ t.mem = s.mem ∧ t.hub.readData.length = n ∧
      ∀ i, i < n → isCell (bar2 s p (off + i)) = true → t.hub.readData[i]? = some (memGet s.mem.cells (bar2 s p (off + i)))) ∧
  (∀ (s : State) p off bytes, (if p then s.hub.p1 else s.hub.p0).link = true → s.hub.owner = some p → s.hub.regionsNow.getLsbD 0 = false →
    bar2 s p (off + bytes.length) ≤ 2 ^ 42 → off + bytes.length ≤ 2 ^ (s.hub.port p).barBits → s.memWf = true →
    (∀ i, i < bytes.length → s.stalledAt (2 * 2 ^ 42 + bar2 s p (off + i)) = false) →
    ∃ t, exec (.hostBar2Write p off bytes) s = .next t ∧ t.waves = s.waves ∧ t.mem.l2.length = s.mem.l2.length ∧
      (∀ (j : Nat) (x : L2Line), s.mem.l2[j]? = some x → ∃ y : L2Line, t.mem.l2[j]? = some y ∧ y.line = x.line ∧ y.die = x.die ∧
        ∀ k, k < 64 → y.byte k = x.byte k) ∧
      ∀ a, memGet t.mem.cells a =
        if bar2 s p off ≤ a ∧ a < bar2 s p off + bytes.length ∧ isCell a = true then bytes.getD (a - bar2 s p off) 0
        else memGet s.mem.cells a) ∧
  (∀ (s : State) p off bytes, s.hub.owner ≠ some p → exec (.hostBar2Write p off bytes) s = .next s) ∧
  (∀ (s : State) reg, reg ≠ 3 → ∃ t, exec (.mctpQuery reg) s = .next t ∧ t.mem = s.mem ∧ t.ctxs = s.ctxs ∧
    t.hub = { s.hub with mctp := BitVec.ofNat 64 (
      if reg = 0 then 0x7400 + (s.hub.steps.headD 0).toNat * 2 ^ 16 else if reg = 1 then s.hub.bootState.toNat + s.hub.bootReason.toNat * 2 ^ 8
      else if reg = 2 then s.hub.avg.toNat + s.hub.limit.toNat * 2 ^ 16 + s.hub.throttle.toNat * 2 ^ 32 else if reg = 4 then s.hub.corrected
      else if reg = 5 then s.hub.dropped else if reg = 6 then s.hub.xoDrops else 0) })

/-- R14, R406, R411, R413 to R416: `BOOT` verifies the image and the record, and stops with the state of what failed, or starts the
units, whose cluster groups are then released one after the other until the device runs; `ATTEST` writes a report with the nonce and the
hashes. What the rules leave open here is the model's choice: notes/assumptions/6.md and notes/assumptions/22.md. -/
def Obligations.BootAndAttestation : Prop :=
  (∀ (s : State) p, (if p then s.hub.p1 else s.hub.p0).link = true → s.hub.owner = some p → s.hub.busy = false → s.hub.bootState = 0x00 →
    s.stalling = false →
    let n := s.hub.arg0.toNat
    0 < n → n ≤ 2 ^ 24 →
    let img := (List.range n).map (memGet s.hub.image)
    let r := Config.record img
    ∃ t, Acted (.boot p) s t 0 7 0 ∧
      (Config.imageGood img = false → t.hub.bootState = 0x10) ∧
      (Config.imageGood img = true → Config.recordGood r = false → t.hub.bootState = 0x11) ∧
      (Config.imageGood img = true → Config.recordGood r = true → Config.recordOther r = false →
        (Config.harvest r).length = 4 → (∀ x ∈ Config.harvest r, popcount x.toNat = 30) → 400 ≤ Config.powerLimit r →
        Config.powerLimit r ≤ 3200 → Config.secureClusters r = [] →
        (∀ a ∈ Config.areas r, 0x10000000000 ≤ a.1 ∧ a.1 + a.2 ≤ 0x40000000000) →
        t.hub.bootState = 0x02 ∧ t.hub.groups = 0 ∧ t.hub.limit = BitVec.ofNat 16 (Config.powerLimit r) ∧
          t.hub.lottery = (if Config.lotterySeed r = 0 then 1 else Config.lotterySeed r)) ∧
      (Config.imageGood img = true → Config.recordGood r = true → (Config.harvest r).length ≠ 4 →
        t.hub.bootState = 0x12 ∧ t.hub.bootReason = 1)) ∧
  (∀ (s : State) p, MayCommand s p → ∃ t, Acted (.boot p) s t 0 7 2 ∧ t.hub.bootState = s.hub.bootState) ∧
  (∀ s : State, s.hub.bootState = 0x02 → exec .clusterGroupRelease s = .next { s with hub := { s.hub with
    groups := s.hub.groups + 1, bootState := if s.hub.groups < 29 then 0x02 else 0x03 } }) ∧
  (∀ s : State, s.hub.bootState ≠ 0x02 → exec .clusterGroupRelease s = .next s) ∧
  (∀ (s : State) p, MayCommand s p → ∃ t, Acted (.attest p) s t 0 8 0 ∧ t.ctxs = s.ctxs ∧
    (∀ i, i < 8 → memGet t.hub.report (32 + i) = s.hub.arg0.extractLsb' (8 * i) 8 ∧
      memGet t.hub.report (40 + i) = s.hub.arg1.extractLsb' (8 * i) 8 ∧ memGet t.hub.report (48 + i) = s.hub.arg2.extractLsb' (8 * i) 8 ∧
      memGet t.hub.report (56 + i) = s.hub.arg3.extractLsb' (8 * i) 8) ∧
    ∀ i, i < 32 → memGet t.hub.report (64 + i) = (digestBytes s.hub.imageHash).getD i 0 ∧
      memGet t.hub.report (96 + i) = (digestBytes s.hub.recordHash).getD i 0)

/-- R16, R391 to R393, R411: the commands for contexts act when their context stands where the command needs it: `CREATE` makes a free
context, `RUN` lets it run, `SUSPEND` begins to switch it out, `RESET` aborts it, `SETQ`, `SETEP` and `SETCSR` set a queue, the endpoint
table and a control register; otherwise they fail with reason 2 and leave the context; a command of another port, or while one is in
progress, is dropped; the completion clears BUSY and reports. What the rules leave open here is the model's choice:
notes/assumptions/22.md. -/
def Obligations.CommandsForContexts : Prop :=
  (∀ (s : State) p cx i op, commandOf p cx i = some op →
    ((if p then s.hub.p1 else s.hub.p0).link = false ∨ s.hub.owner ≠ some p ∨ s.hub.busy = true) → exec i s = .next s) ∧
  (∀ (s : State) p cx, MayCommand s p → (s.ctxD cx.toNat).st = .free → s.hub.arg0 = 0 → s.secCluster 0 = false →
    ∃ t, Acted (.create p cx) s t cx 1 0 ∧ (t.ctxD cx.toNat).st = .switchedOut ∧ (t.ctxD cx.toNat).dies = 0xF ∧
      (t.ctxD cx.toNat).asid = BitVec.ofNat 64 cx.toNat ∧ (t.ctxD cx.toNat).ptbase = s.hub.arg1 &&& 0x000FFFFFFFFF8001 ∧
      (t.ctxD cx.toNat).trapbase = s.hub.arg2 &&& 0x00FFFFFFFFFFFFE1 ∧ (t.ctxD cx.toNat).txmon = 0x0C20 ∧
      (t.ctxD cx.toNat).sgeps = 0x3727C5AC ∧ (t.ctxD cx.toNat).fmtchk = 1 ∧ (t.ctxD cx.toNat).detq = 4096 ∧
      (t.ctxD cx.toNat).queues = [(0, { tickets := 1 })]) ∧
  (∀ (s : State) p cx, MayCommand s p → (s.ctxD cx.toNat).st ≠ .free →
    ∃ t, Acted (.create p cx) s t cx 1 2 ∧ t.ctxs = s.ctxs) ∧
  (∀ (s : State) p cx, MayCommand s p →
    ((s.ctxD cx.toNat).st = .switchedOut → ∃ t, Acted (.run p cx) s t cx 2 0 ∧
      t.ctxs = s.ctxs.set cx.toNat { s.ctxD cx.toNat with st := .running }) ∧
    ((s.ctxD cx.toNat).st ≠ .switchedOut → ∃ t, Acted (.run p cx) s t cx 2 2 ∧ t.ctxs = s.ctxs)) ∧
  (∀ (s : State) p cx, MayCommand s p → (s.ctxD cx.toNat).st = .running →
    ∃ t, Acted (.suspend p cx) s t cx 3 0 ∧ (t.ctxD cx.toNat).st = .leaving ∧ (t.ctxD cx.toNat).deadline = s.hub.arg0 ∧
      ∀ g x u w, s.wgs.get? g = some x → (g, x) ∈ s.wgs → s.ctxOf g = cx.toNat → x.pair = none → x.sib = none →
        u ∈ x.waves → s.waves.get? u = some w → w.st = .running → (t.waveD u).dropReq = true) ∧
  (∀ (s : State) p cx, MayCommand s p → (s.ctxD cx.toNat).st ≠ .free →
    ∃ t, Acted (.reset p cx) s t cx 4 0 ∧ (t.ctxD cx.toNat).st = .aborted ∧
      ∀ q k, (t.ctxD cx.toNat).queues.get? q = some k → k.isSet = false) ∧
  (∀ (s : State) p cx, MayCommand s p → (s.ctxD cx.toNat).st = .switchedOut ∨ (s.ctxD cx.toNat).st = .running →
    let q := s.hub.arg0.toNat % 64
    let k := (s.ctxD cx.toNat).queues.getD q {}
    s.hub.arg0.toNat / 64 % 4 = 0 → s.hub.arg0.toNat < 2 ^ 16 → (∃ n, 1 ≤ n ∧ n ≤ 16 ∧ s.hub.arg2.toNat = 2 ^ n) →
    s.hub.arg3.toNat % 4 = 0 → k.cidx = k.pidx →
    ∃ t, exec (.setq p cx) s = .next t ∧ t.hub.busy = true ∧ (t.ctxD cx.toNat).queues.get? q = some { k with
      tickets := s.hub.arg0.toNat / 2 ^ 8, isSet := true, rbase := s.hub.arg1, cap := s.hub.arg2.toNat, pidx := 0, cidx := 0
      cons := s.hub.arg3 }) ∧
  (∀ (s : State) p cx, MayCommand s p → (s.ctxD cx.toNat).st = .switchedOut →
    (s.hub.arg0.toNat % 64 = 0 → s.hub.arg1.toNat ≤ 4096 → ∃ t, Acted (.setep p cx) s t cx 6 0 ∧
      t.ctxs = s.ctxs.set cx.toNat { s.ctxD cx.toNat with epBase := s.hub.arg0, epCount := s.hub.arg1.toNat }) ∧
    (s.hub.arg0 = 0x101 → ∃ t, Acted (.setcsr p cx) s t cx 9 0 ∧
      t.ctxs = s.ctxs.set cx.toNat { s.ctxD cx.toNat with stepv := s.hub.arg1 }) ∧
    (s.hub.arg0 = 0x107 → ∃ t, Acted (.setcsr p cx) s t cx 9 0 ∧ (t.ctxD cx.toNat).detctl.getLsbD 0 = s.hub.arg1.getLsbD 0)) ∧
  (∀ (s : State) c, s.hub.command = some c → c.acted = true → s.stalling = false → c.err ≠ 0 ∨ (c.op.toNat ≠ 3 ∧ c.op.toNat ≠ 4 ∧ c.op.toNat ≠ 7) →
    exec .mgCommandComplete s = .next { s with hub := { s.hub with
      busy := false, cmdErr := c.err != 0, estat := c.err, command := none } })

/-- R388, R420: `XPUT`, `XGET` and `XSIG` put a transfer in flight when the endpoint is usable, the remote part lies in its window, the
local part can be accessed and the barrier is there; the strands of the path defer. `XWAIT` retires once its word has reached the value,
and stalls before, where the wave may be pre-empted; a bad endpoint, size or window traps. R215, R397, R418, R420: an acknowledged put and the data of a get end their
transfer and arrive on its barrier, the data written where the get asks; a signal goes when the wave's earlier puts to the endpoint are
acknowledged; a failed transfer ends and is counted; what a peer writes into an endpoint's window is stored, what it reads is read, and
what lies outside is dropped and counted. What the rules leave open here is the model's choice: notes/assumptions/24.md. -/
def Obligations.ScaleOutTransfers : Prop :=
  ((∀ s i w g h a b c ep ben bar e, At s i w g h → outside s w → g.task = none →
    inWindow s w ep (w.sreg b.toNat) (w.sreg c.toNat).toNat e → (ben = true → (g.tbars.get? bar.toNat).isSome = true) →
    (s.checkXo w .load (w.sreg a.toNat) (w.sreg c.toNat).toNat (lead (w.enabled i.mask h)) = .ok () →
      Sends (.xput h a b c ep ben bar) s i w
        (xferOf s i w ep (w.sreg b.toNat) (.put (s.xoRead w (w.sreg a.toNat) (w.sreg c.toNat).toNat)) ben bar)) ∧
    (s.checkXo w .store (w.sreg a.toNat) (w.sreg c.toNat).toNat (lead (w.enabled i.mask h)) = .ok () →
      Sends (.xget h a b c ep ben bar) s i w
        (xferOf s i w ep (w.sreg b.toNat) (.get (w.sreg a.toNat) (w.sreg c.toNat).toNat) ben bar))) ∧
  (∀ s i w g h x b ep set e, At s i w g h → outside s w → inWindow s w ep (w.sreg b.toNat) 8 e → (w.sreg b.toNat).toNat % 8 = 0 →
    (set = true ∨ e.mode ≠ 2) →
    Sends (.xsig h x b ep set) s i w (xferOf s i w ep (w.sreg b.toNat) (.sig (rdU w x) set) false 0)) ∧
  (∀ s i w g h a x pa, At s i w g h → outside s w → g.task = none →
    s.checkAt (s.whoXo (s.ctxOf w.wg) w.priv) .load 8 (w.sreg a.toNat) = .ok pa →
    let v := BitVec.ofNat 64 (ofBytes (s.xoRead w (w.sreg a.toNat) 8))
    (0 ≤ (v - rdU w x).toInt → Becomes (.xwait h a x) s s i (Passed i w)) ∧
    ((v - rdU w x).toInt < 0 → exec (.xwait h a x) s = .next { (s.waitAt i false).updWave i.wave fun w =>
      w.updPath i.path fun p => { p with edge := if p.edge == .mid then .event else p.edge } with cur := none })) ∧
  (∀ s i w g h a b c ep ben bar, At s i w g h → outside s w →
    let j := lead (w.enabled i.mask h)
    (s.endpoint (s.ctxOf w.wg) ep.toNat = none →
      Traps (.xput h a b c ep ben bar) s i { cause := .permission, info := BitVec.ofNat 64 (j + 0xB * 2 ^ 8) }) ∧
    (∀ e, s.endpoint (s.ctxOf w.wg) ep.toNat = some e → w.sreg c.toNat = 0 →
      Traps (.xput h a b c ep ben bar) s i { cause := .illegalOperand, info := 7 }) ∧
    (∀ e, s.endpoint (s.ctxOf w.wg) ep.toNat = some e → 0 < (w.sreg c.toNat).toNat → (w.sreg c.toNat).toNat ≤ 2 ^ 30 →
      e.rwin < (w.sreg b.toNat).toNat + (w.sreg c.toNat).toNat →
      Traps (.xget h a b c ep ben bar) s i { cause := .permission, addr := w.sreg b.toNat, info := BitVec.ofNat 64 (j + 0xB * 2 ^ 8) }))) ∧
  ((∀ (s : State) k x bs g, s.xfers.get? k = some x → x.kind = .put bs → s.wgs.get? x.wg = some g →
    (x.bar = none → exec (.xputAck k) s = .next { s with xfers := s.xfers.del k }) ∧
    (∀ b y, x.bar = some b → g.tbars.get? b = some y → exec (.xputAck k) s = .next { s with
      xfers := s.xfers.del k
      wgs := s.wgs.set x.wg { g with tbars := g.tbars.set b (phase { y with bytes := y.bytes - BitVec.ofNat 32 bs.length }) } })) ∧
  (∀ (s : State) k x va bytes pa c, s.xfers.get? k = some x → x.kind = .get va bytes.length → x.bar = none →
    va.toNat % 32 + bytes.length ≤ 32 → s.isDet x.wg = false → s.depOf x.wg = none → bytes ≠ [] →
    s.translate (s.whoXo x.ctx x.priv) .store va = .ok pa → place pa = .cell c .cached → pa % 32 = va.toNat % 32 → s.stalledAt pa = false →
    ownLine s (s.whoXo x.ctx x.priv).die pa → s.memWf = true →
    ∃ t, exec (.xgetDataArrival k bytes) s = .next t ∧ t.xfers = s.xfers.del k ∧ t.waves = s.waves ∧
      (∀ i, i < bytes.length → t.readByte (s.whoXo x.ctx x.priv).die (pa + i) = bytes.getD i 0) ∧
      ∀ p d, place p = .cell d .cached → ¬(c ≤ d ∧ d < c + bytes.length) →
        t.readByte (s.whoXo x.ctx x.priv).die p = s.readByte (s.whoXo x.ctx x.priv).die p) ∧
  (∀ (s : State) k x v set, s.xfers.get? k = some x → x.kind = .sig v set →
    (s.putBefore k x = false → exec (.xsigSend k) s = .next { s with xfers := s.xfers.del k }) ∧
    (s.putBefore k x = true → exec (.xsigSend k) s = .next s ∧ exec (.xoTransferFailure k) s = .next s)) ∧
  (∀ (s : State) k x bs pa c, s.xfers.get? k = some x → x.kind = .put bs → x.bar = none →
    s.translate (s.whoXo x.ctx 2) .store ((s.ctxD x.ctx).epBase + BitVec.ofNat 64 (64 * x.ep + 48)) = .ok pa →
    place pa = .cell c .cached → c % 8 = 0 → s.memWf = true →
    ∃ t, exec (.xoTransferFailure k) s = .next t ∧ t.xfers = s.xfers.del k ∧
      ofBytes (t.readBytes (s.whoXo x.ctx 2).die pa 8) = (ofBytes (s.readBytes (s.whoXo x.ctx 2).die pa 8) + 1) % 2 ^ 64) ∧
  (∀ (s : State) (ctx : BitVec 6) ep off bytes,
    (s.endpoint ctx.toNat ep = none → exec (.incomingPeerWrite ctx ep off bytes) s =
      .next { s with hub := { s.hub with xoDrops := s.hub.xoDrops + 1 } }) ∧
    (∀ e c, s.endpoint ctx.toNat ep = some e → off + bytes.length ≤ e.lwsize → bytes ≠ [] →
      (e.lwbase + BitVec.ofNat 64 off).toNat % 32 + bytes.length ≤ 32 → s.windowAt ctx.toNat .store (e.lwbase + BitVec.ofNat 64 off) = .ok c →
      c % 32 = (e.lwbase + BitVec.ofNat 64 off).toNat % 32 → s.stalledAt c = false → isCell c = true → c < 2 ^ 42 → s.memWf = true →
      ∃ t, exec (.incomingPeerWrite ctx ep off bytes) s = .next t ∧ t.waves = s.waves ∧
        ∀ i, i < bytes.length → t.readByte 0 (c + i) = bytes.getD i 0)) ∧
  (∀ (s : State) (ctx : BitVec 6) ep off n,
    (s.endpoint ctx.toNat ep = none → exec (.incomingPeerRead ctx ep off n) s =
      .next { s with hub := { s.hub with xoDrops := s.hub.xoDrops + 1 } }) ∧
    (∀ e c, s.endpoint ctx.toNat ep = some e → off + n ≤ e.lwsize → 0 < n → (e.lwbase + BitVec.ofNat 64 off).toNat % 32 + n ≤ 32 →
      s.windowAt ctx.toNat .load (e.lwbase + BitVec.ofNat 64 off) = .ok c →
      exec (.incomingPeerRead ctx ep off n) s =
        .next { s with hub := { s.hub with readData := s.readBytes 0 c n, readPoison := false } })))

end

namespace Sys2Proof.Claims

open Sys2Proof Sys2Proof.Machine

/-! ## Numbers (04_arithmetic R102, R104, R105, R107) -/

/-- Mantissa and exponent bits of the formats of R103. -/
def widthsOf : Ty → Nat × Nat
  | .f16 => (10, 5)
  | .bf16 => (7, 8)
  | _ => (23, 8)

/-- A pattern of a format as an operation sees it: its low bits, a subnormal as a zero of its sign under DAZ (R99). -/
def seen (f : Nat × Nat) (daz : Bool) (x : BitVec 64) : Nat :=
  let p := x.toNat % 2 ^ (1 + f.1 + f.2)
  if daz = true ∧ p / 2 ^ f.1 % 2 ^ f.2 = 0 then p / 2 ^ (f.1 + f.2) * 2 ^ (f.1 + f.2) else p

/-- The pattern is a NaN (R102). -/
def patNan (f : Nat × Nat) (p : Nat) : Bool := p / 2 ^ f.1 % 2 ^ f.2 == 2 ^ f.2 - 1 && p % 2 ^ f.1 != 0
/-- A signalling one: the most significant mantissa bit is 0 (R102). -/
def patSig (f : Nat × Nat) (p : Nat) : Bool := patNan f p && p / 2 ^ (f.1 - 1) % 2 == 0
/-- The canonical NaN (R102). -/
def canonical (f : Nat × Nat) : Nat := (2 ^ f.2 - 1) * 2 ^ f.1 + 2 ^ (f.1 - 1)
/-- The order of the patterns that are no NaN: by value, with -0 below +0 (R105). -/
def orderOf (f : Nat × Nat) (p : Nat) : Int :=
  let m : Nat := p % 2 ^ (f.1 + f.2)
  if p / 2 ^ (f.1 + f.2) % 2 = 1 then -1 - (m : Int) else m

/-- The result of `FMIN`, with `mx` of `FMAX` (R105). -/
def smaller (mx : Bool) (f : Nat × Nat) (a b : Nat) : Nat :=
  if patNan f a then (if patNan f b then canonical f else b)
  else if patNan f b then a
  else if mx then (if orderOf f a ≤ orderOf f b then b else a)
  else if orderOf f a ≤ orderOf f b then a else b

/-- `FMIN` and `FMAX` as R105 gives them. -/
def minmaxOf : Instr → Option DataIns
  | .fmin o => some (ins false o)
  | .fmax o => some (ins true o)
  | _ => none
where
  ins (mx : Bool) (o : Bin) : DataIns :=
    let f := widthsOf o.t
    let rd := fun (w : Wave) (i : Nat) (x : Src) => seen f (w.fpctl.getLsbD 2) (rdTy o.t w i x)
    { h := o.h, d := o.d, w64 := false, sgn := false, srcs := [o.a, o.b]
      val := fun w _ i => BitVec.ofNat 64 (smaller mx f (rd w i o.a) (rd w i o.b))
      flags := fun w _ i => if patSig f (rd w i o.a) || patSig f (rd w i o.b) then 1 else 0 }

/-- The bit of a pattern's class (R107). -/
def classBit (f : Nat × Nat) (p : Nat) : Nat :=
  let neg := p / 2 ^ (f.1 + f.2) % 2 == 1
  let ex := p / 2 ^ f.1 % 2 ^ f.2
  let fr := p % 2 ^ f.1
  if ex = 2 ^ f.2 - 1 then
    if fr = 0 then (if neg then 0 else 7) else if fr / 2 ^ (f.1 - 1) % 2 = 0 then 8 else 9
  else if ex = 0 then
    if fr = 0 then (if neg then 3 else 4) else (if neg then 2 else 5)
  else if neg then 1 else 6

/-- `FCLASS` as R107 gives it. -/
def classOf (o : Un) : DataIns :=
  { h := o.h, d := o.d, w64 := false, sgn := false, srcs := [o.a]
    val := fun w _ i => BitVec.ofNat 64 (2 ^ classBit (widthsOf o.t) (rdTy o.t w i o.a).toNat) }

/-- A finite FP32 pattern. -/
def finite32 (p : Nat) : Prop := p < 2 ^ 32 ∧ p / 2 ^ 23 % 2 ^ 8 ≠ 255

/-- The value of a finite FP32 pattern in units of 2^-149. -/
def units32 (p : Nat) : Int :=
  let ex := p / 2 ^ 23 % 2 ^ 8
  let fr := p % 2 ^ 23
  let m : Nat := if ex = 0 then fr else (2 ^ 23 + fr) * 2 ^ (ex - 1)
  if p / 2 ^ 31 = 1 then -(m : Int) else m

/-- The result `r` is the exact value `x`, in units of 2^(-149 - k), rounded once in the mode (R102). -/
structure RoundedTo (mode : Mode) (k : Nat) (x : Int) (r : FRes) : Prop where
  near : mode = .near → (finite32 r.1 ↔ x.natAbs < (2 ^ 25 - 1) * 2 ^ (252 + k)) ∧
    (finite32 r.1 → ∀ y, finite32 y →
      (units32 r.1 * 2 ^ k - x).natAbs ≤ (units32 y * 2 ^ k - x).natAbs ∧
      ((units32 r.1 * 2 ^ k - x).natAbs = (units32 y * 2 ^ k - x).natAbs → units32 y ≠ units32 r.1 → r.1 % 2 = 0))
  up : mode = .up ∨ (mode = .zero ∧ x ≤ 0) → finite32 r.1 →
    x ≤ units32 r.1 * 2 ^ k ∧ ∀ y, finite32 y → x ≤ units32 y * 2 ^ k → units32 r.1 ≤ units32 y
  down : mode = .down ∨ (mode = .zero ∧ 0 ≤ x) → finite32 r.1 →
    units32 r.1 * 2 ^ k ≤ x ∧ ∀ y, finite32 y → units32 y * 2 ^ k ≤ x → units32 y ≤ units32 r.1
  zero : mode = .zero → finite32 r.1
  inexact : finite32 r.1 → (r.2.getLsbD 4 = true ↔ units32 r.1 * 2 ^ k ≠ x)
  invalid : r.2.getLsbD 0 = false ∧ r.2.getLsbD 1 = false

/-! ## Walks (06_memory R148 to R152) -/

/-- Low bit and width of the index of a level (R149). -/
def indexOf : Nat → Nat × Nat
  | 0 => (12, 9)
  | 1 => (21, 13)
  | 2 => (34, 10)
  | _ => (44, 12)

/-- Leaf sizes that a level allows, as codes of R150. -/
def sizesAt : Nat → List Nat
  | 0 => [0, 1, 2, 3]
  | 1 => [4, 5, 6, 7, 8]
  | 2 => [9]
  | _ => []

/-- Bits of a page of a size code (R150). -/
def sizeBits (k : Nat) : Nat := [12, 14, 16, 18, 21, 23, 25, 27, 30, 34].getD k 12

/-- The entry that an address indexes in a table (R151). -/
def entryAt (s : State) (die level table va : Nat) : Nat :=
  ofBytes (s.readBytes die (table + 8 * (va / 2 ^ (indexOf level).1 % 2 ^ (indexOf level).2)) 8)

/-- A valid leaf of a level (R149 to R151). -/
def leafFor (level e : Nat) : Prop :=
  e % 2 = 1 ∧ e / 2 % 2 = 1 ∧ e / 2 ^ 52 = 0 ∧ e / 4 % 16 ∈ sizesAt level ∧ (e / 4096 * 4096) % 2 ^ sizeBits (e / 4 % 16) = 0

/-- A valid pointer from a level to the table of the next lower one (R149 to R151). -/
def pointerFor (level e : Nat) : Prop :=
  e % 2 = 1 ∧ e / 2 % 2 = 0 ∧ e / 2 ^ 52 = 0 ∧ e / 4 % 16 = 0 ∧
    (e / 4096 * 4096) % (match level with | 3 => 2 ^ 13 | 2 => 2 ^ 16 | _ => 2 ^ 12) = 0

/-- A walk from a table of a level ends at a leaf (R151). -/
def walksTo (s : State) (die va : Nat) : Nat → Nat → Nat → Prop
  | 0, table, leaf => entryAt s die 0 table va = leaf ∧ leafFor 0 leaf
  | n + 1, table, leaf =>
    (entryAt s die (n + 1) table va = leaf ∧ leafFor (n + 1) leaf) ∨
    (pointerFor (n + 1) (entryAt s die (n + 1) table va) ∧
      walksTo s die va n (entryAt s die (n + 1) table va / 4096 * 4096) leaf)

/-- Root of a context's page table (R391). -/
def rootOf (c : Ctx) : Nat := c.ptbaseNow.toNat / 2 ^ 15 % 2 ^ 37 * 2 ^ 15

/-- Physical address of an address in a leaf's page (R151). -/
def inLeaf (leaf va : Nat) : Nat := leaf / 4096 * 4096 + va % 2 ^ sizeBits (leaf / 4 % 16)

/-- The permission bit that an access needs, and the subcode without it (R152). -/
def permission : Need → Nat → Bool × Nat
  | .load, e => (e.testBit 6, 3)
  | .store, e => (e.testBit 7, 4)
  | .fetch, e => (e.testBit 8, 5)
  | .loadOrFetch, e => (e.testBit 6 || e.testBit 8, 3)
  | .loadStore, e => (e.testBit 6 && e.testBit 7, if e.testBit 6 then 4 else 3)

/-- A device register, which levels 0 and 1 do not reach (R148). -/
def isRegister (pa : Nat) : Prop := ∃ off, place pa = .regs off

/-! ## The machine -/

/-- The step after a move: no issue is in progress, and slots that have become free are with waves that wait for one (R237). -/
def settled (o : Host.Outcome State Fault Refusal) : Host.Outcome State Fault Refusal :=
  match o with
  | .next t => .next { t.acquireSlots with cur := none }
  | .fault f => .fault f
  | .refused r => .refused r

/-- The window of a path that issues is found (R29, R65), in a state that follows, with its bytes: where the path enters a window the
window's address translates and its line is in the instruction cache; within it the bytes are those that the path found there. -/
def windowFound (s : State) (u b : Nat) (w : Wave) (q : Path) (pc : BitVec 64) (t : State) (bytes : List (BitVec 8)) : Prop :=
  let enters : Prop := q.wait = .none ∧ (q.edge = .window ∨ pc.toNat % 32 = 0 ∨ q.buf = [])
  (enters ∧ ∃ pa, s.translate (s.whoLs w) .fetch (pc &&& ~~~31#64) = .ok pa ∧ s.icacheHas (s.coreOf w) pa = true ∧
    bytes = s.fetchBytes (s.coreOf w) pa 32 ∧
    t = (s.enterWindow (s.whoLs w) (s.coreOf w) pc pa).updWave u fun w => w.updPath b fun p => { p with buf := bytes }) ∨
  (¬enters ∧ t = s ∧ bytes = q.buf)

/-- The next agent: the head of the agenda, or what the schedule picks when it is empty (notes/assumptions/2.md). -/
def movesNext (s : State) (a : Agent) (rest : List Agent) : Prop :=
  s.agenda = a :: rest ∨ (s.agenda = [] ∧ rest = [] ∧ s.nextAgent = some a)

/-- No guard, no NWB. -/
def plain : Hd := { g := { p := 0, neg := false }, nwb := false }

/-- Bytes of a word as the manual prints them. -/
def word (l : List Nat) : List (BitVec 8) := l.map (BitVec.ofNat 8)

end Sys2Proof.Claims

section

open Sys2Proof Sys2Proof.Machine Sys2Proof.Claims

/-- R105, R107: `FMIN` and `FMAX` complete on every issue with valid latches: the result is the smaller or larger input, with -0 ordered
below +0 and after DAZ; with exactly one NaN it is the other input, with two the canonical NaN; a signalling NaN raises NV, and no other
flag is raised. So does `FCLASS`: it writes a mask with exactly the bit of its input's class set, the input read raw, and raises no
flag. -/
def Obligations.SmallerLargerAndClass : Prop :=
  (∀ i o, minmaxOf i = some o → o.Completes i) ∧ (∀ o, (classOf o).Completes (.fclass o))

/-- R102, R104: without DAZ and FTZ, the FP32 sum, difference, product and fused multiply-add of finite inputs are the exact value rounded
once in the mode: in the nearest mode no finite number is nearer, and a tie goes to an even mantissa; the directed modes give the
closest number on their side; NX is raised just when the result is not exact. That a tiny result that is not exact raises it is
the model's choice: notes/assumptions/26.md. -/
def Obligations.RoundedOnce : Prop :=
  ∀ (v : FEnv) a b c, v.daz = false → v.ftz = false → finite32 a → finite32 b → finite32 c →
    let rd := fmt32.read false
    RoundedTo v.mode 0 (units32 a + units32 b) (fadd fmt32 v (rd a) (rd b)) ∧
    RoundedTo v.mode 0 (units32 a - units32 b) (fsub fmt32 v (rd a) (rd b)) ∧
    RoundedTo v.mode 149 (units32 a * units32 b) (fmul fmt32 v (rd a) (rd b)) ∧
    RoundedTo v.mode 149 (units32 a * units32 b + units32 c * 2 ^ 149) (ffma fmt32 v (rd a) (rd b) (rd c))

/-- R148, R149, R151, R152, R391: an access that no TLB serves is translated by a walk of its context's table: the leaf's page and the
offset in it, where the leaf has US for level 0 and the permission that the access needs, and it is no device register for
levels 0 and 1; otherwise it faults with the cause and subcode of the check that fails first. An address of more than 56 bits,
and a table that is not valid, fault. -/
def Obligations.TranslationWalks : Prop :=
  ∀ (s : State) (a : Who) need (va : BitVec 64), s.hub.regionsNow.getLsbD 0 = false → s.secMg = false →
    (2 ^ 56 ≤ va.toNat → s.translate a need va = .error ⟨.translation, 2⟩) ∧
    (va.toNat < 2 ^ 56 → s.tlbHit a va.toNat = none →
      ((s.ctxD a.ctx).ptbaseNow.getLsbD 0 = false → s.translate a need va = .error ⟨.translation, 0⟩) ∧
      ((s.ctxD a.ctx).ptbaseNow.getLsbD 0 = true → ∀ leaf, walksTo s a.die va.toNat 3 (rootOf (s.ctxD a.ctx)) leaf →
        (a.priv = 0 → leaf.testBit 9 = false → s.translate a need va = .error ⟨.permission, 6⟩) ∧
        ((a.priv ≠ 0 ∨ leaf.testBit 9 = true) →
          ((permission need leaf).1 = false → s.translate a need va = .error ⟨.permission, (permission need leaf).2⟩) ∧
          ((permission need leaf).1 = true →
            (isRegister (inLeaf leaf va.toNat) → a.priv ≠ 2 → s.translate a need va = .error ⟨.permission, 8⟩) ∧
            (¬isRegister (inLeaf leaf va.toNat) ∨ a.priv = 2 → s.translate a need va = .ok (inLeaf leaf va.toNat))))))

/-- R36, R62, R70, R99, R380: a wave starts with its arguments in the s registers and zero in the others, zero in every v register, predicate word
1, no valid latch, no token signalled, QUANTUM 16, FPCTL, FPFLAGS and the counts zero, level 0 (level 2 for firmware), one path of its starting strands
at the entry point, and a checkpoint that holds just that. How firmware is launched is the model's choice: notes/assumptions/8.md. -/
def Obligations.WaveStartValues : Prop :=
  ∀ (s : State) g idx lane, (s.gridOf g).lrec.nstr ≤ 32 →
    let w := s.startWave g idx lane
    let n := (s.gridOf g).lrec.nstr
    (∀ j, w.sreg j = ((s.gridOf g).lrec.args[j]?).getD 0) ∧ w.icount = 0 ∧ w.fpctl = 0 ∧ w.fpflags = 0 ∧ w.quantum = 16 ∧
    w.priv = (if (s.gridOf g).firmware then 2 else 0) ∧
    (∀ k, w.tok k = 0) ∧ w.trapcause = 0 ∧ w.trappc = 0 ∧ w.trapaddr = 0 ∧ w.trapinfo = 0 ∧ w.trapstat = 0 ∧
    (∀ i, i < 32 → (w.strand i).live = decide (i < n) ∧ (∀ r, (w.strand i).v32 r = 0) ∧ (w.strand i).pred = 1 ∧
      (w.strand i).latN = 0 ∧ (w.strand i).defer = false ∧
      (i < n → (w.strand i).pc = (s.gridOf g).lrec.kernel + 64 ∧ (w.strand i).ckr.start = (s.gridOf g).lrec.kernel + 64 ∧
        (w.strand i).ckr.pred = 1 ∧ (w.strand i).ckr.vvalid = 0)) ∧
    ∃ p, w.paths = [p] ∧ p.wait = .none ∧ (∀ i, i < 32 → p.mask.getLsbD i = decide (i < n)) ∧ w.ck.mask = p.mask ∧ w.ck.icount = 0 ∧
      w.ck.svalid = 0 ∧ w.ck.fp = 0

/-- R29, R40, R54, R58, R59, R65, R76: a step in which a wave issues, where the wave has its lane and the window's bytes are found, runs
exactly the instruction that the bytes at the path's program counter decode to: `exec` of it, at the state in which the chosen
path has merged and its turn has begun, with the strands of the path, the word's address and its fall-through; where the
instruction needs a register that a load has yet to write, the path waits instead. A step in which an event takes place is `exec`
of the event. The order in which agents move is the model's (notes/assumptions/2.md). -/
def Obligations.StepRunsDecodedInstruction : Prop :=
  (∀ (s : State) u go late rest w p begins m q i t bytes, movesNext s (.issue u go late) rest → s.waves.get? u = some w →
    s.canIssue u go = true → (go = true ∨ s.hasLane u = true) → w.choose (s.isDet w.wg) go = some (p, begins) →
    w.merge p.born = m →
    let w1 : Wave := { (if begins then m.1.beginTurn m.2 else m.1) with lastTurn := s.tick + s.clk }
    w1.path? m.2 = some q → (q.ready = true ∨ go = true) →
    let pc := w1.pathPc q
    windowFound { s with
      agenda := rest, cur := none, waves := s.waves.set u w1, lanes := if go then s.lanes else s.lanes.set (s.laneOf u) u }
      u m.2 w1 q pc t bytes →
    let b := bytes.drop (pc.toNat % 32)
    decode (t.decCtx (t.waveD u)) b = .ok i → pc.toNat % 32 + wordBytes (b.headD 0) ≤ 32 →
    let e := pc + BitVec.ofNat 64 (wordBytes (b.headD 0))
    let c : Issue := { wave := u, path := m.2, mask := q.mask, pc := pc, next := if e.toNat % 32 = 28 then e + 4 else e
                       go := go, late := late }
    (t.stalls u q.mask i = false → Sys2Proof.Machine.step s = settled (exec i { t with clk := s.clk + 1, cur := some c })) ∧
    (t.stalls u q.mask i = true → Sys2Proof.Machine.step s = settled (.next (t.waitAt c false)))) ∧
  (∀ (s : State) i rest, movesNext s (.event i) rest → i.toFields = none →
    Sys2Proof.Machine.step s = match exec i { s with agenda := rest, cur := none } with
      | .next t => settled (.next { t with tick := t.tick + 1 })
      | .fault f => .fault f
      | .refused r => .refused r)

/-- R76, R81, R103, R195, R207, R217, R220, R246, R295: words that the manual prints decode to the instructions that they stand for. -/
def Obligations.DecodeWords : Prop :=
  decode ⟨256, false, false, false⟩ (word [0x00, 0, 0, 0, 0, 0, 0, 0]) = .ok (.nop plain) ∧
  decode ⟨256, false, false, false⟩ (word [0x8C, 0x01, 0x08, 0x04, 0x0C, 0x20, 0x80, 0x14]) =
    .ok (.ffma .rz { h := plain, t := .f32, d := ⟨false, 8⟩, a := .v 2, b := .v 3, c := .v 4 }) ∧
  decode ⟨256, false, false, false⟩ (word [0x05, 0x48, 0, 0, 0, 0, 0, 0, 0xD8, 0xFF, 0xFF, 0xFF]) = .ok (.bra { plain with g := ⟨1, true⟩ } 0xFFFFFFD8) ∧
  decode ⟨256, false, false, false⟩ (word [0xC4, 0x01, 0x18, 0x30, 0x70, 0, 0x80, 0]) = .ok (.fwmerge plain 24 24 (.v 28)) ∧
  decode ⟨256, false, false, false⟩ (word [0xA8, 0x02, 0x00, 0x06, 0, 0, 0, 0]) = .ok (.twait plain 3) ∧
  decode ⟨256, false, false, false⟩ (word [0x18, 0x03, 0, 0, 0, 0, 0, 0]) = .ok (.mrel plain) ∧
  decode ⟨256, false, false, false⟩ (word [0x90, 0x03, 0x00, 0x70, 0x03, 0, 0, 0]) = .ok (.reggive plain (.imm 56)) ∧
  decode ⟨256, false, false, false⟩ (word [0x44, 0x04, 0x00, 0x02, 0x03, 0, 0, 0]) = .ok (.tret plain (.imm 1) none)

/-- R27, R28, R40: every instruction with a word that its window and kernel allow is what the decoder reads from the word's bytes, whatever
follows them in memory: no operand is dropped or confused. -/
def Obligations.DecodeOfEncode : Prop :=
  ∀ c i bs rest, i.wf c = true → i.encode = some bs → decode c (bs ++ rest) = .ok i

/-- R28, R40, R41: whatever the decoder accepts is a well-formed instruction, and the bytes it read are the instruction's own word: no other
word means the same. -/
def Obligations.DecodedIsWellFormed : Prop :=
  ∀ c bs i, decode c bs = .ok i → i.wf c = true ∧ (16 ≤ bs.length → ∃ own, i.encode = some own ∧ bs.take own.length = own)

/-- R5, R7: a run never stops: from every state, any number of steps answers a state, in which no issue is in progress; what an
instruction cannot do it traps for, and a machine with nothing to do stays as it is. That there are no stops is the model's
reading of the manual, which names a trap or an effect for everything (NOTES.md, Stops). -/
def Obligations.MachineNeverStops : Prop :=
  (∀ n (s : State), SafeRun n s) ∧
  (∀ s t : State, Sys2Proof.Machine.step s = .next t → t.cur = none) ∧
  ∀ i (s : State), i.toFields.isSome = true → s.cur = none → exec i s = .fault .noIssuingWave

/-- R2, R147, R154, R155: every step keeps the canonical form of the state's byte memories: addresses rise strictly, nothing that reads as an
unlisted address is listed, the lines of the L1s have 64 bytes, and the dirty bytes of an L2 line stand in order within it. -/
def Obligations.MemoryCanonicalKept : Prop :=
  ∀ s t : State, s.memWf = true → Sys2Proof.Machine.step s = .next t → t.memWf = true

/-- R406, R407, R411, R413, R415: after reset the device is in boot with state 0x00, nobody owns it, no command is in progress, no cluster has
been released, every context is free, nothing is resident or in flight, and its memory has its canonical form. That memory reads
as zero is the model's choice (notes/assumptions/1.md). -/
def Obligations.ResetState : Prop :=
  let s := State.reset
  s.memWf = true ∧ s.hub.bootState = 0 ∧ s.hub.owner = none ∧ s.hub.busy = false ∧ s.hub.command = none ∧ s.hub.groups = 0 ∧
    s.hub.regiontab = 0 ∧ (∀ n, (s.ctxD n).st = .free) ∧ s.waves = [] ∧ s.wgs = [] ∧ s.grids = [] ∧ s.tiles = [] ∧ s.reqs = [] ∧
    s.loads = [] ∧ s.copies = [] ∧ s.xfers = [] ∧ s.mem.tlb = [] ∧ s.mem.l2 = [] ∧
    (∀ n, SafeRun n s) ∧ (∀ die pa c a, place pa = .cell c a → s.readByte die pa = 0) ∧
    ∀ p (cx : BitVec 6), exec (.run p cx) s = .next s

end
end

