-- ==== Sys2Proof/Laws/Tab.lean ====
section
/-! SUPPORT. Laws/Tab.lean: looking up in a table after a change, and the canonical form of byte memories. The laws of `Tab.set`
and `Tab.upd` hold of every list, in rising order or not. -/

namespace Sys2Proof.Machine

variable {α : Type}

theorem Tab.get?_set_self (t : Tab α) (k : Nat) (v : α) : (t.set k v).get? k = some v := by
  induction t with
  | nil => simp [Tab.set, Tab.get?]
  | cons e r ih =>
    obtain ⟨j, x⟩ := e
    simp only [Tab.set]
    split
    · simp [Tab.get?]
    · split
      · simp [Tab.get?]
      · simp [Tab.get?, *]

theorem Tab.get?_set_ne (t : Tab α) {k j : Nat} (v : α) (h : j ≠ k) : (t.set k v).get? j = t.get? j := by
  induction t with
  | nil =>
    simp only [Tab.set, Tab.get?]
    split
    · rfl
    · simp
  | cons e r ih =>
    obtain ⟨i, x⟩ := e
    simp only [Tab.set]
    split
    · simp only [Tab.get?]
      split
      · split
        · rfl
        · omega
      · simp
    · split
      · subst_vars
        simp [Tab.get?, h]
      · simp [Tab.get?, ih]

theorem Tab.get?_set (t : Tab α) (k j : Nat) (v : α) : (t.set k v).get? j = if j = k then some v else t.get? j := by
  split
  · rename_i h; subst h; exact Tab.get?_set_self t j v
  · exact Tab.get?_set_ne t v ‹_›

theorem Tab.getD_set (t : Tab α) (k j : Nat) (v d : α) : (t.set k v).getD j d = if j = k then v else t.getD j d := by
  simp only [Tab.getD, Tab.get?_set]
  split <;> rfl

theorem Tab.getD_of_get? {t : Tab α} {k : Nat} {x : α} (d : α) (h : t.get? k = some x) : t.getD k d = x := by simp [Tab.getD, h]

/-- Changing an entry that is there is setting it. -/
theorem Tab.upd_eq_set {t : Tab α} {k : Nat} {x : α} (f : α → α) (h : t.get? k = some x) : t.upd k f = t.set k (f x) := by
  induction t with
  | nil => simp [Tab.get?] at h
  | cons e r ih =>
    obtain ⟨i, y⟩ := e
    simp only [Tab.get?] at h
    simp only [Tab.upd, Tab.set]
    split
    · simp_all
    · split
      · simp_all
      · rename_i h1 h2
        simp only [h1, h2, if_false] at h
        rw [ih h]

/-- Changing an entry that is not there changes nothing. -/
theorem Tab.upd_of_none {t : Tab α} {k : Nat} (f : α → α) (h : t.get? k = none) : t.upd k f = t := by
  induction t with
  | nil => rfl
  | cons e r ih =>
    obtain ⟨i, y⟩ := e
    simp only [Tab.get?] at h
    simp only [Tab.upd]
    split
    · rfl
    · split
      · simp_all
      · rename_i h1 h2
        simp only [h1, h2, if_false] at h
        rw [ih h]

theorem Tab.get?_upd (t : Tab α) (k j : Nat) (f : α → α) :
    (t.upd k f).get? j = if j = k then (t.get? k).map f else t.get? j := by
  cases h : t.get? k with
  | none =>
    rw [Tab.upd_of_none f h]
    split
    · subst_vars; simp [h]
    · rfl
  | some x => rw [Tab.upd_eq_set f h, Tab.get?_set]; rfl

/-- Setting twice is setting once. -/
theorem Tab.set_set (t : Tab α) (k : Nat) (v w : α) : (t.set k v).set k w = t.set k w := by
  induction t with
  | nil => simp [Tab.set]
  | cons e r ih =>
    obtain ⟨i, y⟩ := e
    by_cases h1 : k < i
    · simp [Tab.set, h1]
    · by_cases h2 : k = i
      · subst h2; simp [Tab.set]
      · simp [Tab.set, h1, h2, ih]

theorem Tab.upd_set (t : Tab α) (k : Nat) (v : α) (f : α → α) : (t.set k v).upd k f = t.set k (f v) := by
  rw [Tab.upd_eq_set f (Tab.get?_set_self t k v), Tab.set_set]

/-- Several entries, each a function of its number. -/
theorem Tab.get?_setAll_map (l : List Nat) (f : Nat → α) (t : Tab α) (k : Nat) :
    (t.setAll (l.map fun i => (i, f i))).get? k = if k ∈ l then some (f k) else t.get? k := by
  induction l generalizing t with
  | nil => simp [Tab.setAll]
  | cons i r ih =>
    simp only [List.map_cons, Tab.setAll, ih, List.mem_cons, Tab.get?_set]
    by_cases h1 : k = i
    · subst h1; simp
    · simp [h1]

/-! ## Byte memory -/

theorem memGet_memSet_self (m : List Host.Cell) (k : Nat) (v : BitVec 8) (h : memWf m = true) : memGet (memSet m k v) k = v := by
  suffices H : ∀ lo, memWfFrom lo m = true → memGet (memSet m k v) k = v from H none h
  clear h
  induction m with
  | nil =>
    intro lo _
    simp only [memSet]
    split
    · simp_all [memGet]
    · simp [memGet]
  | cons e r ih =>
    intro lo h
    obtain ⟨j, x⟩ := e
    have hr : memWfFrom (some j) r = true := by
      cases lo <;> simp_all [memWfFrom]
    simp only [memSet]
    split
    · rename_i hk
      split
      · simp_all [memGet]
      · simp [memGet]
    · split
      · subst_vars
        split
        · subst_vars
          cases r with
          | nil => simp [memGet]
          | cons e' r' =>
            obtain ⟨j', x'⟩ := e'
            simp [memWfFrom] at hr
            simp [memGet, hr.1]
        · simp [memGet]
      · simp [memGet, *]
        exact ih _ hr

theorem memGet_memSet_ne (m : List Host.Cell) {k j : Nat} (v : BitVec 8) (h : memWf m = true) (hj : j ≠ k) :
    memGet (memSet m k v) j = memGet m j := by
  suffices H : ∀ lo, memWfFrom lo m = true → memGet (memSet m k v) j = memGet m j from H none h
  clear h
  induction m with
  | nil =>
    intro lo _
    simp only [memSet]
    split
    · rfl
    · simp only [memGet]
      split
      · rfl
      · simp
  | cons e r ih =>
    intro lo h
    obtain ⟨i, x⟩ := e
    have hr : memWfFrom (some i) r = true := by
      cases lo <;> simp_all [memWfFrom]
    simp only [memSet]
    split
    · split
      · rfl
      · simp only [memGet]
        split
        · split
          · rfl
          · omega
        · simp
    · split
      · subst_vars
        split
        · simp only [memGet, hj, if_false]
          split
          · cases r with
            | nil => rfl
            | cons e' r' =>
              obtain ⟨j', x'⟩ := e'
              simp [memWfFrom] at hr
              have : j < j' := by omega
              simp [memGet, this]
          · rfl
        · simp [memGet, hj]
      · simp only [memGet]
        rw [ih _ hr]

theorem memWf_memSet (m : List Host.Cell) (k : Nat) (v : BitVec 8) (h : memWf m = true) : memWf (memSet m k v) = true := by
  suffices H : ∀ lo, memWfFrom lo m = true → (∀ l, lo = some l → l < k) → memWfFrom lo (memSet m k v) = true from
    H none h (by simp)
  clear h
  induction m with
  | nil =>
    intro lo _ hk
    simp only [memSet]
    split
    · cases lo <;> rfl
    · cases lo <;> simp_all [memWfFrom]
  | cons e r ih =>
    intro lo h hk
    obtain ⟨j, x⟩ := e
    have hr : memWfFrom (some j) r = true := by
      cases lo <;> simp_all [memWfFrom]
    simp only [memSet]
    split
    · split
      · exact h
      · cases lo <;> simp_all [memWfFrom]
    · split
      · subst_vars
        split
        · cases r with
          | nil => cases lo <;> rfl
          | cons e' r' =>
            obtain ⟨j', x'⟩ := e'
            cases lo with
            | none => simp_all [memWfFrom]
            | some l =>
              have := hk l rfl
              simp [memWfFrom] at hr ⊢
              exact ⟨⟨by omega, hr.1.2⟩, hr.2⟩
        · cases lo <;> simp_all [memWfFrom]
      · have := ih (some j) hr (by intro l hl; cases hl; omega)
        cases lo <;> simp_all [memWfFrom]

/-- A table that is empty after a write holds nothing else. -/
theorem memWf_nil : memWf [] = true := rfl

/-- Writing several bytes keeps the canonical form. -/
theorem memWf_foldl {β : Type} (l : List β) (k : β → Nat) (v : β → BitVec 8) (m : List Host.Cell) (h : memWf m = true) :
    memWf (l.foldl (fun m x => memSet m (k x) (v x)) m) = true := by
  induction l generalizing m with
  | nil => exact h
  | cons x r ih => exact ih _ (memWf_memSet m _ _ h)

/-- Leaving cells out keeps the canonical form. -/
theorem memWf_filter (p : Host.Cell → Bool) (m : List Host.Cell) (h : memWf m = true) : memWf (m.filter p) = true := by
  have aux : ∀ (m : List Host.Cell) (lo lo' : Option Nat), memWfFrom lo m = true →
      (∀ l', lo' = some l' → ∃ l, lo = some l ∧ l' ≤ l) → memWfFrom lo' (m.filter p) = true := by
    intro m
    induction m with
    | nil => intro lo lo' _ _; cases lo' <;> rfl
    | cons e r ih =>
      intro lo lo' h hl
      obtain ⟨j, x⟩ := e
      have hr : memWfFrom (some j) r = true := by
        cases lo <;> simp_all [memWfFrom]
      simp only [List.filter]
      split
      · have h1 := ih (some j) (some j) hr (by intro l hl; cases hl; exact ⟨j, rfl, Nat.le_refl _⟩)
        cases lo' with
        | none => cases lo <;> simp_all [memWfFrom]
        | some l' =>
          obtain ⟨l, rfl, hle⟩ := hl l' rfl
          simp [memWfFrom] at h ⊢
          exact ⟨⟨by omega, h.1.2⟩, h1⟩
      · refine ih (some j) lo' hr ?_
        intro l' hl'
        obtain ⟨l, rfl, hle⟩ := hl l' hl'
        simp [memWfFrom] at h
        exact ⟨j, rfl, by omega⟩
  exact aux m none none h (by simp)

end Sys2Proof.Machine
end

