-- ==== Sys2Proof/Laws/Memory.lean ====
section
/-! SUPPORT. Laws/Memory.lean: the operations over memory keep its canonical form. -/

namespace Sys2Proof.Machine

variable {α : Type}

/-! ## Tables -/

/-- Every number of an updated table was there or is the new one. -/
theorem Tab.mem_set_keys (t : Tab α) (k : Nat) (v : α) (e : Nat × α) (h : e ∈ t.set k v) : e.1 = k ∨ e ∈ t := by
  induction t with
  | nil => simp only [Tab.set, List.mem_singleton] at h; exact .inl (by rw [h])
  | cons x r ih =>
    obtain ⟨j, y⟩ := x
    simp only [Tab.set] at h
    split at h
    · rcases List.mem_cons.mp h with h | h
      · exact .inl (by rw [h])
      · exact .inr h
    · split at h
      · rcases List.mem_cons.mp h with h | h
        · exact .inl (by rw [h])
        · exact .inr (List.mem_cons_of_mem _ h)
      · rcases List.mem_cons.mp h with h | h
        · exact .inr (by rw [h]; exact List.mem_cons_self ..)
        · exact (ih h).imp_right (List.mem_cons_of_mem _)

/-- Setting an entry keeps the order of the numbers. -/
theorem Tab.sorted_set (t : Tab α) (k : Nat) (v : α) (h : (t.map (·.1)).Pairwise (· < ·)) : ((t.set k v).map (·.1)).Pairwise (· < ·) := by
  induction t with
  | nil => simp [Tab.set]
  | cons x r ih =>
    obtain ⟨j, y⟩ := x
    simp only [List.map_cons, List.pairwise_cons] at h
    simp only [Tab.set]
    split
    · rename_i hk
      simp only [List.map_cons, List.pairwise_cons]
      refine ⟨fun a ha => ?_, h⟩
      rcases List.mem_cons.mp ha with rfl | ha
      · exact hk
      · exact Nat.lt_trans hk (h.1 a ha)
    · rename_i hk
      split
      · rename_i hj
        subst hj
        simpa using h
      · rename_i hj
        simp only [List.map_cons, List.pairwise_cons]
        refine ⟨fun a ha => ?_, ih h.2⟩
        obtain ⟨e, he, rfl⟩ := List.mem_map.mp ha
        rcases Tab.mem_set_keys r k v e he with hk' | he
        · omega
        · exact h.1 _ (List.mem_map_of_mem he)

/-- A table of a line's bytes: in order, and within the line. -/
def lineBytes (t : Tab (BitVec 8)) : Prop := (t.map (·.1)).Pairwise (· < ·) ∧ ∀ e ∈ t, e.1 < 64

theorem lineBytes.set {t : Tab (BitVec 8)} (h : lineBytes t) {k : Nat} (hk : k < 64) (v : BitVec 8) : lineBytes (Tab.set t k v) :=
  ⟨Tab.sorted_set t k v h.1, fun e he => (Tab.mem_set_keys t k v e he).elim (fun x => x ▸ hk) (h.2 e)⟩

theorem lineBytes.setAll {l : List (Nat × BitVec 8)} (hl : ∀ e ∈ l, e.1 < 64) : ∀ {t : Tab (BitVec 8)}, lineBytes t → lineBytes (Tab.setAll t l) := by
  induction l with
  | nil => exact fun h => h
  | cons x r ih =>
    obtain ⟨k, v⟩ := x
    exact fun h => ih (fun e he => hl e (List.mem_cons_of_mem _ he)) (h.set (hl _ (List.mem_cons_self ..)) v)

theorem Tab.del_sublist (t : Tab α) (k : Nat) : List.Sublist (t.del k) t := by
  induction t with
  | nil => exact List.Sublist.refl _
  | cons x r ih =>
    obtain ⟨j, y⟩ := x
    simp only [Tab.del]
    split
    · exact List.Sublist.refl _
    · split
      · exact List.sublist_cons_self ..
      · exact ih.cons_cons _

theorem lineBytes.del {t : Tab (BitVec 8)} (h : lineBytes t) (k : Nat) : lineBytes (t.del k) :=
  ⟨h.1.sublist ((Tab.del_sublist t k).map _), fun e he => h.2 e ((Tab.del_sublist t k).subset he)⟩

/-! ## Copies of lines -/

/-- The canonical form of an L2's copy of a line. -/
def L2Line.Ok (x : L2Line) : Prop := x.base.length = 64 ∧ lineBytes x.bytes

theorem lineBytes_nil : lineBytes [] := ⟨List.Pairwise.nil, by simp⟩

theorem L2Line.Ok.settle {x : L2Line} (h : x.Ok) (off : Nat) : (x.settle off).Ok := by
  unfold L2Line.settle
  split
  · exact h
  · exact ⟨by simpa using h.1, h.2.del off⟩

theorem L2Line.Ok.clean (x : L2Line) : x.clean.Ok := ⟨by simp [L2Line.clean], lineBytes_nil⟩

/-! ## Memory -/

/-- The canonical form of memory and caches. -/
structure Memory.Ok (m : Memory) : Prop where
  cells : memWf m.cells = true
  l1    : ∀ x ∈ m.l1, x.bytes.length = 64
  l2    : ∀ x ∈ m.l2, x.Ok

/-- The canonical form of the buffers that the hub keeps. -/
structure Hub.Ok (h : Hub) : Prop where
  image    : memWf h.image = true
  report   : memWf h.report = true
  identity : memWf h.identity = true

theorem State.memWf_iff (s : State) : s.memWf = true ↔ s.mem.Ok ∧ s.hub.Ok := by
  simp only [State.memWf, Bool.and_eq_true, List.all_eq_true, beq_iff_eq, decide_eq_true_eq]
  constructor
  · rintro ⟨⟨⟨⟨⟨a, b⟩, c⟩, d⟩, e⟩, f⟩
    exact ⟨⟨a, e, fun x hx => ⟨(f x hx).1.1, (f x hx).1.2, (f x hx).2⟩⟩, b, c, d⟩
  · rintro ⟨⟨a, e, f⟩, b, c, d⟩
    exact ⟨⟨⟨⟨⟨a, b⟩, c⟩, d⟩, e⟩, fun x hx => ⟨⟨(f x hx).1, (f x hx).2.1⟩, (f x hx).2.2⟩⟩

theorem Memory.missLine_length (m : Memory) (line : Nat) : (m.missLine line).length = 64 := by simp [Memory.missLine]

theorem Memory.Ok.l2Own {m : Memory} (h : m.Ok) (line die : Nat) (asid : BitVec 12) : (m.l2Own line die asid).Ok := by
  unfold Memory.l2Own
  cases hc : m.l2Copy line die with
  | none => exact ⟨m.missLine_length line, lineBytes_nil⟩
  | some x => exact h.l2 x (List.mem_of_find?_eq_some hc)

theorem Memory.Ok.l2Whole {m : Memory} (h : m.Ok) (line die : Nat) (asid : BitVec 12) : (m.l2Whole line die asid).Ok := by
  refine ⟨(h.l2Own line die asid).1, ?_⟩
  unfold Memory.l2Whole
  have aux : ∀ (l : List L2Line) (t : Tab (BitVec 8)), (∀ x ∈ l, x.Ok) → lineBytes t →
      lineBytes (l.foldl (fun (t : Tab (BitVec 8)) y => t.setAll y.bytes) t) := by
    intro l
    induction l with
    | nil => exact fun t _ ht => ht
    | cons y r ih =>
      intro t hl ht
      exact ih _ (fun x hx => hl x (List.mem_cons_of_mem _ hx)) (lineBytes.setAll (hl y (List.mem_cons_self ..)).2.2 ht)
  exact aux _ _ (fun x hx => h.l2 x (List.mem_filter.mp hx).1) (h.l2Own line die asid).2

/-- Copies dropped, and one put in their place. -/
theorem Memory.Ok.l2Put {m : Memory} (h : m.Ok) (p : L2Line → Bool) {x : L2Line} (hx : x.Ok) :
    ({ m with l2 := m.l2.filter p ++ [x] } : Memory).Ok := by
  refine ⟨h.cells, h.l1, fun y hy => ?_⟩
  rcases List.mem_append.mp hy with hy | hy
  · exact h.l2 y (List.mem_filter.mp hy).1
  · rw [List.mem_singleton.mp hy]
    exact hx

theorem Memory.Ok.l2Take {m : Memory} (h : m.Ok) (line die : Nat) (asid : BitVec 12) : (m.l2Take line die asid).Ok :=
  h.l2Put _ (h.l2Whole ..)

theorem Memory.Ok.l2Fill {m : Memory} (h : m.Ok) (die pa : Nat) : (m.l2Fill die pa).Ok := by
  unfold Memory.l2Fill
  split
  · split
    · exact h
    · refine ⟨h.cells, h.l1, fun y hy => ?_⟩
      rcases List.mem_append.mp hy with hy | hy
      · exact h.l2 y hy
      · rw [List.mem_singleton.mp hy]
        exact ⟨m.missLine_length _, lineBytes_nil⟩
  · exact h

/-- Copies changed, each into one of the form. -/
theorem Memory.Ok.l2Map {m : Memory} (h : m.Ok) (f : L2Line → L2Line) (hf : ∀ x, x.Ok → (f x).Ok) : ({ m with l2 := m.l2.map f } : Memory).Ok :=
  ⟨h.cells, h.l1, fun y hy => by
    obtain ⟨x, hx, rfl⟩ := List.mem_map.mp hy
    exact hf x (h.l2 x hx)⟩

theorem Memory.Ok.settle {m : Memory} (h : m.Ok) (c : Nat) : (m.settle c).Ok :=
  h.l2Map _ fun x hx => by
    split
    · exact hx.settle _
    · exact hx

theorem Memory.Ok.cachedWrite {m : Memory} (h : m.Ok) (c die : Nat) (asid : BitVec 12) (b : BitVec 8) : (m.cachedWrite c die asid b).Ok :=
  h.l2Put _ ⟨(h.l2Whole ..).1, (h.l2Whole ..).2.set (Nat.mod_lt _ (by decide)) b⟩

theorem Memory.Ok.directWrite {m : Memory} (h : m.Ok) (c : Nat) (asid : BitVec 12) (b : BitVec 8) : (m.directWrite c asid b).Ok :=
  (h.settle c).l2Put _ ⟨(h.l2Own ..).1, (h.l2Own ..).2.set (Nat.mod_lt _ (by decide)) b⟩

theorem Memory.Ok.windowWrite {m : Memory} (h : m.Ok) (c : Nat) (b : BitVec 8) : (m.windowWrite c b).Ok :=
  have hs := h.settle c
  ⟨memWf_memSet _ _ _ hs.cells, hs.l1, hs.l2⟩

/-- A byte written keeps the canonical form. -/
theorem Memory.Ok.writeByte {m : Memory} (h : m.Ok) (hub : Hub) (die : Nat) (asid : BitVec 12) (pa : Nat) (b : BitVec 8) :
    (m.writeByte hub die asid pa b).Ok := by
  unfold Memory.writeByte
  split
  · exact h.cachedWrite ..
  · exact h.directWrite ..
  · exact h.windowWrite ..
  · split
    · exact ⟨memWf_memSet _ _ _ h.cells, h.l1, h.l2⟩
    · exact h
  · exact h
  · exact h

theorem Memory.Ok.clearPoison {m : Memory} (h : m.Ok) (pa n : Nat) : (m.clearPoison pa n).Ok := by
  unfold Memory.clearPoison
  split
  · exact h
  · exact ⟨h.cells, h.l1, h.l2⟩

theorem Memory.Ok.markDirty {m : Memory} (h : m.Ok) (pa n : Nat) : (m.markDirty pa n).Ok := by
  unfold Memory.markDirty
  split
  · exact h
  · exact ⟨h.cells, h.l1, h.l2⟩

/-- What holds of a state and of each step of a fold holds at its end. -/
theorem foldl_keeps {σ β : Type} {P : σ → Prop} {f : σ → β → σ} (hf : ∀ s x, P s → P (f s x)) (l : List β) {s : σ} (h : P s) : P (l.foldl f s) := by
  induction l generalizing s with
  | nil => exact h
  | cons x r ih => exact ih (hf s x h)

/-- An update of a byte memory by a fold of sets keeps its form. -/
theorem memWf_foldl' {β : Type} (l : List β) (f : List Host.Cell → β → List Host.Cell) (hf : ∀ m x, memWf m = true → memWf (f m x) = true)
    {m : List Host.Cell} (h : memWf m = true) : memWf (l.foldl f m) = true := foldl_keeps (P := fun m => memWf m = true) hf l h

theorem State.memWf_updMem {s : State} (f : Memory → Memory) (hf : ∀ m, m.Ok → (f m).Ok) (h : s.memWf = true) : (s.updMem f).memWf = true := by
  rw [State.memWf_iff] at h ⊢
  exact ⟨hf _ h.1, h.2⟩

theorem State.memWf_updHub {s : State} (f : Hub → Hub) (hf : ∀ x, x.Ok → (f x).Ok) (h : s.memWf = true) : (s.updHub f).memWf = true := by
  rw [State.memWf_iff] at h ⊢
  exact ⟨h.1, hf _ h.2⟩

/-- The update leaves memory and the hub's buffers as they were. -/
theorem State.memWf_same {s t : State} (m : t.mem = s.mem) (i : t.hub.image = s.hub.image) (r : t.hub.report = s.hub.report)
    (d : t.hub.identity = s.hub.identity) (h : s.memWf = true) : t.memWf = true := by
  rw [State.memWf_iff] at h ⊢
  rw [m]
  exact ⟨h.1, ⟨i ▸ h.2.1, r ▸ h.2.2, d ▸ h.2.3⟩⟩

/-- Both branches of a test keep the form. -/
theorem memWf_ite {c : Prop} [Decidable c] {a b : State} (ha : a.memWf = true) (hb : b.memWf = true) : (if c then a else b).memWf = true := by
  split
  · exact ha
  · exact hb

theorem State.memWf_claim {s : State} (p : Bool) (h : s.memWf = true) : (s.claim p).memWf = true :=
  memWf_ite (State.memWf_same rfl rfl rfl rfl h) h

theorem State.memWf_handover {s : State} (n : Nat) (h : s.memWf = true) : (s.handover n).memWf = true := by
  unfold State.handover
  split
  · exact State.memWf_same rfl rfl rfl rfl h
  · exact memWf_ite h (State.memWf_same rfl rfl rfl rfl h)
  · exact memWf_ite h (State.memWf_same rfl rfl rfl rfl h)
  · exact h

theorem State.memWf_ringDoorbell {s : State} (c q : Nat) (p : BitVec 32) (h : s.memWf = true) : (s.ringDoorbell c q p).memWf = true :=
  memWf_ite h (memWf_ite (State.memWf_same rfl rfl rfl rfl h) (State.memWf_same rfl rfl rfl rfl h))

theorem Hub.Ok.setPort {x : Hub} (h : x.Ok) (p : Bool) (q : Port) : (x.setPort p q).Ok := by
  unfold Hub.setPort
  split <;> exact ⟨h.1, h.2, h.3⟩

theorem Hub.Ok.issueCommand {x : Hub} (h : x.Ok) (n : Nat) : (x.issueCommand n).Ok := by
  unfold Hub.issueCommand
  exact ⟨h.1, h.2, h.3⟩

theorem State.memWf_image {s : State} {l : List Host.Cell} (hl : Machine.memWf l = true) (h : s.memWf = true) :
    (s.updHub fun x => { x with image := l }).memWf = true := State.memWf_updHub _ (fun _ hx => ⟨hl, hx.2, hx.3⟩) h

theorem memWf_bytes (l : List Nat) (k : Nat → Nat) (b : Nat → Option (BitVec 8)) {m : List Host.Cell} (h : memWf m = true) :
    memWf (l.foldl (fun m i => match b i with | some x => memSet m (k i) x | none => m) m) = true := by
  refine memWf_foldl' _ _ (fun m x hm => ?_) h
  split
  · exact memWf_memSet _ _ _ hm
  · exact hm

/-- A register of the management space written. -/
theorem State.memWf_mgWriteReg {s : State} (who : Option Bool) (off : Nat) (bs : List (Option (BitVec 8))) (h : s.memWf = true) :
    (s.mgWriteReg who off bs).memWf = true := by
  have upd : ∀ f : Hub → Hub, (∀ x, x.Ok → (f x).Ok) → (s.updHub f).memWf = true := fun f hf => State.memWf_updHub f hf h
  have may : ∀ f : Hub → Hub, (∀ x, x.Ok → (f x).Ok) →
      (if (s.hub.mayWrite who && !s.hub.busy) = true then s.updHub f else s).memWf = true := fun f hf => memWf_ite (upd f hf) h
  unfold State.mgWriteReg
  simp only
  refine memWf_ite ?_ (memWf_ite ?_ (memWf_ite ?_ (memWf_ite ?_ (memWf_ite ?_ (memWf_ite ?_ (memWf_ite ?_ (memWf_ite ?_ (memWf_ite ?_
    (memWf_ite ?_ (memWf_ite ?_ h))))))))))
  · cases who with
    | none => exact h
    | some p => exact State.memWf_claim p h
  · exact memWf_ite (State.memWf_handover _ h) h
  · exact may _ fun x hx => hx.issueCommand _
  · exact may _ fun x hx => ⟨hx.1, hx.2, hx.3⟩
  · exact may _ fun x hx => ⟨hx.1, hx.2, hx.3⟩
  · exact may _ fun x hx => ⟨hx.1, hx.2, hx.3⟩
  · exact may _ fun x hx => ⟨hx.1, hx.2, hx.3⟩
  · exact memWf_ite (upd _ fun x hx => hx.setPort ..) h
  · exact memWf_ite (upd _ fun x hx => hx.setPort ..) h
  · exact memWf_ite (State.memWf_ringDoorbell _ _ _ h) h
  · exact memWf_ite (State.memWf_image (memWf_bytes (List.range 8) (fun i => off - 0x1000000 + i) (fun i => bs.getD i none)
      ((State.memWf_iff s).mp h).2.1) h) h

theorem State.memWf_mgWrite {s : State} (who : Option Bool) (off : Nat) (bytes : List (BitVec 8)) (h : s.memWf = true) :
    (s.mgWrite who off bytes).memWf = true := by
  unfold State.mgWrite
  simp only
  split
  · exact h
  · exact foldl_keeps (P := fun s : State => s.memWf = true) (fun _ _ hs => State.memWf_mgWriteReg _ _ _ hs) _ h

/-- Bytes written at a physical address keep the canonical form. -/
theorem State.memWf_writeBytes {s : State} (die : Nat) (asid : BitVec 12) (pa : Nat) (bs : List (BitVec 8)) (h : s.memWf = true) :
    (s.writeBytes die asid pa bs).memWf = true := by
  unfold State.writeBytes
  split
  · exact State.memWf_mgWrite _ _ _ h
  · rw [State.memWf_iff] at h ⊢
    exact ⟨((foldl_keeps (P := Memory.Ok) (fun _ _ hm => hm.writeByte ..) _ h.1).clearPoison ..).markDirty .., h.2⟩

/-- Copies of a line written back. -/
theorem State.memWf_writeBackOf {s : State} (line : Nat) (p : L2Line → Bool) (h : s.memWf = true) : (s.writeBackOf line p).memWf = true := by
  unfold State.writeBackOf
  refine foldl_keeps (P := fun s : State => s.memWf = true) (fun t x ht => ?_) _ ?_
  · refine foldl_keeps (P := fun s : State => s.memWf = true) (fun u b hu => ?_) _ ht
    exact State.memWf_same (s := u) rfl rfl rfl rfl hu
  · rw [State.memWf_iff] at h ⊢
    have hl := h.1.l2Map (fun x => if x.line == line && p x then x.clean else x) fun x hx => by
      split
      · exact L2Line.Ok.clean x
      · exact hx
    exact ⟨⟨memWf_foldl' _ _ (fun m x hm => memWf_foldl' _ _ (fun m e hm => memWf_memSet _ _ _ hm) hm) h.1.cells, hl.l1, hl.l2⟩, h.2⟩

/-- A line written back. -/
theorem State.memWf_writeBack {s : State} (line : Nat) (h : s.memWf = true) : (s.writeBack line).memWf = true :=
  State.memWf_writeBackOf _ _ h

theorem State.memWf_l2Drop {s : State} (line : Nat) (p : L2Line → Bool) (h : s.memWf = true) : (s.l2Drop line p).memWf = true :=
  State.memWf_updMem _ (fun _ hm => ⟨hm.cells, hm.l1, fun x hx => hm.l2 x (List.mem_filter.mp hx).1⟩) h

theorem State.memWf_l2Evict {s : State} (die line : Nat) (h : s.memWf = true) : (s.l2Evict die line).memWf = true :=
  State.memWf_l2Drop _ _ (State.memWf_writeBackOf _ _ h)

theorem State.memWf_l2Renew {s : State} (line : Nat) (h : s.memWf = true) : (s.l2Renew line).memWf = true :=
  State.memWf_updMem _ (fun _ hm => hm.l2Map _ fun x hx => by
    split
    · exact ⟨by simp, hx.2⟩
    · exact hx) h

/-- A line goes home. -/
theorem State.memWf_aliasL2 {s : State} (line : Nat) (h : s.memWf = true) : (s.aliasL2 line).memWf = true :=
  State.memWf_l2Renew _ (State.memWf_l2Drop _ _ (State.memWf_writeBack _ h))

theorem State.memWf_writeBackAll {s : State} (h : s.memWf = true) : s.writeBackAll.memWf = true :=
  foldl_keeps (P := fun s : State => s.memWf = true) (fun _ _ hs => State.memWf_writeBack _ hs) _ h

theorem State.memWf_l1Drop {s : State} (core line : Nat) (h : s.memWf = true) : (s.l1Drop core line).memWf = true :=
  State.memWf_updMem _ (fun _ hm => ⟨hm.cells, fun x hx => hm.l1 x (List.mem_filter.mp hx).1, hm.l2⟩) h

theorem State.memWf_l1DropAll {s : State} (core : Nat) (h : s.memWf = true) : (s.l1DropAll core).memWf = true :=
  State.memWf_updMem _ (fun _ hm => ⟨hm.cells, fun x hx => hm.l1 x (List.mem_filter.mp hx).1, hm.l2⟩) h

theorem State.memWf_l1DropLine {s : State} (line : Nat) (h : s.memWf = true) : (s.l1DropLine line).memWf = true :=
  State.memWf_updMem _ (fun _ hm => ⟨hm.cells, fun x hx => hm.l1 x (List.mem_filter.mp hx).1, hm.l2⟩) h

theorem l1Room_mem {l : List CoreLine} {core : Nat} {x : CoreLine} (h : x ∈ l1Room l core) : x ∈ l := by
  unfold l1Room at h
  simp only at h
  split at h
  · exact h
  · split at h
    · exact h
    · exact List.mem_of_mem_erase h

/-- A line put into an L1 has its 64 bytes. -/
theorem State.memWf_l1Fill {s : State} (core pa : Nat) (h : s.memWf = true) : (s.l1Fill core pa).memWf = true := by
  unfold State.l1Fill
  split
  · split
    · exact h
    · refine State.memWf_updMem _ (fun m hm => ⟨hm.cells, fun x hx => ?_, hm.l2⟩) h
      rcases List.mem_append.mp hx with hx | hx
      · exact hm.l1 x (l1Room_mem hx)
      · rw [List.mem_singleton.mp hx]
        simp [State.readBytes]
  · exact h

/-! ## Stores -/

theorem State.verWrite_mem (s : State) (g : Nat) (priv : BitVec 2) (va : BitVec 64) (b : BitVec 8) :
    (s.verWrite g priv va b).mem = s.mem ∧ (s.verWrite g priv va b).hub = s.hub := by
  unfold State.verWrite
  simp only
  split
  · exact ⟨rfl, rfl⟩
  · refine foldl_keeps (P := fun t : State => t.mem = s.mem ∧ t.hub = s.hub) (fun t e ht => ?_) _ ⟨rfl, rfl⟩
    split
    · exact ht
    · exact ht

theorem State.memWf_putByte {s : State} (u seq : Nat) (priv : BitVec 2) (asid : BitVec 12) (att det : Bool) (pa : Nat) (va : BitVec 64)
    (b : BitVec 8) (h : s.memWf = true) : (s.putByte u seq priv asid att det pa va b).memWf = true := by
  have ver : ∀ g, (s.verWrite g priv va b).memWf = true := fun g =>
    have e := State.verWrite_mem s g priv va b
    State.memWf_same e.1 (by rw [e.2]) (by rw [e.2]) (by rw [e.2]) h
  unfold State.putByte
  simp only
  split
  · exact ver _
  · split
    · exact ver _
    · split
      · exact State.memWf_same rfl rfl rfl rfl h
      · exact State.memWf_writeBytes _ _ _ _ h

/-- A wave's store keeps the canonical form. -/
theorem State.memWf_storeBytes {s : State} (u : Nat) (direct : Bool) (pa : Nat) (va : BitVec 64) (bs : List (BitVec 8)) (h : s.memWf = true) :
    (s.storeBytes u direct pa va bs).memWf = true := by
  unfold State.storeBytes
  refine State.memWf_l1Drop _ _ ?_
  split
  · exact State.memWf_writeBytes _ _ _ _ h
  · exact foldl_keeps (P := fun s : State => s.memWf = true) (fun _ _ hs => State.memWf_putByte _ _ _ _ _ _ _ _ _ hs) _ h

/-- Bytes published outside any wave keep the canonical form, where what counts a failure does. -/
theorem State.memWf_publish {s : State} (a : Who) (cores : List Nat) (bs : Tab (BitVec 8 × BitVec 2)) (fail : State → Cause → State)
    (hf : ∀ s c, s.memWf = true → (fail s c).memWf = true) (h : s.memWf = true) : (s.publish a cores bs fail).memWf = true := by
  unfold State.publish
  refine foldl_keeps (P := fun s : State => s.memWf = true) (fun t k ht => ?_) _ h
  simp only
  split
  · exact ht
  · split
    · exact hf _ _ ht
    · rename_i pa _
      have hl := foldl_keeps (P := fun s : State => s.memWf = true) (f := fun s c => s.l1Drop c (pa / 64))
        (fun _ _ hs => State.memWf_l1Drop _ _ hs) cores ht
      have hw := fun l => foldl_keeps (P := fun s : State => s.memWf = true)
        (f := fun (s : State) (e : Nat × BitVec 8 × BitVec 2) => s.writeBytes a.die (s.asidOf a.ctx) (pa + e.1 % 32) [e.2.1])
        (fun _ _ hs => State.memWf_writeBytes _ _ _ _ hs) l hl
      split
      · exact State.memWf_updMem _ (fun m hm => hm.clearPoison ..) (hw _)
      · exact hw _

end Sys2Proof.Machine
end

