-- ==== Sys2Proof/Laws/PerInstr.lean ====
section
/-! SUPPORT. Laws/PerInstr.lean: what holds of every instruction as syntax, one lemma for each constructor. -/

namespace Sys2Proof.Laws

theorem src_len (a : Src) : a.len ≠ 3 := by cases a <;> simp [Src.len]

theorem offLen_ne (o : Option (BitVec 32)) : offLen o ≠ 3 := by cases o <;> simp [offLen]

theorem len0 : (0 : BitVec 2) ≠ 3 := by decide

theorem len1 : (1 : BitVec 2) ≠ 3 := by decide

theorem len2 : (2 : BitVec 2) ≠ 3 := by decide

/-- R27: the word of an instruction, where it has one, has one of the three lengths: LEN is never 11. -/
def WordLength.Statement (i : Instr) : Prop := ∀ f, i.toFields = some f → f.len ≠ 3

theorem WordLength.nop : ∀ h, WordLength.Statement (.nop h) := by intro _ _ h; cases h; exact len0

theorem WordLength.bra : ∀ h off, WordLength.Statement (.bra h off) := by intro _ _ _ h; cases h; exact len1

theorem WordLength.brx : ∀ h a, WordLength.Statement (.brx h a) := by intro _ _ _ h; cases h; exact len0

theorem WordLength.call : ∀ h d off, WordLength.Statement (.call h d off) := by intro _ _ _ _ h; cases h; exact len1

theorem WordLength.ret : ∀ h a, WordLength.Statement (.ret h a) := by intro _ _ _ h; cases h; exact len0

theorem WordLength.loop : ∀ h d off, WordLength.Statement (.loop h d off) := by intro _ _ _ _ h; cases h; exact len1

theorem WordLength.sfork : ∀ h d a b, WordLength.Statement (.sfork h d a b) := by intro _ _ _ _ _ h; cases h; exact len0

theorem WordLength.sexit : ∀ h, WordLength.Statement (.sexit h) := by intro _ _ h; cases h; exact len0

theorem WordLength.wexit : ∀ h, WordLength.Statement (.wexit h) := by intro _ _ h; cases h; exact len0

theorem WordLength.idem : ∀ vmask smask, WordLength.Statement (.idem vmask smask) := by intro _ _ _ h; cases h; exact len0

theorem WordLength.yield : ∀ h, WordLength.Statement (.yield h) := by intro _ _ h; cases h; exact len0

theorem WordLength.vote : ∀ h o, WordLength.Statement (.vote h o) := by
  intro _ o _ h
  cases o <;> cases h <;> exact len0

theorem WordLength.paths : ∀ h d live, WordLength.Statement (.paths h d live) := by intro _ _ _ _ h; cases h; exact len0

theorem WordLength.iadd : ∀ sat o, WordLength.Statement (.iadd sat o) := by intro _ _ _ h; cases h; exact src_len _

theorem WordLength.isub : ∀ sat o, WordLength.Statement (.isub sat o) := by intro _ _ _ h; cases h; exact src_len _

theorem WordLength.imul : ∀ o, WordLength.Statement (.imul o) := by intro _ _ h; cases h; exact src_len _

theorem WordLength.imad : ∀ o, WordLength.Statement (.imad o) := by intro _ _ h; cases h; exact src_len _

theorem WordLength.imulh : ∀ o, WordLength.Statement (.imulh o) := by intro _ _ h; cases h; exact src_len _

theorem WordLength.imin : ∀ o, WordLength.Statement (.imin o) := by intro _ _ h; cases h; exact src_len _

theorem WordLength.imax : ∀ o, WordLength.Statement (.imax o) := by intro _ _ h; cases h; exact src_len _

theorem WordLength.iabs : ∀ sat o, WordLength.Statement (.iabs sat o) := by intro _ _ _ h; cases h; exact src_len _

theorem WordLength.and : ∀ o, WordLength.Statement (.and o) := by intro _ _ h; cases h; exact src_len _

theorem WordLength.or : ∀ o, WordLength.Statement (.or o) := by intro _ _ h; cases h; exact src_len _

theorem WordLength.xor : ∀ o, WordLength.Statement (.xor o) := by intro _ _ h; cases h; exact src_len _

theorem WordLength.not : ∀ o, WordLength.Statement (.not o) := by intro _ _ h; cases h; exact src_len _

theorem WordLength.shl : ∀ o, WordLength.Statement (.shl o) := by intro _ _ h; cases h; exact src_len _

theorem WordLength.shr : ∀ o, WordLength.Statement (.shr o) := by intro _ _ h; cases h; exact src_len _

theorem WordLength.sar : ∀ o, WordLength.Statement (.sar o) := by intro _ _ h; cases h; exact src_len _

theorem WordLength.rot : ∀ o, WordLength.Statement (.rot o) := by intro _ _ h; cases h; exact src_len _

theorem WordLength.popc : ∀ o, WordLength.Statement (.popc o) := by intro _ _ h; cases h; exact src_len _

theorem WordLength.clz : ∀ o, WordLength.Statement (.clz o) := by intro _ _ h; cases h; exact src_len _

theorem WordLength.ctz : ∀ o, WordLength.Statement (.ctz o) := by intro _ _ h; cases h; exact src_len _

theorem WordLength.brev : ∀ o, WordLength.Statement (.brev o) := by intro _ _ h; cases h; exact src_len _

theorem WordLength.bfx : ∀ o, WordLength.Statement (.bfx o) := by intro _ _ h; cases h; exact src_len _

theorem WordLength.bfi : ∀ o, WordLength.Statement (.bfi o) := by intro _ _ h; cases h; exact src_len _

theorem WordLength.sel : ∀ o pc neg, WordLength.Statement (.sel o pc neg) := by intro _ _ _ _ h; cases h; exact src_len _

theorem WordLength.icmp : ∀ cc o, WordLength.Statement (.icmp cc o) := by intro _ _ _ h; cases h; exact src_len _

theorem WordLength.mov : ∀ o, WordLength.Statement (.mov o) := by intro _ _ h; cases h; exact src_len _

theorem WordLength.movi : ∀ h t d x hi, WordLength.Statement (.movi h t d x hi) := by intro _ _ _ _ _ _ h; cases h; exact len1

theorem WordLength.lea : ∀ sh o, WordLength.Statement (.lea sh o) := by intro _ _ _ h; cases h; exact src_len _

theorem WordLength.iext : ∀ o, WordLength.Statement (.iext o) := by intro _ _ h; cases h; exact src_len _

theorem WordLength.shfl : ∀ mode o, WordLength.Statement (.shfl mode o) := by intro _ _ _ h; cases h; exact src_len _

theorem WordLength.prmt : ∀ o, WordLength.Statement (.prmt o) := by intro _ _ h; cases h; exact src_len _

theorem WordLength.pcmb : ∀ h lut d a b, WordLength.Statement (.pcmb h lut d a b) := by intro _ _ _ _ _ _ h; cases h; exact len0

theorem WordLength.fadd : ∀ rm o, WordLength.Statement (.fadd rm o) := by intro _ _ _ h; cases h; exact src_len _

theorem WordLength.fsub : ∀ rm o, WordLength.Statement (.fsub rm o) := by intro _ _ _ h; cases h; exact src_len _

theorem WordLength.fmul : ∀ rm o, WordLength.Statement (.fmul rm o) := by intro _ _ _ h; cases h; exact src_len _

theorem WordLength.ffma : ∀ rm o, WordLength.Statement (.ffma rm o) := by intro _ _ _ h; cases h; exact src_len _

theorem WordLength.fdot2 : ∀ rm o, WordLength.Statement (.fdot2 rm o) := by intro _ _ _ h; cases h; exact src_len _

theorem WordLength.fmin : ∀ o, WordLength.Statement (.fmin o) := by intro _ _ h; cases h; exact src_len _

theorem WordLength.fmax : ∀ o, WordLength.Statement (.fmax o) := by intro _ _ h; cases h; exact src_len _

theorem WordLength.fcmp : ∀ cc o, WordLength.Statement (.fcmp cc o) := by intro _ _ _ h; cases h; exact src_len _

theorem WordLength.fclass : ∀ o, WordLength.Statement (.fclass o) := by intro _ _ h; cases h; exact src_len _

theorem WordLength.frnd : ∀ rm o, WordLength.Statement (.frnd rm o) := by intro _ _ _ h; cases h; exact src_len _

theorem WordLength.frcp : ∀ rm o, WordLength.Statement (.frcp rm o) := by intro _ _ _ h; cases h; exact src_len _

theorem WordLength.frsq : ∀ rm o, WordLength.Statement (.frsq rm o) := by intro _ _ _ h; cases h; exact src_len _

theorem WordLength.fsqrt : ∀ rm o, WordLength.Statement (.fsqrt rm o) := by intro _ _ _ h; cases h; exact src_len _

theorem WordLength.fexp2 : ∀ rm o, WordLength.Statement (.fexp2 rm o) := by intro _ _ _ h; cases h; exact src_len _

theorem WordLength.flog2 : ∀ rm o, WordLength.Statement (.flog2 rm o) := by intro _ _ _ h; cases h; exact src_len _

theorem WordLength.fsin : ∀ o, WordLength.Statement (.fsin o) := by intro _ _ h; cases h; exact src_len _

theorem WordLength.fcos : ∀ o, WordLength.Statement (.fcos o) := by intro _ _ h; cases h; exact src_len _

theorem WordLength.fwelf : ∀ h d a x, WordLength.Statement (.fwelf h d a x) := by intro _ _ _ _ _ h; cases h; exact src_len _

theorem WordLength.fwmerge : ∀ h d a b, WordLength.Statement (.fwmerge h d a b) := by intro _ _ _ _ _ h; cases h; exact src_len _

theorem WordLength.fredw : ∀ op o, WordLength.Statement (.fredw op o) := by intro _ _ _ h; cases h; exact src_len _

theorem WordLength.cvt : ∀ o, WordLength.Statement (.cvt o) := by intro _ _ h; cases h; exact src_len _

theorem WordLength.cvtfi : ∀ o, WordLength.Statement (.cvtfi o) := by intro _ _ h; cases h; exact src_len _

theorem WordLength.cvtif : ∀ o, WordLength.Statement (.cvtif o) := by intro _ _ h; cases h; exact src_len _

theorem WordLength.qpack : ∀ h rm sat t grp d a, WordLength.Statement (.qpack h rm sat t grp d a) := by
  intro _ _ _ _ _ _ _ _ h; cases h; exact len2

theorem WordLength.qpackRows : ∀ h rm t d a e, WordLength.Statement (.qpackRows h rm t d a e) := by
  intro _ _ _ _ _ _ _ h; cases h; exact len2

theorem WordLength.qunpack : ∀ h t grp d a, WordLength.Statement (.qunpack h t grp d a) := by intro _ _ _ _ _ _ h; cases h; exact len2

theorem WordLength.qunpackRows : ∀ h t d a e r, WordLength.Statement (.qunpackRows h t d a e r) := by
  intro _ _ _ _ _ _ _ h; cases h; exact len2

theorem WordLength.qscale : ∀ o, WordLength.Statement (.qscale o) := by intro _ _ h; cases h; exact src_len _

theorem WordLength.qrow : ∀ o, WordLength.Statement (.qrow o) := by intro _ _ h; cases h; exact src_len _

theorem WordLength.qamax : ∀ h t d a n, WordLength.Statement (.qamax h t d a n) := by intro _ _ _ _ _ _ h; cases h; exact len0

theorem WordLength.qhdr : ∀ h d o, WordLength.Statement (.qhdr h d o) := by
  intro _ _ o _ h
  rcases o with _ | (_ | _) <;> cases h
  · exact src_len _
  · exact len0
  · exact len1

theorem WordLength.qesc : ∀ h t d a b, WordLength.Statement (.qesc h t d a b) := by intro _ _ _ _ _ _ h; cases h; exact src_len _

theorem WordLength.ld : ∀ m, WordLength.Statement (.ld m) := by intro _ _ h; cases h; exact offLen_ne _

theorem WordLength.st : ∀ m, WordLength.Statement (.st m) := by intro _ _ h; cases h; exact offLen_ne _

theorem WordLength.ldu : ∀ m, WordLength.Statement (.ldu m) := by intro _ _ h; cases h; exact offLen_ne _

theorem WordLength.ldl : ∀ m, WordLength.Statement (.ldl m) := by intro _ _ h; cases h; exact offLen_ne _

theorem WordLength.stl : ∀ m, WordLength.Statement (.stl m) := by intro _ _ h; cases h; exact offLen_ne _

theorem WordLength.gather : ∀ m, WordLength.Statement (.gather m) := by intro _ _ h; cases h; exact offLen_ne _

theorem WordLength.scatter : ∀ m, WordLength.Statement (.scatter m) := by intro _ _ h; cases h; exact offLen_ne _

theorem WordLength.pref : ∀ l1 m, WordLength.Statement (.pref l1 m) := by intro _ _ _ h; cases h; exact offLen_ne _

theorem WordLength.cflush : ∀ op m, WordLength.Statement (.cflush op m) := by intro _ _ _ h; cases h; exact offLen_ne _

theorem WordLength.ldk : ∀ m, WordLength.Statement (.ldk m) := by intro _ _ h; cases h; exact offLen_ne _

theorem WordLength.fence : ∀ h s k, WordLength.Statement (.fence h s k) := by intro _ _ _ _ h; cases h; exact len0

theorem WordLength.fencex : ∀ h s k pa pb, WordLength.Statement (.fencex h s k pa pb) := by intro _ _ _ _ _ _ h; cases h; exact len0

theorem WordLength.aliasfl : ∀ m, WordLength.Statement (.aliasfl m) := by intro _ _ h; cases h; exact offLen_ne _

theorem WordLength.tdecl : ∀ h t base pitch rows rowbytes mode, WordLength.Statement (.tdecl h t base pitch rows rowbytes mode) := by
  intro _ _ _ _ _ _ _ _ h; cases h; exact len2

theorem WordLength.tbind : ∀ h d t planar rows width, WordLength.Statement (.tbind h d t planar rows width) := by
  intro _ _ _ _ _ _ _ h; cases h; exact len2

theorem WordLength.twait : ∀ h t, WordLength.Statement (.twait h t) := by intro _ _ _ h; cases h; exact len0

theorem WordLength.tstat : ∀ h d t, WordLength.Statement (.tstat h d t) := by intro _ _ _ _ h; cases h; exact len0

theorem WordLength.tcopy : ∀ h t a b cw, WordLength.Statement (.tcopy h t a b cw) := by intro _ _ _ _ _ _ h; cases h; exact len2

theorem WordLength.tstore : ∀ h t a b cw, WordLength.Statement (.tstore h t a b cw) := by intro _ _ _ _ _ _ h; cases h; exact len2

theorem WordLength.tplane : ∀ h t ts b cw, WordLength.Statement (.tplane h t ts b cw) := by intro _ _ _ _ _ _ h; cases h; exact len2

theorem WordLength.trel : ∀ h t, WordLength.Statement (.trel h t) := by intro _ _ _ h; cases h; exact len0

theorem WordLength.cseal : ∀ h d, WordLength.Statement (.cseal h d) := by
  intro _ o _ h
  cases o <;> cases h <;> exact len0

theorem WordLength.cwait : ∀ h a, WordLength.Statement (.cwait h a) := by intro _ _ _ h; cases h; exact len0

theorem WordLength.cwaitTo : ∀ h a, WordLength.Statement (.cwaitTo h a) := by intro _ _ _ h; cases h; exact len0

theorem WordLength.binit : ∀ h b gen part, WordLength.Statement (.binit h b gen part) := by intro _ _ _ _ _ h; cases h; exact len2

theorem WordLength.bexpect : ∀ h b n nb arr, WordLength.Statement (.bexpect h b n nb arr) := by intro _ _ _ _ _ _ h; cases h; exact len2

theorem WordLength.barrive : ∀ h d b, WordLength.Statement (.barrive h d b) := by
  intro _ o _ _ h
  cases o <;> cases h <;> exact len0

theorem WordLength.bwait : ∀ h b gen, WordLength.Statement (.bwait h b gen) := by intro _ _ _ _ h; cases h; exact len0

theorem WordLength.ksig : ∀ h k, WordLength.Statement (.ksig h k) := by intro _ _ _ h; cases h; exact len0

theorem WordLength.kwait : ∀ h k, WordLength.Statement (.kwait h k) := by intro _ _ _ h; cases h; exact len0

theorem WordLength.mzero : ∀ h acc mb1 nb1 ch, WordLength.Statement (.mzero h acc mb1 nb1 ch) := by intro _ _ _ _ _ _ h; cases h; exact len2

theorem WordLength.mldc : ∀ h acc ts mb1 nb1 fmt row0 ch, WordLength.Statement (.mldc h acc ts mb1 nb1 fmt row0 ch) := by
  intro _ _ _ _ _ _ _ _ _ h; cases h; exact len2

theorem WordLength.mma : ∀ o, WordLength.Statement (.mma o) := by intro _ _ h; cases h; exact len2

theorem WordLength.mmap : ∀ o, WordLength.Statement (.mmap o) := by intro _ _ h; cases h; exact len2

theorem WordLength.mdrain : ∀ o, WordLength.Statement (.mdrain o) := by intro _ _ h; cases h; exact len2

theorem WordLength.mbaton : ∀ h a, WordLength.Statement (.mbaton h a) := by intro _ _ _ h; cases h; exact len0

theorem WordLength.mrel : ∀ h, WordLength.Statement (.mrel h) := by intro _ _ h; cases h; exact len0

theorem WordLength.mstat : ∀ h d, WordLength.Statement (.mstat h d) := by intro _ _ _ h; cases h; exact len0

theorem WordLength.mnmsel : ∀ h td ts of8 ch, WordLength.Statement (.mnmsel h td ts of8 ch) := by intro _ _ _ _ _ _ h; cases h; exact len2

theorem WordLength.txbegin : ∀ h early d, WordLength.Statement (.txbegin h early d) := by
  intro _ _ o _ h
  cases o <;> cases h <;> exact len0

theorem WordLength.txcommit : ∀ h, WordLength.Statement (.txcommit h) := by intro _ _ h; cases h; exact len0

theorem WordLength.txabortUp : ∀ h, WordLength.Statement (.txabortUp h) := by intro _ _ h; cases h; exact len0

theorem WordLength.txabortDrop : ∀ h, WordLength.Statement (.txabortDrop h) := by intro _ _ h; cases h; exact len0

theorem WordLength.txstat : ∀ h sel d, WordLength.Statement (.txstat h sel d) := by intro _ _ _ _ h; cases h; exact len0

theorem WordLength.txpredRd : ∀ h d k idx w, WordLength.Statement (.txpredRd h d k idx w) := by intro _ _ _ _ _ _ h; cases h; exact len0

theorem WordLength.txpredWr : ∀ h d k idx w, WordLength.Statement (.txpredWr h d k idx w) := by intro _ _ _ _ _ _ h; cases h; exact len0

theorem WordLength.txgate : ∀ h a e, WordLength.Statement (.txgate h a e) := by intro _ _ _ _ h; cases h; exact len0

theorem WordLength.atom : ∀ op o, WordLength.Statement (.atom op o) := by intro _ _ _ h; cases h; exact offLen_ne _

theorem WordLength.acas : ∀ o, WordLength.Statement (.acas o) := by intro _ _ h; cases h; exact offLen_ne _

theorem WordLength.red : ∀ op o, WordLength.Statement (.red op o) := by intro _ _ _ h; cases h; exact offLen_ne _

theorem WordLength.bar : ∀ h id, WordLength.Statement (.bar h id) := by intro _ _ _ h; cases h; exact len0

theorem WordLength.bars : ∀ h arr id n, WordLength.Statement (.bars h arr id n) := by intro _ _ _ _ _ h; cases h; exact len0

theorem WordLength.qpush : ∀ h cl q a, WordLength.Statement (.qpush h cl q a) := by
  intro _ _ _ o _ h
  cases o <;> cases h <;> exact len0

theorem WordLength.qpop : ∀ h cl ag q d, WordLength.Statement (.qpop h cl ag q d) := by
  intro _ _ _ _ o _ h
  cases o <;> cases h <;> exact len0

theorem WordLength.qtry : ∀ h cl q d o, WordLength.Statement (.qtry h cl q d o) := by
  intro _ _ _ _ o _ h
  rcases o with (_ | _) | ⟨_, _ | _⟩ <;> cases h <;> exact len0

theorem WordLength.qgrant : ∀ h cl q n, WordLength.Statement (.qgrant h cl q n) := by intro _ _ _ _ _ h; cases h; exact len0

theorem WordLength.qgrantCfg : ∀ h cl q w, WordLength.Statement (.qgrantCfg h cl q w) := by intro _ _ _ _ _ h; cases h; exact len0

theorem WordLength.dqpush : ∀ h s d hd e, WordLength.Statement (.dqpush h s d hd e) := by intro _ _ _ _ _ _ h; cases h; exact len0

theorem WordLength.dqpop : ∀ h s d hd, WordLength.Statement (.dqpop h s d hd) := by intro _ _ _ _ _ h; cases h; exact len0

theorem WordLength.dqsteal : ∀ h s d hd, WordLength.Statement (.dqsteal h s d hd) := by intro _ _ _ _ _ h; cases h; exact len0

theorem WordLength.reggive : ∀ h n, WordLength.Statement (.reggive h n) := by intro _ _ _ h; cases h; exact len0

theorem WordLength.regclaim : ∀ h n, WordLength.Statement (.regclaim h n) := by intro _ _ _ h; cases h; exact len0

theorem WordLength.gqrel : ∀ h a idx, WordLength.Statement (.gqrel h a idx) := by intro _ _ _ _ h; cases h; exact len0

theorem WordLength.launch : ∀ h a q same, WordLength.Statement (.launch h a q same) := by intro _ _ _ _ _ h; cases h; exact len2

theorem WordLength.task : ∀ h a, WordLength.Statement (.task h a) := by intro _ _ _ h; cases h; exact len2

theorem WordLength.taskc : ∀ h a inv, WordLength.Statement (.taskc h a inv) := by intro _ _ _ _ h; cases h; exact len2

theorem WordLength.joinc : ∀ h d, WordLength.Statement (.joinc h d) := by intro _ _ _ h; cases h; exact len0

theorem WordLength.qry : ∀ h d o, WordLength.Statement (.qry h d o) := by
  intro _ _ o _ h
  cases o <;> cases h <;> exact len0

theorem WordLength.detsync : ∀ h, WordLength.Statement (.detsync h) := by intro _ _ h; cases h; exact len0

theorem WordLength.taskqRd : ∀ h d q, WordLength.Statement (.taskqRd h d q) := by intro _ _ _ _ h; cases h; exact len0

theorem WordLength.taskqWr : ∀ h q t, WordLength.Statement (.taskqWr h q t) := by intro _ _ _ _ h; cases h; exact len0

theorem WordLength.sgfork : ∀ h obj ker bud g1 rmask nstr1, WordLength.Statement (.sgfork h obj ker bud g1 rmask nstr1) := by
  intro _ _ _ _ _ _ _ _ h; cases h; exact len2

theorem WordLength.sgreward : ∀ h d obj idx rew, WordLength.Statement (.sgreward h d obj idx rew) := by
  intro _ _ _ _ _ _ h; cases h; exact len0

theorem WordLength.sgwait : ∀ h d obj, WordLength.Statement (.sgwait h d obj) := by intro _ _ _ _ h; cases h; exact len0

theorem WordLength.sgcancel : ∀ h obj idx, WordLength.Statement (.sgcancel h obj idx) := by intro _ _ _ _ h; cases h; exact len0

theorem WordLength.sgclose : ∀ h obj, WordLength.Statement (.sgclose h obj) := by intro _ _ _ h; cases h; exact len0

theorem WordLength.sginfo : ∀ h sel d obj, WordLength.Statement (.sginfo h sel d obj) := by intro _ _ _ _ _ h; cases h; exact len0

theorem WordLength.dld : ∀ h d a c, WordLength.Statement (.dld h d a c) := by intro _ _ _ _ _ h; cases h; exact len0

theorem WordLength.dset : ∀ h sel a x c, WordLength.Statement (.dset h sel a x c) := by intro _ _ _ _ _ _ h; cases h; exact len0

theorem WordLength.dadd : ∀ h sel a x c, WordLength.Statement (.dadd h sel a x c) := by intro _ _ _ _ _ _ h; cases h; exact len0

theorem WordLength.dmerge : ∀ h d a b, WordLength.Statement (.dmerge h d a b) := by intro _ _ _ _ _ h; cases h; exact len0

theorem WordLength.stepadv : ∀ h d t, WordLength.Statement (.stepadv h d t) := by intro _ _ _ _ h; cases h; exact len0

theorem WordLength.rng : ∀ h d a b, WordLength.Statement (.rng h d a b) := by intro _ _ _ _ _ h; cases h; exact len0

theorem WordLength.rngf : ∀ h d a b, WordLength.Statement (.rngf h d a b) := by intro _ _ _ _ _ h; cases h; exact len0

theorem WordLength.rngmask : ∀ h d a b c, WordLength.Statement (.rngmask h d a b c) := by intro _ _ _ _ _ _ h; cases h; exact len0

theorem WordLength.rngmaskSt : ∀ h d a b c, WordLength.Statement (.rngmaskSt h d a b c) := by intro _ _ _ _ _ _ h; cases h; exact len0

theorem WordLength.trap : ∀ h code, WordLength.Statement (.trap h code) := by intro _ _ _ h; cases h; exact len0

theorem WordLength.tret : ∀ h act dest, WordLength.Statement (.tret h act dest) := by intro _ _ _ _ h; cases h; exact len0

theorem WordLength.csrr : ∀ h d n, WordLength.Statement (.csrr h d n) := by intro _ _ _ _ h; cases h; exact len1

theorem WordLength.csrw : ∀ h x n, WordLength.Statement (.csrw h x n) := by intro _ _ _ _ h; cases h; exact len1

theorem WordLength.csrx : ∀ h op d x n, WordLength.Statement (.csrx h op d x n) := by intro _ _ _ _ _ _ h; cases h; exact len1

theorem WordLength.brk : ∀ h code, WordLength.Statement (.brk h code) := by intro _ _ _ h; cases h; exact len0

theorem WordLength.tlbinv : ∀ h o, WordLength.Statement (.tlbinv h o) := by
  intro _ o _ h
  rcases o with ⟨_, _ | _⟩ | (_ | _) | _ <;> cases h <;> exact len0

theorem WordLength.halt : ∀ h code, WordLength.Statement (.halt h code) := by intro _ _ _ h; cases h; exact len0

theorem WordLength.xput : ∀ h a b c ep ben bar, WordLength.Statement (.xput h a b c ep ben bar) := by
  intro _ _ _ _ _ _ _ _ h; cases h; exact len2

theorem WordLength.xget : ∀ h a b c ep ben bar, WordLength.Statement (.xget h a b c ep ben bar) := by
  intro _ _ _ _ _ _ _ _ h; cases h; exact len2

theorem WordLength.xsig : ∀ h x b ep set, WordLength.Statement (.xsig h x b ep set) := by intro _ _ _ _ _ _ h; cases h; exact len2

theorem WordLength.xwait : ∀ h a x, WordLength.Statement (.xwait h a x) := by intro _ _ _ _ h; cases h; exact len2

theorem WordLength.deviceReset : WordLength.Statement .deviceReset := by intro _ h; cases h

theorem WordLength.dlDown : ∀ port, WordLength.Statement (.dlDown port) := by intro _ _ h; cases h

theorem WordLength.mgClaim : ∀ p0 p1, WordLength.Statement (.mgClaim p0 p1) := by intro _ _ _ h; cases h

theorem WordLength.handoverRelease : ∀ port, WordLength.Statement (.handoverRelease port) := by intro _ _ h; cases h

theorem WordLength.handoverPass : ∀ port target, WordLength.Statement (.handoverPass port target) := by intro _ _ _ h; cases h

theorem WordLength.doorbell : ∀ port ctx q p, WordLength.Statement (.doorbell port ctx q p) := by intro _ _ _ _ _ h; cases h

theorem WordLength.create : ∀ port ctx, WordLength.Statement (.create port ctx) := by intro _ _ _ h; cases h

theorem WordLength.run : ∀ port ctx, WordLength.Statement (.run port ctx) := by intro _ _ _ h; cases h

theorem WordLength.suspend : ∀ port ctx, WordLength.Statement (.suspend port ctx) := by intro _ _ _ h; cases h

theorem WordLength.reset : ∀ port ctx, WordLength.Statement (.reset port ctx) := by intro _ _ _ h; cases h

theorem WordLength.setq : ∀ port ctx, WordLength.Statement (.setq port ctx) := by intro _ _ _ h; cases h

theorem WordLength.setep : ∀ port ctx, WordLength.Statement (.setep port ctx) := by intro _ _ _ h; cases h

theorem WordLength.boot : ∀ port, WordLength.Statement (.boot port) := by intro _ _ h; cases h

theorem WordLength.attest : ∀ port, WordLength.Statement (.attest port) := by intro _ _ h; cases h

theorem WordLength.setcsr : ∀ port ctx, WordLength.Statement (.setcsr port ctx) := by intro _ _ _ h; cases h

theorem WordLength.mgRegisterWrite : ∀ port off x, WordLength.Statement (.mgRegisterWrite port off x) := by intro _ _ _ _ h; cases h

theorem WordLength.hostBar2Read : ∀ port off n, WordLength.Statement (.hostBar2Read port off n) := by intro _ _ _ _ h; cases h

theorem WordLength.hostBar2Write : ∀ port off bytes, WordLength.Statement (.hostBar2Write port off bytes) := by intro _ _ _ _ h; cases h

theorem WordLength.mctpQuery : ∀ reg, WordLength.Statement (.mctpQuery reg) := by intro _ _ h; cases h

theorem WordLength.clusterGroupRelease : WordLength.Statement .clusterGroupRelease := by intro _ h; cases h

theorem WordLength.ringRecordAccept : ∀ ctx q, WordLength.Statement (.ringRecordAccept ctx q) := by intro _ _ _ h; cases h

theorem WordLength.lotteryDraw : WordLength.Statement .lotteryDraw := by intro _ h; cases h

theorem WordLength.workgroupDispatch : ∀ grid, WordLength.Statement (.workgroupDispatch grid) := by intro _ _ h; cases h

theorem WordLength.dispatchOfferTimeout : ∀ grid, WordLength.Statement (.dispatchOfferTimeout grid) := by intro _ _ h; cases h

theorem WordLength.coresidentPlacement : ∀ grid, WordLength.Statement (.coresidentPlacement grid) := by intro _ _ h; cases h

theorem WordLength.taskDispatch : ∀ task, WordLength.Statement (.taskDispatch task) := by intro _ _ h; cases h

theorem WordLength.taskStagedStart : ∀ task, WordLength.Statement (.taskStagedStart task) := by intro _ _ h; cases h

theorem WordLength.conditionalPredicateRead : ∀ task, WordLength.Statement (.conditionalPredicateRead task) := by intro _ _ h; cases h

theorem WordLength.versionDrain : ∀ task, WordLength.Statement (.versionDrain task) := by intro _ _ h; cases h

theorem WordLength.versionDrainComplete : ∀ task, WordLength.Statement (.versionDrainComplete task) := by intro _ _ h; cases h

theorem WordLength.workgroupRetire : ∀ wg, WordLength.Statement (.workgroupRetire wg) := by intro _ _ h; cases h

theorem WordLength.endOfLaunch : ∀ grid, WordLength.Statement (.endOfLaunch grid) := by intro _ _ h; cases h

theorem WordLength.icacheMissFill : ∀ wave, WordLength.Statement (.icacheMissFill wave) := by intro _ _ h; cases h

theorem WordLength.quantumExpiry : ∀ wave, WordLength.Statement (.quantumExpiry wave) := by intro _ _ h; cases h

theorem WordLength.pageWalk : ∀ core ctx va, WordLength.Statement (.pageWalk core ctx va) := by intro _ _ _ _ h; cases h

theorem WordLength.loadDataArrival : ∀ load, WordLength.Statement (.loadDataArrival load) := by intro _ _ h; cases h

theorem WordLength.asuOperation : ∀ req, WordLength.Statement (.asuOperation req) := by intro _ _ h; cases h

theorem WordLength.asuReplyArrival : ∀ req, WordLength.Statement (.asuReplyArrival req) := by intro _ _ h; cases h

theorem WordLength.regclaimServe : ∀ core, WordLength.Statement (.regclaimServe core) := by intro _ _ h; cases h

theorem WordLength.queueWaiterServed : ∀ waiter, WordLength.Statement (.queueWaiterServed waiter) := by intro _ _ h; cases h

theorem WordLength.copyStart : ∀ copy, WordLength.Statement (.copyStart copy) := by intro _ _ h; cases h

theorem WordLength.copyComplete : ∀ copy, WordLength.Statement (.copyComplete copy) := by intro _ _ h; cases h

theorem WordLength.engineGrant : ∀ cluster, WordLength.Statement (.engineGrant cluster) := by intro _ _ h; cases h

theorem WordLength.passComplete : ∀ cluster, WordLength.Statement (.passComplete cluster) := by intro _ _ h; cases h

theorem WordLength.engineCommandComplete : ∀ entry, WordLength.Statement (.engineCommandComplete entry) := by intro _ _ h; cases h

theorem WordLength.txCommitProceed : ∀ wg, WordLength.Statement (.txCommitProceed wg) := by intro _ _ h; cases h

theorem WordLength.gateRead : ∀ wg, WordLength.Statement (.gateRead wg) := by intro _ _ h; cases h

theorem WordLength.releaseRound : ∀ ctx, WordLength.Statement (.releaseRound ctx) := by intro _ _ h; cases h

theorem WordLength.detqExpiry : ∀ wave, WordLength.Statement (.detqExpiry wave) := by intro _ _ h; cases h

theorem WordLength.waveDrop : ∀ wave, WordLength.Statement (.waveDrop wave) := by intro _ _ h; cases h

theorem WordLength.workgroupSave : ∀ wg, WordLength.Statement (.workgroupSave wg) := by intro _ _ h; cases h

theorem WordLength.workgroupResume : ∀ wg, WordLength.Statement (.workgroupResume wg) := by intro _ _ h; cases h

theorem WordLength.switchDeadlineExpiry : ∀ ctx, WordLength.Statement (.switchDeadlineExpiry ctx) := by intro _ _ h; cases h

theorem WordLength.haltResume : ∀ wave discard, WordLength.Statement (.haltResume wave discard) := by intro _ _ _ h; cases h

theorem WordLength.siblingBudgetExpiry : ∀ wg, WordLength.Statement (.siblingBudgetExpiry wg) := by intro _ _ h; cases h

theorem WordLength.sweepVisit : ∀ ctx, WordLength.Statement (.sweepVisit ctx) := by intro _ _ h; cases h

theorem WordLength.migrationStart : ∀ ctx va dst, WordLength.Statement (.migrationStart ctx va dst) := by intro _ _ _ _ h; cases h

theorem WordLength.migrationStall : ∀ mig, WordLength.Statement (.migrationStall mig) := by intro _ _ h; cases h

theorem WordLength.migrationSwitch : ∀ mig, WordLength.Statement (.migrationSwitch mig) := by intro _ _ h; cases h

theorem WordLength.refreshWindowStart : ∀ bank, WordLength.Statement (.refreshWindowStart bank) := by intro _ _ h; cases h

theorem WordLength.rfmIssue : ∀ bank row, WordLength.Statement (.rfmIssue bank row) := by intro _ _ _ h; cases h

theorem WordLength.xputAck : ∀ xfer, WordLength.Statement (.xputAck xfer) := by intro _ _ h; cases h

theorem WordLength.xgetDataArrival : ∀ xfer bytes, WordLength.Statement (.xgetDataArrival xfer bytes) := by intro _ _ _ h; cases h

theorem WordLength.xsigSend : ∀ xfer, WordLength.Statement (.xsigSend xfer) := by intro _ _ h; cases h

theorem WordLength.xoTransferFailure : ∀ xfer, WordLength.Statement (.xoTransferFailure xfer) := by intro _ _ h; cases h

theorem WordLength.incomingPeerWrite : ∀ ctx ep off bytes, WordLength.Statement (.incomingPeerWrite ctx ep off bytes) := by
  intro _ _ _ _ _ h; cases h

theorem WordLength.mgCommandComplete : WordLength.Statement .mgCommandComplete := by intro _ h; cases h

theorem WordLength.dlUp : ∀ port, WordLength.Statement (.dlUp port) := by intro _ _ h; cases h

theorem WordLength.busMasteringChange : ∀ port on, WordLength.Statement (.busMasteringChange port on) := by intro _ _ _ h; cases h

theorem WordLength.incomingPeerRead : ∀ ctx ep off n, WordLength.Statement (.incomingPeerRead ctx ep off n) := by intro _ _ _ _ _ h; cases h

end Sys2Proof.Laws
end

