-- ==== Sys2Proof/Laws/Wave.lean ====
section
/-! SUPPORT. Laws/Wave.lean: what the shared operations do to a wave: strands of a mask, paths, retiring, results. -/

namespace Sys2Proof.Machine

theorem mem_slotsOf (m : BitVec 32) (i : Nat) : i ∈ slotsOf m ↔ i < 32 ∧ m.getLsbD i = true := by simp [slotsOf]

/-- A strand after the strands of a mask have changed. -/
theorem Wave.strand_updStrands (w : Wave) (m : BitVec 32) (f : Nat → Strand → Strand) (i : Nat) :
    (w.updStrands m f).strand i = if i < 32 ∧ m.getLsbD i = true then f i (w.strand i) else w.strand i := by
  simp only [Wave.updStrands, Wave.strand, Tab.getD, Tab.get?_setAll_map, mem_slotsOf]
  split <;> rfl

/-! ## Updates of one part leave the others -/

@[simp] theorem Wave.strand_updPath (w : Wave) (b : Nat) (f : Path → Path) (i : Nat) : (w.updPath b f).strand i = w.strand i := rfl
@[simp] theorem Wave.strand_count (w : Wave) (b : Nat) (e : Edge) (i : Nat) : (w.count b e).strand i = w.strand i := rfl
@[simp] theorem Wave.strand_endTurn (w : Wave) (i : Nat) : w.endTurn.strand i = w.strand i := rfl
@[simp] theorem Wave.strand_setS (w : Wave) (n : Nat) (x : BitVec 64) (i : Nat) : (w.setS n x).strand i = w.strand i := rfl
@[simp] theorem Wave.sreg_updPath (w : Wave) (b : Nat) (f : Path → Path) (n : Nat) : (w.updPath b f).sreg n = w.sreg n := rfl
@[simp] theorem Wave.sreg_count (w : Wave) (b : Nat) (e : Edge) (n : Nat) : (w.count b e).sreg n = w.sreg n := rfl
@[simp] theorem Wave.sreg_endTurn (w : Wave) (n : Nat) : w.endTurn.sreg n = w.sreg n := rfl
@[simp] theorem Wave.sreg_updStrands (w : Wave) (m : BitVec 32) (f : Nat → Strand → Strand) (n : Nat) :
    (w.updStrands m f).sreg n = w.sreg n := rfl
@[simp] theorem Wave.paths_updStrands (w : Wave) (m : BitVec 32) (f : Nat → Strand → Strand) :
    (w.updStrands m f).paths = w.paths := rfl
@[simp] theorem Wave.icount_count (w : Wave) (b : Nat) (e : Edge) : (w.count b e).icount = w.icount + 1 := rfl
@[simp] theorem Wave.icount_updStrands (w : Wave) (m : BitVec 32) (f : Nat → Strand → Strand) :
    (w.updStrands m f).icount = w.icount := rfl

/-- A uniform register after a write. -/
theorem Wave.sreg_setS (w : Wave) (n k : Nat) (x : BitVec 64) : (w.setS n x).sreg k = if k = n then x else w.sreg k := by
  simp [Wave.setS, Wave.sreg, Tab.getD_set]

/-! ## Registers of a strand -/

/-- A window register after a write. -/
theorem Strand.v32_setV (st : Strand) (n k : Nat) (x : BitVec 32) : (st.setV n x).v32 k = if k = n then x else st.v32 k := by
  simp [Strand.setV, Strand.v32, Tab.getD_set]

/-- A window register after a pair has been written. -/
theorem Strand.v32_setV64 (st : Strand) (n k : Nat) (x : BitVec 64) :
    (st.setV64 n x).v32 k =
      if k = n + 1 then x.extractLsb' 32 32 else if k = n then x.extractLsb' 0 32 else st.v32 k := by
  simp [Strand.setV64, Strand.v32_setV]

/-- A window register after a result has been written. -/
theorem Strand.v32_setD (st : Strand) (w64 : Bool) (n k : Nat) (x : BitVec 64) :
    (st.setD w64 n x).v32 k =
      if w64 = true ∧ k = n + 1 then x.extractLsb' 32 32 else if k = n then x.extractLsb' 0 32 else st.v32 k := by
  cases w64 <;> simp [Strand.setD, Strand.v32_setV, Strand.v32_setV64]

/-- A predicate after a write; p0 stays. -/
theorem Strand.pred_setP (st : Strand) (p : BitVec 3) (b : Bool) (n : Nat) :
    (st.setP p b).pred.getLsbD n = if n = p.toNat ∧ p ≠ 0 then b else st.pred.getLsbD n := by
  have aux : ∀ (p : BitVec 3) (b : Bool) (w : BitVec 16) (i : Fin 16),
      (if b then w ||| BitVec.ofNat 16 (2 ^ p.toNat) else w &&& ~~~BitVec.ofNat 16 (2 ^ p.toNat)).getLsbD i.val =
        if i.val = p.toNat then b else w.getLsbD i.val := by
    intro p b w i
    have hp : ∀ (p : BitVec 3) (i : Fin 16), (BitVec.ofNat 16 (2 ^ p.toNat)).getLsbD i.val = decide (i.val = p.toNat) := by
      decide
    cases b
    · simp only [Bool.false_eq_true, if_false, BitVec.getLsbD_and, BitVec.getLsbD_not, hp, i.isLt, decide_true, Bool.true_and]
      by_cases h : i.val = p.toNat <;> simp [h]
    · simp only [if_true, BitVec.getLsbD_or, hp]
      by_cases h : i.val = p.toNat <;> simp [h]
  by_cases h0 : p = 0
  · simp [Strand.setP, h0]
  · simp only [Strand.setP, beq_iff_eq, h0, if_false, ne_eq, not_false_iff, and_true]
    by_cases hn : n < 16
    · exact aux p b st.pred ⟨n, hn⟩
    · have h3 : p.toNat < 8 := p.isLt
      have : n ≠ p.toNat := by omega
      simp only [this, if_false]
      rw [BitVec.getLsbD_of_ge _ _ (by omega), BitVec.getLsbD_of_ge _ _ (by omega)]

/-! ## Retiring -/

/-- A strand after its path has retired an instruction (R54, R39). -/
theorem Wave.strand_retire (w : Wave) (c : Issue) (f : Nat → Strand → Strand) (i : Nat) :
    (w.retire c f).strand i =
      if i < 32 ∧ c.mask.getLsbD i = true then (f i (w.strand i)).goOn c.next else w.strand i := by
  simp [Wave.retire, Wave.strand_updStrands]

/-- A strand after the latches of those outside the path have shifted (R38, R57). -/
theorem Wave.strand_shiftOut (w w0 : Wave) (m : BitVec 32) (nwb : Bool) (d : Dst) (w64 : Bool) (i : Nat) :
    (w.shiftOut w0 m nwb d w64).strand i =
      if i < 32 ∧ w0.liveMask.getLsbD i = true ∧ m.getLsbD i = false then
        (w.strand i).shift (keptLatch w0 nwb d w64 (w.strand i)) else w.strand i := by
  simp only [Wave.shiftOut, Wave.strand_updStrands, BitVec.getLsbD_and, BitVec.getLsbD_not]
  by_cases h : i < 32
  · cases m.getLsbD i <;> simp [h]
  · simp [h]

@[simp] theorem Wave.sreg_shiftOut (w w0 : Wave) (m : BitVec 32) (nwb : Bool) (d : Dst) (w64 : Bool) (n : Nat) :
    (w.shiftOut w0 m nwb d w64).sreg n = w.sreg n := rfl

/-- The wave after its path has retired an instruction, but for the strands. -/
theorem Wave.retire_eq (w : Wave) (c : Issue) (f : Nat → Strand → Strand) :
    w.retire c f =
      { w with
        strands := (w.retire c f).strands
        paths := w.paths.map fun p =>
          if p.born == c.path then { p with wait := .none, edge := edgeAt c.next, turn := p.turn + 1 } else p
        icount := w.icount + 1
        roundN := w.roundN + 1 } := rfl

/-! ## Results -/

/-- What a strand of the path is after an instruction that produces a latch value (R38). -/
def strandAfter (w : Wave) (e : BitVec 32) (nwb : Bool) (d : Dst) (w64 : Bool) (f : Nat → BitVec 64) (i : Nat) (st : Strand) :
    Strand :=
  if d.s then st.push (if e = 0 then keptLatch w nwb d w64 st else latchVal w64 (f ((slotsOf e).headD 0)))
  else if e.getLsbD i then (if nwb then st else st.setD w64 d.n.toNat (f i)).push (latchVal w64 (f i))
  else st.push (keptLatch w nwb d w64 st)

/-- What a live strand outside the path is after it (R57): its latches have shifted. -/
def strandOut (w : Wave) (nwb : Bool) (d : Dst) (w64 : Bool) (st : Strand) : Strand := st.shift (keptLatch w nwb d w64 st)

/-- A strand after an instruction that produces a latch value (R38, R57). -/
theorem Wave.strand_retireData (w : Wave) (c : Issue) (e : BitVec 32) (nwb : Bool) (d : Dst) (w64 sgn : Bool)
    (f : Nat → BitVec 64) (i : Nat) :
    (w.retireData c e nwb d w64 sgn f).strand i =
      if i < 32 ∧ c.mask.getLsbD i = true then (strandAfter w e nwb d w64 f i (w.strand i)).goOn c.next
      else if i < 32 ∧ w.liveMask.getLsbD i = true then strandOut w nwb d w64 (w.strand i)
      else w.strand i := by
  unfold Wave.retireData strandAfter strandOut
  rw [Wave.strand_shiftOut]
  by_cases hd : d.s = true
  · by_cases he : e = 0
    · simp only [hd, he, if_true, beq_self_eq_true, Wave.strand_retire]
      by_cases hi : i < 32 <;> cases c.mask.getLsbD i <;> simp [hi]
    · have he' : (e == 0) = false := beq_eq_false_iff_ne.mpr he
      simp only [hd, he, he', if_true, if_false, Bool.false_eq_true]
      cases nwb <;> simp only [Bool.false_eq_true, if_true, if_false, Wave.strand_setS, Wave.strand_retire] <;>
        by_cases hi : i < 32 <;> cases c.mask.getLsbD i <;> simp [hi]
  · simp only [hd, if_false, Wave.strand_retire, Bool.false_eq_true]
    by_cases hi : i < 32 <;> cases c.mask.getLsbD i <;> simp [hi]

/-- A uniform register after an instruction that produces a latch value (R32). -/
theorem Wave.sreg_retireData (w : Wave) (c : Issue) (e : BitVec 32) (nwb : Bool) (d : Dst) (w64 sgn : Bool)
    (f : Nat → BitVec 64) (n : Nat) :
    (w.retireData c e nwb d w64 sgn f).sreg n =
      if d.s = true ∧ nwb = false ∧ e ≠ 0 ∧ n = d.n.toNat then sVal w64 sgn (f ((slotsOf e).headD 0)) else w.sreg n := by
  unfold Wave.retireData
  rw [Wave.sreg_shiftOut]
  by_cases hd : d.s = true
  · by_cases he : e = 0
    · simp only [hd, he, if_true, beq_self_eq_true, ne_eq, not_true_eq_false, false_and, and_false, if_false]; rfl
    · have he' : (e == 0) = false := beq_eq_false_iff_ne.mpr he
      simp only [hd, he, he', if_true, if_false, Bool.false_eq_true, ne_eq, not_false_iff, true_and]
      cases nwb
      · simp only [Bool.false_eq_true, if_false, Wave.sreg_setS, true_and]; rfl
      · simp only [if_true, Bool.true_eq_false, false_and, if_false]; rfl
  · simp only [hd]; rfl

/-- The wave after an instruction that produces a latch value, but for strands and uniform registers. -/
theorem Wave.retireData_eq (w : Wave) (c : Issue) (e : BitVec 32) (nwb : Bool) (d : Dst) (w64 sgn : Bool) (f : Nat → BitVec 64) :
    w.retireData c e nwb d w64 sgn f =
      { w with
        strands := (w.retireData c e nwb d w64 sgn f).strands
        s := (w.retireData c e nwb d w64 sgn f).s
        paths := w.paths.map fun p =>
          if p.born == c.path then { p with wait := .none, edge := edgeAt c.next, turn := p.turn + 1 } else p
        icount := w.icount + 1
        roundN := w.roundN + 1 } := by
  unfold Wave.retireData Wave.shiftOut
  split
  · split
    · rfl
    · cases nwb <;> rfl
  · rfl

/-- A strand that writes a result changes its window registers only. -/
theorem Strand.setD_eq (st : Strand) (w64 : Bool) (n : Nat) (x : BitVec 64) :
    st.setD w64 n x = { st with v := (st.setD w64 n x).v } := by cases w64 <;> rfl

end Sys2Proof.Machine
end

