-- ==== Sys2Proof/Laws/State.lean ====
section
/-! SUPPORT. Laws/State.lean: what an update of one record leaves of the state, field by field, and what `perform` and `answer`
do. -/

namespace Sys2Proof.Machine

/-- The wave that is there. -/
theorem State.waveD_of_get? {s : State} {u : Nat} {w : Wave} (h : s.waves.get? u = some w) : s.waveD u = w := by
  simp [State.waveD, Tab.getD, h]

/-- Changing a wave that is there. -/
theorem State.updWave_eq {s : State} {u : Nat} {w : Wave} (h : s.waves.get? u = some w) (f : Wave → Wave) :
    s.updWave u f = { s with waves := s.waves.set u (f w) } := by simp [State.updWave, Tab.upd_eq_set f h]

/-- Changing the issuing wave. -/
theorem State.put_eq {s : State} {c : Issue} {w : Wave} (h : s.waves.get? c.wave = some w) (f : Wave → Wave) :
    s.put c f = { s with waves := s.waves.set c.wave (f w) } := State.updWave_eq h f

/-- A meaning runs on the issue in progress when its latch sources are valid (R39, R40). -/
theorem perform_ok {s : State} {c : Issue} {w : Wave} {srcs : List Src} (hc : s.cur = some c)
    (hw : s.waves.get? c.wave = some w) (hl : latchOk w c.mask srcs = true) (h : Hd)
    (k : Issue → Wave → BitVec 32 → Ans) :
    perform s h srcs k = .next (s.answer c (k c w (w.enabled c.mask h))) := by
  simp [perform, hc, State.waveD_of_get? hw, hl]

/-- A meaning with no latch source runs on every issue. -/
theorem perform_nil {s : State} {c : Issue} {w : Wave} (hc : s.cur = some c) (hw : s.waves.get? c.wave = some w) (h : Hd)
    (k : Issue → Wave → BitVec 32 → Ans) :
    perform s h [] k = .next (s.answer c (k c w (w.enabled c.mask h))) := perform_ok hc hw rfl h k

/-- An instruction of a wave always answers a next state: traps and waits are next states. -/
theorem perform_next {s : State} {c : Issue} (hc : s.cur = some c) (h : Hd) (srcs : List Src)
    (k : Issue → Wave → BitVec 32 → Ans) : ∃ t, perform s h srcs k = .next t := by
  simp only [perform, hc]
  split <;> exact ⟨_, rfl⟩

@[simp] theorem State.answer_next (s t : State) (c : Issue) :
    s.answer c (.next t) = { t with cur := none, tick := t.tick + 1 } := rfl

@[simp] theorem State.answer_trap (s : State) (c : Issue) (t : Trap) :
    s.answer c (.trap t) = { s.takeTrap c t .precise with cur := none, tick := s.tick + 1 } := rfl

@[simp] theorem State.answer_wait (s : State) (c : Issue) (b : Bool) :
    s.answer c (.wait b) = { s.waitAt c b with cur := none } := rfl

@[simp] theorem State.answer_waitOpen (s : State) (c : Issue) :
    s.answer c .waitOpen = { (s.waitAt c false).updWave c.wave fun w =>
      w.updPath c.path fun p => { p with edge := if p.edge == .mid then .event else p.edge } with cur := none } := rfl

@[simp] theorem State.answer_stage (s : State) (c : Issue) :
    s.answer c .stage = { s.stageAt c with cur := none, tick := s.tick + 1 } := rfl

@[simp] theorem guardTrap_none (k : Ans) : guardTrap none k = k := rfl
@[simp] theorem guardTrap_some (t : Trap) (k : Ans) : guardTrap (some t) k = .trap t := rfl
@[simp] theorem andThen_ok {α : Type} (a : α) (k : α → Ans) : andThen (.ok a) k = k a := rfl
@[simp] theorem andThen_error {α : Type} (t : Trap) (k : α → Ans) : andThen (.error t) k = .trap t := rfl

/-! ## One lemma per field and update -/

@[simp] theorem State.agenda_updWave (s : State) (u : Nat) (f : Wave → Wave) : (s.updWave u f).agenda = s.agenda := rfl
@[simp] theorem State.cur_updWave (s : State) (u : Nat) (f : Wave → Wave) : (s.updWave u f).cur = s.cur := rfl
@[simp] theorem State.tick_updWave (s : State) (u : Nat) (f : Wave → Wave) : (s.updWave u f).tick = s.tick := rfl
@[simp] theorem State.free_updWave (s : State) (u : Nat) (f : Wave → Wave) : (s.updWave u f).free = s.free := rfl
@[simp] theorem State.fresh_updWave (s : State) (u : Nat) (f : Wave → Wave) : (s.updWave u f).fresh = s.fresh := rfl
@[simp] theorem State.clk_updWave (s : State) (u : Nat) (f : Wave → Wave) : (s.updWave u f).clk = s.clk := rfl
@[simp] theorem State.hub_updWave (s : State) (u : Nat) (f : Wave → Wave) : (s.updWave u f).hub = s.hub := rfl
@[simp] theorem State.mem_updWave (s : State) (u : Nat) (f : Wave → Wave) : (s.updWave u f).mem = s.mem := rfl
@[simp] theorem State.ctxs_updWave (s : State) (u : Nat) (f : Wave → Wave) : (s.updWave u f).ctxs = s.ctxs := rfl
@[simp] theorem State.grids_updWave (s : State) (u : Nat) (f : Wave → Wave) : (s.updWave u f).grids = s.grids := rfl
@[simp] theorem State.wgs_updWave (s : State) (u : Nat) (f : Wave → Wave) : (s.updWave u f).wgs = s.wgs := rfl
@[simp] theorem State.deps_updWave (s : State) (u : Nat) (f : Wave → Wave) : (s.updWave u f).deps = s.deps := rfl
@[simp] theorem State.tiles_updWave (s : State) (u : Nat) (f : Wave → Wave) : (s.updWave u f).tiles = s.tiles := rfl
@[simp] theorem State.lanes_updWave (s : State) (u : Nat) (f : Wave → Wave) : (s.updWave u f).lanes = s.lanes := rfl
@[simp] theorem State.copies_updWave (s : State) (u : Nat) (f : Wave → Wave) : (s.updWave u f).copies = s.copies := rfl
@[simp] theorem State.blocks_updWave (s : State) (u : Nat) (f : Wave → Wave) : (s.updWave u f).blocks = s.blocks := rfl
@[simp] theorem State.engines_updWave (s : State) (u : Nat) (f : Wave → Wave) : (s.updWave u f).engines = s.engines := rfl
@[simp] theorem State.entries_updWave (s : State) (u : Nat) (f : Wave → Wave) : (s.updWave u f).entries = s.entries := rfl
@[simp] theorem State.reqs_updWave (s : State) (u : Nat) (f : Wave → Wave) : (s.updWave u f).reqs = s.reqs := rfl
@[simp] theorem State.loads_updWave (s : State) (u : Nat) (f : Wave → Wave) : (s.updWave u f).loads = s.loads := rfl
@[simp] theorem State.waiters_updWave (s : State) (u : Nat) (f : Wave → Wave) : (s.updWave u f).waiters = s.waiters := rfl
@[simp] theorem State.claims_updWave (s : State) (u : Nat) (f : Wave → Wave) : (s.updWave u f).claims = s.claims := rfl
@[simp] theorem State.cqueues_updWave (s : State) (u : Nat) (f : Wave → Wave) : (s.updWave u f).cqueues = s.cqueues := rfl
@[simp] theorem State.hist_updWave (s : State) (u : Nat) (f : Wave → Wave) : (s.updWave u f).hist = s.hist := rfl
@[simp] theorem State.xfers_updWave (s : State) (u : Nat) (f : Wave → Wave) : (s.updWave u f).xfers = s.xfers := rfl
@[simp] theorem State.agenda_updWg (s : State) (u : Nat) (f : Wg → Wg) : (s.updWg u f).agenda = s.agenda := rfl
@[simp] theorem State.cur_updWg (s : State) (u : Nat) (f : Wg → Wg) : (s.updWg u f).cur = s.cur := rfl
@[simp] theorem State.tick_updWg (s : State) (u : Nat) (f : Wg → Wg) : (s.updWg u f).tick = s.tick := rfl
@[simp] theorem State.free_updWg (s : State) (u : Nat) (f : Wg → Wg) : (s.updWg u f).free = s.free := rfl
@[simp] theorem State.fresh_updWg (s : State) (u : Nat) (f : Wg → Wg) : (s.updWg u f).fresh = s.fresh := rfl
@[simp] theorem State.clk_updWg (s : State) (u : Nat) (f : Wg → Wg) : (s.updWg u f).clk = s.clk := rfl
@[simp] theorem State.hub_updWg (s : State) (u : Nat) (f : Wg → Wg) : (s.updWg u f).hub = s.hub := rfl
@[simp] theorem State.mem_updWg (s : State) (u : Nat) (f : Wg → Wg) : (s.updWg u f).mem = s.mem := rfl
@[simp] theorem State.ctxs_updWg (s : State) (u : Nat) (f : Wg → Wg) : (s.updWg u f).ctxs = s.ctxs := rfl
@[simp] theorem State.grids_updWg (s : State) (u : Nat) (f : Wg → Wg) : (s.updWg u f).grids = s.grids := rfl
@[simp] theorem State.waves_updWg (s : State) (u : Nat) (f : Wg → Wg) : (s.updWg u f).waves = s.waves := rfl
@[simp] theorem State.deps_updWg (s : State) (u : Nat) (f : Wg → Wg) : (s.updWg u f).deps = s.deps := rfl
@[simp] theorem State.tiles_updWg (s : State) (u : Nat) (f : Wg → Wg) : (s.updWg u f).tiles = s.tiles := rfl
@[simp] theorem State.lanes_updWg (s : State) (u : Nat) (f : Wg → Wg) : (s.updWg u f).lanes = s.lanes := rfl
@[simp] theorem State.copies_updWg (s : State) (u : Nat) (f : Wg → Wg) : (s.updWg u f).copies = s.copies := rfl
@[simp] theorem State.blocks_updWg (s : State) (u : Nat) (f : Wg → Wg) : (s.updWg u f).blocks = s.blocks := rfl
@[simp] theorem State.engines_updWg (s : State) (u : Nat) (f : Wg → Wg) : (s.updWg u f).engines = s.engines := rfl
@[simp] theorem State.entries_updWg (s : State) (u : Nat) (f : Wg → Wg) : (s.updWg u f).entries = s.entries := rfl
@[simp] theorem State.reqs_updWg (s : State) (u : Nat) (f : Wg → Wg) : (s.updWg u f).reqs = s.reqs := rfl
@[simp] theorem State.loads_updWg (s : State) (u : Nat) (f : Wg → Wg) : (s.updWg u f).loads = s.loads := rfl
@[simp] theorem State.waiters_updWg (s : State) (u : Nat) (f : Wg → Wg) : (s.updWg u f).waiters = s.waiters := rfl
@[simp] theorem State.claims_updWg (s : State) (u : Nat) (f : Wg → Wg) : (s.updWg u f).claims = s.claims := rfl
@[simp] theorem State.cqueues_updWg (s : State) (u : Nat) (f : Wg → Wg) : (s.updWg u f).cqueues = s.cqueues := rfl
@[simp] theorem State.hist_updWg (s : State) (u : Nat) (f : Wg → Wg) : (s.updWg u f).hist = s.hist := rfl
@[simp] theorem State.xfers_updWg (s : State) (u : Nat) (f : Wg → Wg) : (s.updWg u f).xfers = s.xfers := rfl
@[simp] theorem State.agenda_updGrid (s : State) (u : Nat) (f : Grid → Grid) : (s.updGrid u f).agenda = s.agenda := rfl
@[simp] theorem State.cur_updGrid (s : State) (u : Nat) (f : Grid → Grid) : (s.updGrid u f).cur = s.cur := rfl
@[simp] theorem State.tick_updGrid (s : State) (u : Nat) (f : Grid → Grid) : (s.updGrid u f).tick = s.tick := rfl
@[simp] theorem State.free_updGrid (s : State) (u : Nat) (f : Grid → Grid) : (s.updGrid u f).free = s.free := rfl
@[simp] theorem State.fresh_updGrid (s : State) (u : Nat) (f : Grid → Grid) : (s.updGrid u f).fresh = s.fresh := rfl
@[simp] theorem State.clk_updGrid (s : State) (u : Nat) (f : Grid → Grid) : (s.updGrid u f).clk = s.clk := rfl
@[simp] theorem State.hub_updGrid (s : State) (u : Nat) (f : Grid → Grid) : (s.updGrid u f).hub = s.hub := rfl
@[simp] theorem State.mem_updGrid (s : State) (u : Nat) (f : Grid → Grid) : (s.updGrid u f).mem = s.mem := rfl
@[simp] theorem State.ctxs_updGrid (s : State) (u : Nat) (f : Grid → Grid) : (s.updGrid u f).ctxs = s.ctxs := rfl
@[simp] theorem State.wgs_updGrid (s : State) (u : Nat) (f : Grid → Grid) : (s.updGrid u f).wgs = s.wgs := rfl
@[simp] theorem State.waves_updGrid (s : State) (u : Nat) (f : Grid → Grid) : (s.updGrid u f).waves = s.waves := rfl
@[simp] theorem State.deps_updGrid (s : State) (u : Nat) (f : Grid → Grid) : (s.updGrid u f).deps = s.deps := rfl
@[simp] theorem State.tiles_updGrid (s : State) (u : Nat) (f : Grid → Grid) : (s.updGrid u f).tiles = s.tiles := rfl
@[simp] theorem State.lanes_updGrid (s : State) (u : Nat) (f : Grid → Grid) : (s.updGrid u f).lanes = s.lanes := rfl
@[simp] theorem State.copies_updGrid (s : State) (u : Nat) (f : Grid → Grid) : (s.updGrid u f).copies = s.copies := rfl
@[simp] theorem State.blocks_updGrid (s : State) (u : Nat) (f : Grid → Grid) : (s.updGrid u f).blocks = s.blocks := rfl
@[simp] theorem State.engines_updGrid (s : State) (u : Nat) (f : Grid → Grid) : (s.updGrid u f).engines = s.engines := rfl
@[simp] theorem State.entries_updGrid (s : State) (u : Nat) (f : Grid → Grid) : (s.updGrid u f).entries = s.entries := rfl
@[simp] theorem State.reqs_updGrid (s : State) (u : Nat) (f : Grid → Grid) : (s.updGrid u f).reqs = s.reqs := rfl
@[simp] theorem State.loads_updGrid (s : State) (u : Nat) (f : Grid → Grid) : (s.updGrid u f).loads = s.loads := rfl
@[simp] theorem State.waiters_updGrid (s : State) (u : Nat) (f : Grid → Grid) : (s.updGrid u f).waiters = s.waiters := rfl
@[simp] theorem State.claims_updGrid (s : State) (u : Nat) (f : Grid → Grid) : (s.updGrid u f).claims = s.claims := rfl
@[simp] theorem State.cqueues_updGrid (s : State) (u : Nat) (f : Grid → Grid) : (s.updGrid u f).cqueues = s.cqueues := rfl
@[simp] theorem State.hist_updGrid (s : State) (u : Nat) (f : Grid → Grid) : (s.updGrid u f).hist = s.hist := rfl
@[simp] theorem State.xfers_updGrid (s : State) (u : Nat) (f : Grid → Grid) : (s.updGrid u f).xfers = s.xfers := rfl
@[simp] theorem State.agenda_updCtx (s : State) (u : Nat) (f : Ctx → Ctx) : (s.updCtx u f).agenda = s.agenda := rfl
@[simp] theorem State.cur_updCtx (s : State) (u : Nat) (f : Ctx → Ctx) : (s.updCtx u f).cur = s.cur := rfl
@[simp] theorem State.tick_updCtx (s : State) (u : Nat) (f : Ctx → Ctx) : (s.updCtx u f).tick = s.tick := rfl
@[simp] theorem State.free_updCtx (s : State) (u : Nat) (f : Ctx → Ctx) : (s.updCtx u f).free = s.free := rfl
@[simp] theorem State.fresh_updCtx (s : State) (u : Nat) (f : Ctx → Ctx) : (s.updCtx u f).fresh = s.fresh := rfl
@[simp] theorem State.clk_updCtx (s : State) (u : Nat) (f : Ctx → Ctx) : (s.updCtx u f).clk = s.clk := rfl
@[simp] theorem State.hub_updCtx (s : State) (u : Nat) (f : Ctx → Ctx) : (s.updCtx u f).hub = s.hub := rfl
@[simp] theorem State.mem_updCtx (s : State) (u : Nat) (f : Ctx → Ctx) : (s.updCtx u f).mem = s.mem := rfl
@[simp] theorem State.grids_updCtx (s : State) (u : Nat) (f : Ctx → Ctx) : (s.updCtx u f).grids = s.grids := rfl
@[simp] theorem State.wgs_updCtx (s : State) (u : Nat) (f : Ctx → Ctx) : (s.updCtx u f).wgs = s.wgs := rfl
@[simp] theorem State.waves_updCtx (s : State) (u : Nat) (f : Ctx → Ctx) : (s.updCtx u f).waves = s.waves := rfl
@[simp] theorem State.deps_updCtx (s : State) (u : Nat) (f : Ctx → Ctx) : (s.updCtx u f).deps = s.deps := rfl
@[simp] theorem State.tiles_updCtx (s : State) (u : Nat) (f : Ctx → Ctx) : (s.updCtx u f).tiles = s.tiles := rfl
@[simp] theorem State.lanes_updCtx (s : State) (u : Nat) (f : Ctx → Ctx) : (s.updCtx u f).lanes = s.lanes := rfl
@[simp] theorem State.copies_updCtx (s : State) (u : Nat) (f : Ctx → Ctx) : (s.updCtx u f).copies = s.copies := rfl
@[simp] theorem State.blocks_updCtx (s : State) (u : Nat) (f : Ctx → Ctx) : (s.updCtx u f).blocks = s.blocks := rfl
@[simp] theorem State.engines_updCtx (s : State) (u : Nat) (f : Ctx → Ctx) : (s.updCtx u f).engines = s.engines := rfl
@[simp] theorem State.entries_updCtx (s : State) (u : Nat) (f : Ctx → Ctx) : (s.updCtx u f).entries = s.entries := rfl
@[simp] theorem State.reqs_updCtx (s : State) (u : Nat) (f : Ctx → Ctx) : (s.updCtx u f).reqs = s.reqs := rfl
@[simp] theorem State.loads_updCtx (s : State) (u : Nat) (f : Ctx → Ctx) : (s.updCtx u f).loads = s.loads := rfl
@[simp] theorem State.waiters_updCtx (s : State) (u : Nat) (f : Ctx → Ctx) : (s.updCtx u f).waiters = s.waiters := rfl
@[simp] theorem State.claims_updCtx (s : State) (u : Nat) (f : Ctx → Ctx) : (s.updCtx u f).claims = s.claims := rfl
@[simp] theorem State.cqueues_updCtx (s : State) (u : Nat) (f : Ctx → Ctx) : (s.updCtx u f).cqueues = s.cqueues := rfl
@[simp] theorem State.hist_updCtx (s : State) (u : Nat) (f : Ctx → Ctx) : (s.updCtx u f).hist = s.hist := rfl
@[simp] theorem State.xfers_updCtx (s : State) (u : Nat) (f : Ctx → Ctx) : (s.updCtx u f).xfers = s.xfers := rfl
@[simp] theorem State.agenda_updTile (s : State) (u : Nat) (f : Tile → Tile) : (s.updTile u f).agenda = s.agenda := rfl
@[simp] theorem State.cur_updTile (s : State) (u : Nat) (f : Tile → Tile) : (s.updTile u f).cur = s.cur := rfl
@[simp] theorem State.tick_updTile (s : State) (u : Nat) (f : Tile → Tile) : (s.updTile u f).tick = s.tick := rfl
@[simp] theorem State.free_updTile (s : State) (u : Nat) (f : Tile → Tile) : (s.updTile u f).free = s.free := rfl
@[simp] theorem State.fresh_updTile (s : State) (u : Nat) (f : Tile → Tile) : (s.updTile u f).fresh = s.fresh := rfl
@[simp] theorem State.clk_updTile (s : State) (u : Nat) (f : Tile → Tile) : (s.updTile u f).clk = s.clk := rfl
@[simp] theorem State.hub_updTile (s : State) (u : Nat) (f : Tile → Tile) : (s.updTile u f).hub = s.hub := rfl
@[simp] theorem State.mem_updTile (s : State) (u : Nat) (f : Tile → Tile) : (s.updTile u f).mem = s.mem := rfl
@[simp] theorem State.ctxs_updTile (s : State) (u : Nat) (f : Tile → Tile) : (s.updTile u f).ctxs = s.ctxs := rfl
@[simp] theorem State.grids_updTile (s : State) (u : Nat) (f : Tile → Tile) : (s.updTile u f).grids = s.grids := rfl
@[simp] theorem State.wgs_updTile (s : State) (u : Nat) (f : Tile → Tile) : (s.updTile u f).wgs = s.wgs := rfl
@[simp] theorem State.waves_updTile (s : State) (u : Nat) (f : Tile → Tile) : (s.updTile u f).waves = s.waves := rfl
@[simp] theorem State.deps_updTile (s : State) (u : Nat) (f : Tile → Tile) : (s.updTile u f).deps = s.deps := rfl
@[simp] theorem State.lanes_updTile (s : State) (u : Nat) (f : Tile → Tile) : (s.updTile u f).lanes = s.lanes := rfl
@[simp] theorem State.copies_updTile (s : State) (u : Nat) (f : Tile → Tile) : (s.updTile u f).copies = s.copies := rfl
@[simp] theorem State.blocks_updTile (s : State) (u : Nat) (f : Tile → Tile) : (s.updTile u f).blocks = s.blocks := rfl
@[simp] theorem State.engines_updTile (s : State) (u : Nat) (f : Tile → Tile) : (s.updTile u f).engines = s.engines := rfl
@[simp] theorem State.entries_updTile (s : State) (u : Nat) (f : Tile → Tile) : (s.updTile u f).entries = s.entries := rfl
@[simp] theorem State.reqs_updTile (s : State) (u : Nat) (f : Tile → Tile) : (s.updTile u f).reqs = s.reqs := rfl
@[simp] theorem State.loads_updTile (s : State) (u : Nat) (f : Tile → Tile) : (s.updTile u f).loads = s.loads := rfl
@[simp] theorem State.waiters_updTile (s : State) (u : Nat) (f : Tile → Tile) : (s.updTile u f).waiters = s.waiters := rfl
@[simp] theorem State.claims_updTile (s : State) (u : Nat) (f : Tile → Tile) : (s.updTile u f).claims = s.claims := rfl
@[simp] theorem State.cqueues_updTile (s : State) (u : Nat) (f : Tile → Tile) : (s.updTile u f).cqueues = s.cqueues := rfl
@[simp] theorem State.hist_updTile (s : State) (u : Nat) (f : Tile → Tile) : (s.updTile u f).hist = s.hist := rfl
@[simp] theorem State.xfers_updTile (s : State) (u : Nat) (f : Tile → Tile) : (s.updTile u f).xfers = s.xfers := rfl
@[simp] theorem State.agenda_updEngine (s : State) (u : Nat) (f : Engine → Engine) : (s.updEngine u f).agenda = s.agenda := rfl
@[simp] theorem State.cur_updEngine (s : State) (u : Nat) (f : Engine → Engine) : (s.updEngine u f).cur = s.cur := rfl
@[simp] theorem State.tick_updEngine (s : State) (u : Nat) (f : Engine → Engine) : (s.updEngine u f).tick = s.tick := rfl
@[simp] theorem State.free_updEngine (s : State) (u : Nat) (f : Engine → Engine) : (s.updEngine u f).free = s.free := rfl
@[simp] theorem State.fresh_updEngine (s : State) (u : Nat) (f : Engine → Engine) : (s.updEngine u f).fresh = s.fresh := rfl
@[simp] theorem State.clk_updEngine (s : State) (u : Nat) (f : Engine → Engine) : (s.updEngine u f).clk = s.clk := rfl
@[simp] theorem State.hub_updEngine (s : State) (u : Nat) (f : Engine → Engine) : (s.updEngine u f).hub = s.hub := rfl
@[simp] theorem State.mem_updEngine (s : State) (u : Nat) (f : Engine → Engine) : (s.updEngine u f).mem = s.mem := rfl
@[simp] theorem State.ctxs_updEngine (s : State) (u : Nat) (f : Engine → Engine) : (s.updEngine u f).ctxs = s.ctxs := rfl
@[simp] theorem State.grids_updEngine (s : State) (u : Nat) (f : Engine → Engine) : (s.updEngine u f).grids = s.grids := rfl
@[simp] theorem State.wgs_updEngine (s : State) (u : Nat) (f : Engine → Engine) : (s.updEngine u f).wgs = s.wgs := rfl
@[simp] theorem State.waves_updEngine (s : State) (u : Nat) (f : Engine → Engine) : (s.updEngine u f).waves = s.waves := rfl
@[simp] theorem State.deps_updEngine (s : State) (u : Nat) (f : Engine → Engine) : (s.updEngine u f).deps = s.deps := rfl
@[simp] theorem State.tiles_updEngine (s : State) (u : Nat) (f : Engine → Engine) : (s.updEngine u f).tiles = s.tiles := rfl
@[simp] theorem State.lanes_updEngine (s : State) (u : Nat) (f : Engine → Engine) : (s.updEngine u f).lanes = s.lanes := rfl
@[simp] theorem State.copies_updEngine (s : State) (u : Nat) (f : Engine → Engine) : (s.updEngine u f).copies = s.copies := rfl
@[simp] theorem State.blocks_updEngine (s : State) (u : Nat) (f : Engine → Engine) : (s.updEngine u f).blocks = s.blocks := rfl
@[simp] theorem State.entries_updEngine (s : State) (u : Nat) (f : Engine → Engine) : (s.updEngine u f).entries = s.entries := rfl
@[simp] theorem State.reqs_updEngine (s : State) (u : Nat) (f : Engine → Engine) : (s.updEngine u f).reqs = s.reqs := rfl
@[simp] theorem State.loads_updEngine (s : State) (u : Nat) (f : Engine → Engine) : (s.updEngine u f).loads = s.loads := rfl
@[simp] theorem State.waiters_updEngine (s : State) (u : Nat) (f : Engine → Engine) : (s.updEngine u f).waiters = s.waiters := rfl
@[simp] theorem State.claims_updEngine (s : State) (u : Nat) (f : Engine → Engine) : (s.updEngine u f).claims = s.claims := rfl
@[simp] theorem State.cqueues_updEngine (s : State) (u : Nat) (f : Engine → Engine) : (s.updEngine u f).cqueues = s.cqueues := rfl
@[simp] theorem State.hist_updEngine (s : State) (u : Nat) (f : Engine → Engine) : (s.updEngine u f).hist = s.hist := rfl
@[simp] theorem State.xfers_updEngine (s : State) (u : Nat) (f : Engine → Engine) : (s.updEngine u f).xfers = s.xfers := rfl
@[simp] theorem State.agenda_updDep (s : State) (u : Nat) (f : Dep → Dep) : (s.updDep u f).agenda = s.agenda := rfl
@[simp] theorem State.cur_updDep (s : State) (u : Nat) (f : Dep → Dep) : (s.updDep u f).cur = s.cur := rfl
@[simp] theorem State.tick_updDep (s : State) (u : Nat) (f : Dep → Dep) : (s.updDep u f).tick = s.tick := rfl
@[simp] theorem State.free_updDep (s : State) (u : Nat) (f : Dep → Dep) : (s.updDep u f).free = s.free := rfl
@[simp] theorem State.fresh_updDep (s : State) (u : Nat) (f : Dep → Dep) : (s.updDep u f).fresh = s.fresh := rfl
@[simp] theorem State.clk_updDep (s : State) (u : Nat) (f : Dep → Dep) : (s.updDep u f).clk = s.clk := rfl
@[simp] theorem State.hub_updDep (s : State) (u : Nat) (f : Dep → Dep) : (s.updDep u f).hub = s.hub := rfl
@[simp] theorem State.mem_updDep (s : State) (u : Nat) (f : Dep → Dep) : (s.updDep u f).mem = s.mem := rfl
@[simp] theorem State.ctxs_updDep (s : State) (u : Nat) (f : Dep → Dep) : (s.updDep u f).ctxs = s.ctxs := rfl
@[simp] theorem State.grids_updDep (s : State) (u : Nat) (f : Dep → Dep) : (s.updDep u f).grids = s.grids := rfl
@[simp] theorem State.wgs_updDep (s : State) (u : Nat) (f : Dep → Dep) : (s.updDep u f).wgs = s.wgs := rfl
@[simp] theorem State.waves_updDep (s : State) (u : Nat) (f : Dep → Dep) : (s.updDep u f).waves = s.waves := rfl
@[simp] theorem State.tiles_updDep (s : State) (u : Nat) (f : Dep → Dep) : (s.updDep u f).tiles = s.tiles := rfl
@[simp] theorem State.lanes_updDep (s : State) (u : Nat) (f : Dep → Dep) : (s.updDep u f).lanes = s.lanes := rfl
@[simp] theorem State.copies_updDep (s : State) (u : Nat) (f : Dep → Dep) : (s.updDep u f).copies = s.copies := rfl
@[simp] theorem State.blocks_updDep (s : State) (u : Nat) (f : Dep → Dep) : (s.updDep u f).blocks = s.blocks := rfl
@[simp] theorem State.engines_updDep (s : State) (u : Nat) (f : Dep → Dep) : (s.updDep u f).engines = s.engines := rfl
@[simp] theorem State.entries_updDep (s : State) (u : Nat) (f : Dep → Dep) : (s.updDep u f).entries = s.entries := rfl
@[simp] theorem State.reqs_updDep (s : State) (u : Nat) (f : Dep → Dep) : (s.updDep u f).reqs = s.reqs := rfl
@[simp] theorem State.loads_updDep (s : State) (u : Nat) (f : Dep → Dep) : (s.updDep u f).loads = s.loads := rfl
@[simp] theorem State.waiters_updDep (s : State) (u : Nat) (f : Dep → Dep) : (s.updDep u f).waiters = s.waiters := rfl
@[simp] theorem State.claims_updDep (s : State) (u : Nat) (f : Dep → Dep) : (s.updDep u f).claims = s.claims := rfl
@[simp] theorem State.cqueues_updDep (s : State) (u : Nat) (f : Dep → Dep) : (s.updDep u f).cqueues = s.cqueues := rfl
@[simp] theorem State.hist_updDep (s : State) (u : Nat) (f : Dep → Dep) : (s.updDep u f).hist = s.hist := rfl
@[simp] theorem State.xfers_updDep (s : State) (u : Nat) (f : Dep → Dep) : (s.updDep u f).xfers = s.xfers := rfl
@[simp] theorem State.agenda_updTx (s : State) (u : Nat) (f : Tx → Tx) : (s.updTx u f).agenda = s.agenda := rfl
@[simp] theorem State.cur_updTx (s : State) (u : Nat) (f : Tx → Tx) : (s.updTx u f).cur = s.cur := rfl
@[simp] theorem State.tick_updTx (s : State) (u : Nat) (f : Tx → Tx) : (s.updTx u f).tick = s.tick := rfl
@[simp] theorem State.free_updTx (s : State) (u : Nat) (f : Tx → Tx) : (s.updTx u f).free = s.free := rfl
@[simp] theorem State.fresh_updTx (s : State) (u : Nat) (f : Tx → Tx) : (s.updTx u f).fresh = s.fresh := rfl
@[simp] theorem State.clk_updTx (s : State) (u : Nat) (f : Tx → Tx) : (s.updTx u f).clk = s.clk := rfl
@[simp] theorem State.hub_updTx (s : State) (u : Nat) (f : Tx → Tx) : (s.updTx u f).hub = s.hub := rfl
@[simp] theorem State.mem_updTx (s : State) (u : Nat) (f : Tx → Tx) : (s.updTx u f).mem = s.mem := rfl
@[simp] theorem State.ctxs_updTx (s : State) (u : Nat) (f : Tx → Tx) : (s.updTx u f).ctxs = s.ctxs := rfl
@[simp] theorem State.grids_updTx (s : State) (u : Nat) (f : Tx → Tx) : (s.updTx u f).grids = s.grids := rfl
@[simp] theorem State.waves_updTx (s : State) (u : Nat) (f : Tx → Tx) : (s.updTx u f).waves = s.waves := rfl
@[simp] theorem State.deps_updTx (s : State) (u : Nat) (f : Tx → Tx) : (s.updTx u f).deps = s.deps := rfl
@[simp] theorem State.tiles_updTx (s : State) (u : Nat) (f : Tx → Tx) : (s.updTx u f).tiles = s.tiles := rfl
@[simp] theorem State.lanes_updTx (s : State) (u : Nat) (f : Tx → Tx) : (s.updTx u f).lanes = s.lanes := rfl
@[simp] theorem State.copies_updTx (s : State) (u : Nat) (f : Tx → Tx) : (s.updTx u f).copies = s.copies := rfl
@[simp] theorem State.blocks_updTx (s : State) (u : Nat) (f : Tx → Tx) : (s.updTx u f).blocks = s.blocks := rfl
@[simp] theorem State.engines_updTx (s : State) (u : Nat) (f : Tx → Tx) : (s.updTx u f).engines = s.engines := rfl
@[simp] theorem State.entries_updTx (s : State) (u : Nat) (f : Tx → Tx) : (s.updTx u f).entries = s.entries := rfl
@[simp] theorem State.reqs_updTx (s : State) (u : Nat) (f : Tx → Tx) : (s.updTx u f).reqs = s.reqs := rfl
@[simp] theorem State.loads_updTx (s : State) (u : Nat) (f : Tx → Tx) : (s.updTx u f).loads = s.loads := rfl
@[simp] theorem State.waiters_updTx (s : State) (u : Nat) (f : Tx → Tx) : (s.updTx u f).waiters = s.waiters := rfl
@[simp] theorem State.claims_updTx (s : State) (u : Nat) (f : Tx → Tx) : (s.updTx u f).claims = s.claims := rfl
@[simp] theorem State.cqueues_updTx (s : State) (u : Nat) (f : Tx → Tx) : (s.updTx u f).cqueues = s.cqueues := rfl
@[simp] theorem State.hist_updTx (s : State) (u : Nat) (f : Tx → Tx) : (s.updTx u f).hist = s.hist := rfl
@[simp] theorem State.xfers_updTx (s : State) (u : Nat) (f : Tx → Tx) : (s.updTx u f).xfers = s.xfers := rfl
@[simp] theorem State.agenda_updErr (s : State) (u : Nat) (f : ErrRec → ErrRec) : (s.updErr u f).agenda = s.agenda := rfl
@[simp] theorem State.cur_updErr (s : State) (u : Nat) (f : ErrRec → ErrRec) : (s.updErr u f).cur = s.cur := rfl
@[simp] theorem State.tick_updErr (s : State) (u : Nat) (f : ErrRec → ErrRec) : (s.updErr u f).tick = s.tick := rfl
@[simp] theorem State.free_updErr (s : State) (u : Nat) (f : ErrRec → ErrRec) : (s.updErr u f).free = s.free := rfl
@[simp] theorem State.fresh_updErr (s : State) (u : Nat) (f : ErrRec → ErrRec) : (s.updErr u f).fresh = s.fresh := rfl
@[simp] theorem State.clk_updErr (s : State) (u : Nat) (f : ErrRec → ErrRec) : (s.updErr u f).clk = s.clk := rfl
@[simp] theorem State.hub_updErr (s : State) (u : Nat) (f : ErrRec → ErrRec) : (s.updErr u f).hub = s.hub := rfl
@[simp] theorem State.mem_updErr (s : State) (u : Nat) (f : ErrRec → ErrRec) : (s.updErr u f).mem = s.mem := rfl
@[simp] theorem State.grids_updErr (s : State) (u : Nat) (f : ErrRec → ErrRec) : (s.updErr u f).grids = s.grids := rfl
@[simp] theorem State.wgs_updErr (s : State) (u : Nat) (f : ErrRec → ErrRec) : (s.updErr u f).wgs = s.wgs := rfl
@[simp] theorem State.waves_updErr (s : State) (u : Nat) (f : ErrRec → ErrRec) : (s.updErr u f).waves = s.waves := rfl
@[simp] theorem State.deps_updErr (s : State) (u : Nat) (f : ErrRec → ErrRec) : (s.updErr u f).deps = s.deps := rfl
@[simp] theorem State.tiles_updErr (s : State) (u : Nat) (f : ErrRec → ErrRec) : (s.updErr u f).tiles = s.tiles := rfl
@[simp] theorem State.lanes_updErr (s : State) (u : Nat) (f : ErrRec → ErrRec) : (s.updErr u f).lanes = s.lanes := rfl
@[simp] theorem State.copies_updErr (s : State) (u : Nat) (f : ErrRec → ErrRec) : (s.updErr u f).copies = s.copies := rfl
@[simp] theorem State.blocks_updErr (s : State) (u : Nat) (f : ErrRec → ErrRec) : (s.updErr u f).blocks = s.blocks := rfl
@[simp] theorem State.engines_updErr (s : State) (u : Nat) (f : ErrRec → ErrRec) : (s.updErr u f).engines = s.engines := rfl
@[simp] theorem State.entries_updErr (s : State) (u : Nat) (f : ErrRec → ErrRec) : (s.updErr u f).entries = s.entries := rfl
@[simp] theorem State.reqs_updErr (s : State) (u : Nat) (f : ErrRec → ErrRec) : (s.updErr u f).reqs = s.reqs := rfl
@[simp] theorem State.loads_updErr (s : State) (u : Nat) (f : ErrRec → ErrRec) : (s.updErr u f).loads = s.loads := rfl
@[simp] theorem State.waiters_updErr (s : State) (u : Nat) (f : ErrRec → ErrRec) : (s.updErr u f).waiters = s.waiters := rfl
@[simp] theorem State.claims_updErr (s : State) (u : Nat) (f : ErrRec → ErrRec) : (s.updErr u f).claims = s.claims := rfl
@[simp] theorem State.cqueues_updErr (s : State) (u : Nat) (f : ErrRec → ErrRec) : (s.updErr u f).cqueues = s.cqueues := rfl
@[simp] theorem State.hist_updErr (s : State) (u : Nat) (f : ErrRec → ErrRec) : (s.updErr u f).hist = s.hist := rfl
@[simp] theorem State.xfers_updErr (s : State) (u : Nat) (f : ErrRec → ErrRec) : (s.updErr u f).xfers = s.xfers := rfl
@[simp] theorem State.agenda_updHub (s : State) (f : Hub → Hub) : (s.updHub f).agenda = s.agenda := rfl
@[simp] theorem State.cur_updHub (s : State) (f : Hub → Hub) : (s.updHub f).cur = s.cur := rfl
@[simp] theorem State.tick_updHub (s : State) (f : Hub → Hub) : (s.updHub f).tick = s.tick := rfl
@[simp] theorem State.free_updHub (s : State) (f : Hub → Hub) : (s.updHub f).free = s.free := rfl
@[simp] theorem State.fresh_updHub (s : State) (f : Hub → Hub) : (s.updHub f).fresh = s.fresh := rfl
@[simp] theorem State.clk_updHub (s : State) (f : Hub → Hub) : (s.updHub f).clk = s.clk := rfl
@[simp] theorem State.mem_updHub (s : State) (f : Hub → Hub) : (s.updHub f).mem = s.mem := rfl
@[simp] theorem State.ctxs_updHub (s : State) (f : Hub → Hub) : (s.updHub f).ctxs = s.ctxs := rfl
@[simp] theorem State.grids_updHub (s : State) (f : Hub → Hub) : (s.updHub f).grids = s.grids := rfl
@[simp] theorem State.wgs_updHub (s : State) (f : Hub → Hub) : (s.updHub f).wgs = s.wgs := rfl
@[simp] theorem State.waves_updHub (s : State) (f : Hub → Hub) : (s.updHub f).waves = s.waves := rfl
@[simp] theorem State.deps_updHub (s : State) (f : Hub → Hub) : (s.updHub f).deps = s.deps := rfl
@[simp] theorem State.tiles_updHub (s : State) (f : Hub → Hub) : (s.updHub f).tiles = s.tiles := rfl
@[simp] theorem State.lanes_updHub (s : State) (f : Hub → Hub) : (s.updHub f).lanes = s.lanes := rfl
@[simp] theorem State.copies_updHub (s : State) (f : Hub → Hub) : (s.updHub f).copies = s.copies := rfl
@[simp] theorem State.blocks_updHub (s : State) (f : Hub → Hub) : (s.updHub f).blocks = s.blocks := rfl
@[simp] theorem State.engines_updHub (s : State) (f : Hub → Hub) : (s.updHub f).engines = s.engines := rfl
@[simp] theorem State.entries_updHub (s : State) (f : Hub → Hub) : (s.updHub f).entries = s.entries := rfl
@[simp] theorem State.reqs_updHub (s : State) (f : Hub → Hub) : (s.updHub f).reqs = s.reqs := rfl
@[simp] theorem State.loads_updHub (s : State) (f : Hub → Hub) : (s.updHub f).loads = s.loads := rfl
@[simp] theorem State.waiters_updHub (s : State) (f : Hub → Hub) : (s.updHub f).waiters = s.waiters := rfl
@[simp] theorem State.claims_updHub (s : State) (f : Hub → Hub) : (s.updHub f).claims = s.claims := rfl
@[simp] theorem State.cqueues_updHub (s : State) (f : Hub → Hub) : (s.updHub f).cqueues = s.cqueues := rfl
@[simp] theorem State.hist_updHub (s : State) (f : Hub → Hub) : (s.updHub f).hist = s.hist := rfl
@[simp] theorem State.xfers_updHub (s : State) (f : Hub → Hub) : (s.updHub f).xfers = s.xfers := rfl
@[simp] theorem State.agenda_updMem (s : State) (f : Memory → Memory) : (s.updMem f).agenda = s.agenda := rfl
@[simp] theorem State.cur_updMem (s : State) (f : Memory → Memory) : (s.updMem f).cur = s.cur := rfl
@[simp] theorem State.tick_updMem (s : State) (f : Memory → Memory) : (s.updMem f).tick = s.tick := rfl
@[simp] theorem State.free_updMem (s : State) (f : Memory → Memory) : (s.updMem f).free = s.free := rfl
@[simp] theorem State.fresh_updMem (s : State) (f : Memory → Memory) : (s.updMem f).fresh = s.fresh := rfl
@[simp] theorem State.clk_updMem (s : State) (f : Memory → Memory) : (s.updMem f).clk = s.clk := rfl
@[simp] theorem State.hub_updMem (s : State) (f : Memory → Memory) : (s.updMem f).hub = s.hub := rfl
@[simp] theorem State.ctxs_updMem (s : State) (f : Memory → Memory) : (s.updMem f).ctxs = s.ctxs := rfl
@[simp] theorem State.grids_updMem (s : State) (f : Memory → Memory) : (s.updMem f).grids = s.grids := rfl
@[simp] theorem State.wgs_updMem (s : State) (f : Memory → Memory) : (s.updMem f).wgs = s.wgs := rfl
@[simp] theorem State.waves_updMem (s : State) (f : Memory → Memory) : (s.updMem f).waves = s.waves := rfl
@[simp] theorem State.deps_updMem (s : State) (f : Memory → Memory) : (s.updMem f).deps = s.deps := rfl
@[simp] theorem State.tiles_updMem (s : State) (f : Memory → Memory) : (s.updMem f).tiles = s.tiles := rfl
@[simp] theorem State.lanes_updMem (s : State) (f : Memory → Memory) : (s.updMem f).lanes = s.lanes := rfl
@[simp] theorem State.copies_updMem (s : State) (f : Memory → Memory) : (s.updMem f).copies = s.copies := rfl
@[simp] theorem State.blocks_updMem (s : State) (f : Memory → Memory) : (s.updMem f).blocks = s.blocks := rfl
@[simp] theorem State.engines_updMem (s : State) (f : Memory → Memory) : (s.updMem f).engines = s.engines := rfl
@[simp] theorem State.entries_updMem (s : State) (f : Memory → Memory) : (s.updMem f).entries = s.entries := rfl
@[simp] theorem State.reqs_updMem (s : State) (f : Memory → Memory) : (s.updMem f).reqs = s.reqs := rfl
@[simp] theorem State.loads_updMem (s : State) (f : Memory → Memory) : (s.updMem f).loads = s.loads := rfl
@[simp] theorem State.waiters_updMem (s : State) (f : Memory → Memory) : (s.updMem f).waiters = s.waiters := rfl
@[simp] theorem State.claims_updMem (s : State) (f : Memory → Memory) : (s.updMem f).claims = s.claims := rfl
@[simp] theorem State.cqueues_updMem (s : State) (f : Memory → Memory) : (s.updMem f).cqueues = s.cqueues := rfl
@[simp] theorem State.hist_updMem (s : State) (f : Memory → Memory) : (s.updMem f).hist = s.hist := rfl
@[simp] theorem State.xfers_updMem (s : State) (f : Memory → Memory) : (s.updMem f).xfers = s.xfers := rfl
@[simp] theorem State.agenda_put (s : State) (u : Issue) (f : Wave → Wave) : (s.put u f).agenda = s.agenda := rfl
@[simp] theorem State.cur_put (s : State) (u : Issue) (f : Wave → Wave) : (s.put u f).cur = s.cur := rfl
@[simp] theorem State.tick_put (s : State) (u : Issue) (f : Wave → Wave) : (s.put u f).tick = s.tick := rfl
@[simp] theorem State.free_put (s : State) (u : Issue) (f : Wave → Wave) : (s.put u f).free = s.free := rfl
@[simp] theorem State.fresh_put (s : State) (u : Issue) (f : Wave → Wave) : (s.put u f).fresh = s.fresh := rfl
@[simp] theorem State.clk_put (s : State) (u : Issue) (f : Wave → Wave) : (s.put u f).clk = s.clk := rfl
@[simp] theorem State.hub_put (s : State) (u : Issue) (f : Wave → Wave) : (s.put u f).hub = s.hub := rfl
@[simp] theorem State.mem_put (s : State) (u : Issue) (f : Wave → Wave) : (s.put u f).mem = s.mem := rfl
@[simp] theorem State.ctxs_put (s : State) (u : Issue) (f : Wave → Wave) : (s.put u f).ctxs = s.ctxs := rfl
@[simp] theorem State.grids_put (s : State) (u : Issue) (f : Wave → Wave) : (s.put u f).grids = s.grids := rfl
@[simp] theorem State.wgs_put (s : State) (u : Issue) (f : Wave → Wave) : (s.put u f).wgs = s.wgs := rfl
@[simp] theorem State.deps_put (s : State) (u : Issue) (f : Wave → Wave) : (s.put u f).deps = s.deps := rfl
@[simp] theorem State.tiles_put (s : State) (u : Issue) (f : Wave → Wave) : (s.put u f).tiles = s.tiles := rfl
@[simp] theorem State.lanes_put (s : State) (u : Issue) (f : Wave → Wave) : (s.put u f).lanes = s.lanes := rfl
@[simp] theorem State.copies_put (s : State) (u : Issue) (f : Wave → Wave) : (s.put u f).copies = s.copies := rfl
@[simp] theorem State.blocks_put (s : State) (u : Issue) (f : Wave → Wave) : (s.put u f).blocks = s.blocks := rfl
@[simp] theorem State.engines_put (s : State) (u : Issue) (f : Wave → Wave) : (s.put u f).engines = s.engines := rfl
@[simp] theorem State.entries_put (s : State) (u : Issue) (f : Wave → Wave) : (s.put u f).entries = s.entries := rfl
@[simp] theorem State.reqs_put (s : State) (u : Issue) (f : Wave → Wave) : (s.put u f).reqs = s.reqs := rfl
@[simp] theorem State.loads_put (s : State) (u : Issue) (f : Wave → Wave) : (s.put u f).loads = s.loads := rfl
@[simp] theorem State.waiters_put (s : State) (u : Issue) (f : Wave → Wave) : (s.put u f).waiters = s.waiters := rfl
@[simp] theorem State.claims_put (s : State) (u : Issue) (f : Wave → Wave) : (s.put u f).claims = s.claims := rfl
@[simp] theorem State.cqueues_put (s : State) (u : Issue) (f : Wave → Wave) : (s.put u f).cqueues = s.cqueues := rfl
@[simp] theorem State.hist_put (s : State) (u : Issue) (f : Wave → Wave) : (s.put u f).hist = s.hist := rfl
@[simp] theorem State.xfers_put (s : State) (u : Issue) (f : Wave → Wave) : (s.put u f).xfers = s.xfers := rfl
@[simp] theorem State.agenda_drew (s : State) (n : Nat) : (s.drew n).agenda = s.agenda := rfl
@[simp] theorem State.cur_drew (s : State) (n : Nat) : (s.drew n).cur = s.cur := rfl
@[simp] theorem State.tick_drew (s : State) (n : Nat) : (s.drew n).tick = s.tick := rfl
@[simp] theorem State.fresh_drew (s : State) (n : Nat) : (s.drew n).fresh = s.fresh := rfl
@[simp] theorem State.clk_drew (s : State) (n : Nat) : (s.drew n).clk = s.clk := rfl
@[simp] theorem State.hub_drew (s : State) (n : Nat) : (s.drew n).hub = s.hub := rfl
@[simp] theorem State.mem_drew (s : State) (n : Nat) : (s.drew n).mem = s.mem := rfl
@[simp] theorem State.ctxs_drew (s : State) (n : Nat) : (s.drew n).ctxs = s.ctxs := rfl
@[simp] theorem State.grids_drew (s : State) (n : Nat) : (s.drew n).grids = s.grids := rfl
@[simp] theorem State.wgs_drew (s : State) (n : Nat) : (s.drew n).wgs = s.wgs := rfl
@[simp] theorem State.waves_drew (s : State) (n : Nat) : (s.drew n).waves = s.waves := rfl
@[simp] theorem State.deps_drew (s : State) (n : Nat) : (s.drew n).deps = s.deps := rfl
@[simp] theorem State.tiles_drew (s : State) (n : Nat) : (s.drew n).tiles = s.tiles := rfl
@[simp] theorem State.lanes_drew (s : State) (n : Nat) : (s.drew n).lanes = s.lanes := rfl
@[simp] theorem State.copies_drew (s : State) (n : Nat) : (s.drew n).copies = s.copies := rfl
@[simp] theorem State.blocks_drew (s : State) (n : Nat) : (s.drew n).blocks = s.blocks := rfl
@[simp] theorem State.engines_drew (s : State) (n : Nat) : (s.drew n).engines = s.engines := rfl
@[simp] theorem State.entries_drew (s : State) (n : Nat) : (s.drew n).entries = s.entries := rfl
@[simp] theorem State.reqs_drew (s : State) (n : Nat) : (s.drew n).reqs = s.reqs := rfl
@[simp] theorem State.loads_drew (s : State) (n : Nat) : (s.drew n).loads = s.loads := rfl
@[simp] theorem State.waiters_drew (s : State) (n : Nat) : (s.drew n).waiters = s.waiters := rfl
@[simp] theorem State.claims_drew (s : State) (n : Nat) : (s.drew n).claims = s.claims := rfl
@[simp] theorem State.cqueues_drew (s : State) (n : Nat) : (s.drew n).cqueues = s.cqueues := rfl
@[simp] theorem State.hist_drew (s : State) (n : Nat) : (s.drew n).hist = s.hist := rfl
@[simp] theorem State.xfers_drew (s : State) (n : Nat) : (s.drew n).xfers = s.xfers := rfl

end Sys2Proof.Machine
end

