-- ==== Sys2Proof/Tests/Slice0.lean ====
section
/-! SUPPORT. Tests/Slice0.lean: the model's own tests. `test_…`: an ill-formed term for every check of WellFormed, words written
out from the encodings of the spec, one step on a small state with the result the spec gives. `met_…`: for each statement of
Certificates/Slice0/Obligations.lean, operands and states that meet its hypotheses, clause by clause. -/

namespace Sys2Proof.Tests

open Sys2Proof Sys2Proof.Machine Sys2Proof.Claims

/-! ## WellFormed: every check refuses an ill-formed term -/

/-- A header without guard and NWB. -/
abbrev hd : Hd := { g := { p := 0, neg := false }, nwb := false }
/-- A header with NWB. -/
abbrev hdN : Hd := { g := { p := 0, neg := false }, nwb := true }
/-- A window register. -/
abbrev dv (n : BitVec 8) : Dst := { s := false, n := n }
/-- A uniform register. -/
abbrev ds (n : BitVec 8) : Dst := { s := true, n := n }

/-- Every instruction of the list is refused, in a window of 32 registers outside a pair. -/
def refuses (l : List Instr) : Bool := l.all fun i => !i.wf ⟨32, false, false, false⟩
/-- Every instruction of the list is well-formed there. -/
def accepts (l : List Instr) : Bool := l.all fun i => i.wf ⟨32, false, false, false⟩

/-- R35, R38: the guard code 1000, and NWB where no latch is produced. -/
theorem test_wf_header : refuses [.nop { hd with g := ⟨0, true⟩ }, .nop hdN, .movi hdN .z64 (dv 0) 1 true] = true := by decide

/-- R76 to R83: control. -/
theorem test_wf_control : refuses [
    .brx hd (.v 3), .brx hd (.imm 1), .ret hd (.v 31), .call hd (dv 3) 0, .loop hd (dv 32) 0, .sfork hd (ds 1) (.v 0) (.v 2),
    .sfork hd (dv 32) (.v 0) (.v 2), .sfork hd (dv 0) (.imm32 1) (.v 2), .sfork hd (dv 0) (.v 0) (.imm 1), .vote hd (.ballot (dv 32) 1 false),
    .vote hd (.eq 1 (.imm 1) false), .vote hd (.eq 1 (.v 1) true), .paths hd (dv 32) true] = true ∧
    (Instr.idem 0xFFFF 0).wf ⟨8, false, false, false⟩ = false ∧ (Instr.idem 0xFF 0).wf ⟨8, false, false, false⟩ = true := by decide

/-- R31 to R34, R90 to R98: integer. -/
theorem test_wf_integer : refuses [
    .iadd false ⟨hd, .z32, dv 32, .v 0, .v 0⟩, .iadd false ⟨hd, .z64, dv 1, .v 0, .v 0⟩, .iadd false ⟨hd, .z64, dv 0, .v 1, .v 0⟩,
    .iadd false ⟨hd, .z32, ds 1, .v 0, .s 0⟩, .iadd false ⟨hd, .z32, ds 64, .s 0, .s 0⟩, .iadd false ⟨hdN, .z32, dv 1, .v 0, .v 0⟩,
    .iadd false ⟨hd, .f32, dv 0, .v 0, .v 0⟩, .iadd false ⟨hd, .s8, dv 0, .v 0, .imm32 0x80⟩, .imad ⟨hd, .z32, dv 0, .imm32 1, .v 0, .v 0⟩,
    .imad ⟨hd, .z32, dv 0, .v 0, .v 32, .v 0⟩, .imad ⟨hd, .z32, dv 0, .v 0, .v 0, .imm32 1⟩, .iabs false ⟨hd, .z32, dv 0, .v 0⟩,
    .iabs false ⟨hd, .s32, dv 0, .imm32 0⟩, .not ⟨hd, .f32, dv 0, .v 0⟩, .shl ⟨hd, .z32, dv 0, .imm32 0, .v 0⟩,
    .shl ⟨hd, .z64, dv 0, .v 0, .v 32⟩, .popc ⟨hd, .z64, dv 0, .v 1⟩, .clz ⟨hd, .f32, dv 0, .v 0⟩, .bfi ⟨hd, .z32, dv 0, .v 0, .v 0, .imm32 0⟩,
    .sel ⟨hd, .z32, ds 0, .s 0, .s 0⟩ 1 false, .icmp .eq ⟨hd, .z64, 1, .v 1, .v 0⟩, .icmp .eq ⟨hd, .z64, 1, .v 0, .v 1⟩,
    .icmp .eq ⟨hd, .f32, 1, .v 0, .v 0⟩, .icmp .eq ⟨hd, .z8, 1, .v 0, .imm32 0x100⟩] = true ∧ refuses [
    .movi hd .z64 (dv 1) 0 false, .movi hd .f32 (dv 0) 0 false, .movi hd .z32 (dv 0) 0 true, .movi hd .s8 (dv 0) 0x80 false,
    .lea 0 ⟨hd, .s32, dv 1, .v 0, .v 0⟩, .lea 0 ⟨hd, .s32, dv 0, .v 1, .v 0⟩, .lea 0 ⟨hd, .s64, dv 0, .v 0, .v 0⟩,
    .iext ⟨hd, .s8, dv 1, .v 0⟩, .iext ⟨hd, .s8, dv 0, .imm32 0⟩, .shfl .idx ⟨hd, .z8, dv 0, .v 0, .v 0⟩, .shfl .idx ⟨hd, .z32, ds 0, .s 0, .s 0⟩,
    .prmt ⟨hd, .z64, dv 0, .v 0, .v 0, .v 0⟩, .prmt ⟨hd, .z32, dv 0, .v 0, .v 0, .imm32 0⟩] = true := by decide

/-- R103 to R114: floating point. -/
theorem test_wf_float : refuses [
    .fadd .rn ⟨hd, .z32, dv 0, .v 0, .v 0⟩, .fadd .rn ⟨hd, .f16, dv 0, .v 0, .imm32 0x10000⟩, .ffma .rn ⟨hd, .f32, dv 0, .v 0, .v 0, .imm32 0⟩,
    .fdot2 .rn ⟨hd, .f32, dv 0, .v 0, .v 0, .v 0⟩, .fdot2 .rn ⟨hd, .f16, dv 0, .imm 0, .v 0, .v 0⟩, .fdot2 .rn ⟨hd, .f16, dv 0, .v 0, .imm 0, .v 0⟩,
    .fcmp .lt ⟨hd, .z32, 1, .v 0, .v 0⟩, .fclass ⟨hd, .e4m3, dv 0, .v 0⟩, .frcp .rn ⟨hd, .f32, dv 0, .imm32 0⟩, .fwelf hd 30 0 (.v 0),
    .fwelf hd 0 30 (.v 0), .fwelf hd 0 0 (.v 32), .fwmerge hd 30 0 (.v 0), .fwmerge hd 0 30 (.v 0), .fwmerge hd 0 0 (.v 30),
    .fwmerge hd 0 0 (.s 0), .fredw .add ⟨hd, .f32, dv 32, .v 0⟩, .fredw .add ⟨hd, .f32, dv 0, .s 0⟩, .fredw .add ⟨hd, .f16, dv 0, .v 0⟩] =
    true := by decide

/-- R131 to R145: conversions, packing, scales. -/
theorem test_wf_convert : refuses [
    .cvt ⟨hd, .rn, false, .f16, .f32, dv 32, .v 0⟩, .cvt ⟨hd, .rn, false, .f16, .f32, dv 0, .imm32 0⟩,
    .cvt ⟨hd, .rn, false, .f16, .e4m3, dv 0, .imm 0⟩, .cvt ⟨hd, .rn, false, .f16, .z32, dv 0, .v 0⟩, .cvt ⟨hd, .rn, false, .f16, .f16, dv 0, .v 0⟩,
    .cvt ⟨hd, .rn, false, .z32, .f32, dv 0, .v 0⟩, .cvt ⟨hd, .rz, false, .e8m0, .f32, dv 0, .v 0⟩,
    .cvtfi ⟨hd, .rn, false, .z64, .f32, dv 1, .v 0⟩, .cvtfi ⟨hd, .rn, false, .z32, .f32, dv 0, .v 32⟩,
    .cvtfi ⟨hd, .rn, false, .z32, .e2m1, dv 0, .imm 0⟩, .cvtfi ⟨hd, .rn, false, .z32, .e8m0, dv 0, .v 0⟩,
    .cvtfi ⟨hd, .rn, false, .f32, .f32, dv 0, .v 0⟩, .cvtfi ⟨hd, .rn, false, .z32, .f16, dv 0, .imm32 0x10000⟩,
    .cvtif ⟨hd, .rn, false, .f32, .z64, dv 0, .v 1⟩, .cvtif ⟨hd, .rn, false, .f32, .f32, dv 0, .v 0⟩, .cvtif ⟨hd, .rn, false, .z32, .z32, dv 0, .v 0⟩,
    .cvtif ⟨hd, .rn, false, .f32, .z8, dv 0, .imm32 0x100⟩] = true ∧ refuses [
    .qpack hd .rn false .e4m3 0 17 0, .qpack hd .rn false .e4m3 0 0 9, .qpack hd .rn false .f32 0 0 0, .qpack hd .rn false .e4m3 2 0 0,
    .qpackRows hd .rn .q8 27 0 (.v 0), .qpackRows hd .rn .q8 0 9 (.v 0), .qpackRows hd .rn .q8 0 0 (.imm32 0), .qpackRows hd .rn .e4m3 0 0 (.v 0),
    .qunpack hd .e4m3 0 9 0, .qunpack hd .e4m3 0 0 17, .qunpack hd .q8 0 0 0, .qunpack hd .f16 1 0 0,
    .qunpackRows hd .q8 9 0 (.v 0) (.v 0), .qunpackRows hd .q8 0 27 (.v 0) (.v 0), .qunpackRows hd .q8 0 0 (.imm32 0) (.v 0),
    .qunpackRows hd .q8 0 0 (.v 0) (.imm32 0), .qunpackRows hd .e5m2 0 0 (.v 0) (.v 0), .qscale ⟨hd, .f32, dv 0, .v 0⟩,
    .qrow ⟨hd, .e4m3, dv 0, .v 0, .v 0, .v 0⟩, .qamax hdN .f32 1 0 4, .qamax hd .f32 32 0 4, .qamax hd .f32 0 29 4, .qamax hd .f32 0 0 0,
    .qamax hd .f32 0 0 49, .qamax hd .e4m3 0 0 4, .qhdr hd 17 (.hdr .e4m3 (.v 0)), .qhdr hd 0 (.hdr .e4m3 (.v 32)), .qhdr hd 0 (.hdr .f32 (.v 0)),
    .qesc hd .e4m3 17 (.v 0) (.v 0), .qesc hd .e4m3 0 (.imm32 0) (.v 0), .qesc hd .e4m3 0 (.v 0) (.v 32), .qesc hd .f16 0 (.v 0) (.v 0)] =
    true := by decide

/-- A memory operand. -/
abbrev mem (m : MemTy) (d : Dst) (a c : Src) (off : Option (BitVec 32) := none) : Mem :=
  { h := hd, m := m, scale := 0, d := d, a := a, c := c, off := off }
/-- A 32-bit access. -/
abbrev w32 : MemTy := .acc .z32 .plain

/-- R163 to R173, R191: memory and ordering. -/
theorem test_wf_memory : refuses [
    .ld (mem w32 (dv 32) (.v 0) (.imm 0)), .ld (mem (.wide .w64 false) (dv 17) (.v 0) (.imm 0)), .ld (mem (.wide .w16 false) (ds 0) (.s 0) (.imm 0)),
    .ld (mem w32 (dv 0) (.imm 0) (.imm 0)), .ld (mem w32 (ds 0) (.v 0) (.imm 0)), .ld (mem w32 (dv 0) (.v 0) (.s 0)),
    .ld (mem (.acc .z32 (.sync .strand)) (dv 0) (.v 0) (.imm 0)), .st (mem (.acc .z32 .remote) (dv 0) (.v 0) (.imm 0)),
    .st (mem (.acc .z32 .fresh) (dv 0) (.v 0) (.imm 0)), .ldu (mem w32 (ds 0) (.v 0) (.imm 0)), .ldu (mem w32 (ds 0) (.s 0) (.v 0)),
    .ldu (mem (.wide .w64 false) (ds 57) (.s 0) (.imm 0)), .ldl (mem (.acc .z32 .fresh) (dv 0) (.v 0) (.imm 0)),
    .ldl (mem w32 (dv 0) (.imm32 0) (.imm 0)), .stl (mem (.acc .z32 (.sync .dev)) (dv 0) (.v 0) (.imm 0)),
    .ldk (mem (.wide .w16 false) (dv 0) (.v 0) (.imm 0)), .ldk (mem (.acc .z32 .fresh) (dv 0) (.v 0) (.imm 0))] = true ∧ refuses [
    .gather ⟨hd, .z32, 0, 3, false, 29, .v 0, 0, none⟩, .gather ⟨hd, .z32, 0, 3, false, 0, .imm 0, 0, none⟩,
    .gather ⟨hd, .z32, 0, 3, false, 0, .v 0, 29, none⟩, .gather ⟨hd, .z64, 0, 3, false, 0, .v 0, 0, none⟩,
    .scatter ⟨hd, .z32, 0, 3, true, 0, .v 0, 0, none⟩, .pref true ⟨hd, 0, .imm 0, .imm 0, none⟩, .pref true ⟨hd, 0, .v 0, .s 0, none⟩,
    .cflush .wb ⟨hd, 0, .v 1, .imm 0, none⟩, .aliasfl ⟨hd, 0, .v 0, .imm 0, some 0⟩, .fence hd .strand .acq,
    .fencex hd .strand .acq .ls .cp, .fencex hd .dev .acq .ls .ls] = true := by decide

/-- A copy word. -/
abbrev cw0 : CopyWord := ⟨false, false, false, 0, false, 0, false, false, false, .s8, .elems⟩

/-- R203, R219 to R225: tiles, copies, barriers, batches. -/
theorem test_wf_tiles : refuses [
    .tdecl hd 0 0 0 0 1 .read, .tdecl hd 0 0 0 1 0 .read, .tbind hd (dv 0) 0 false 1 32, .tbind hd (ds 0) 0 false 0 32,
    .tbind hd (ds 0) 0 false 1 48, .tbind hd (ds 0) 0 true 1 25, .tbind hd (ds 0) 0 true 1 1560,
    .tbind hd (ds 0) 0 true 4095 1536, .tbind hd (ds 0) 0 false 4095 32768, .tstat hd (dv 1) 0, .tcopy hd 0 0 1 cw0,
    .tcopy hd 0 0 0 { cw0 with kc := true }, .tcopy hd 0 0 0 { cw0 with src := .stream }, .tcopy hd 0 0 0 { cw0 with src := .framed },
    .tcopy hd 0 0 0 { cw0 with plane := true }, .tcopy hd 0 0 0 { cw0 with plane := true, ety := .i4, kc := true },
    .tcopy hd 0 0 0 { cw0 with plane := true, src := .framed, ety := .f32 }, .tcopy hd 0 0 0 { cw0 with plane := true, src := .stream },
    .tstore hd 0 0 1 cw0, .tstore hd 0 0 0 { cw0 with plane := true, ety := .f32 }, .tstore hd 0 0 0 { cw0 with fill := true },
    .tplane hd 0 0 0 { cw0 with plane := true, ety := .f32 }, .tplane hd 0 1 1 { cw0 with plane := true, ety := .f32 },
    .tplane hd 0 1 0 { cw0 with plane := true, ety := .f32, blk := true }, .tplane hd 0 1 0 { cw0 with plane := true, ety := .f32, fill := true }] =
    true ∧ refuses [
    .cseal hd (some (dv 0)), .cwait hd (.s 0), .cwait hd (.imm 16), .cwaitTo hd (.imm 0), .binit hd 0 (.v 0) 1, .binit hd 0 (.s 0) 0,
    .bexpect hd 0 (.v 0) 0 false, .barrive hd (some (dv 32)) 0, .bwait hd 0 (.v 0)] = true := by decide

/-- A chain field block. -/
abbrev ch0 : Chain := ⟨0, false, 0, false, 0⟩
/-- A pass layout. -/
abbrev pw0 : PassW := ⟨0, 0, 0, 0, 0, 0, false, 0, 0, false, 0, 0, .q8, .q8⟩
/-- An `MMA`. -/
abbrev mma0 : Mma := ⟨hd, 0, 0, 1, 0, pw0, ch0⟩
/-- A drain into a tile. -/
abbrev drain0 : Drain := ⟨hd, 0, 0, none, 0, 0, 0, 0, false, false, 0, 0, false, 0, 0, 0, false, false, ch0⟩

/-- R246 to R251: matrix. -/
theorem test_wf_matrix : refuses [
    .mzero hd 4 1 0 ch0, .mzero hd 1 0 3 ch0, .mldc hd 4 0 1 0 .f32 0 ch0, .mma { mma0 with acc := 4, p := { pw0 with mb1 := 1 } },
    .mma { mma0 with p := { pw0 with fix := true, opk := 3 } }, .mma { mma0 with p := { pw0 with atb := 1 } },
    .mma { mma0 with p := { pw0 with bty := .i8 } }, .mma { mma0 with p := { pw0 with psel := true } }, .mma { mma0 with tc := 1 },
    .mmap mma0, .mdrain { drain0 with acc := 3, nb1 := 1 }, .mdrain { drain0 with ofmt := 14 }, .mdrain { drain0 with ten := true, tfmt := 10 },
    .mdrain { drain0 with tt := 1 }, .mdrain { drain0 with tfmt := 1 }, .mdrain { drain0 with aen := true },
    .mdrain { drain0 with aen := true, ascope := 7 }, .mdrain { drain0 with tq := 1 }, .mbaton hd (.imm 32), .mbaton hd (.v 0), .mstat hd (dv 1)] =
    true ∧ (Instr.mmap mma0).wf ⟨32, true, false, false⟩ = true ∧ (Instr.mmap { mma0 with acc := 1 }).wf ⟨32, true, false, false⟩ = false ∧
    (Instr.mmap { mma0 with p := { pw0 with nb1 := 1 } }).wf ⟨32, true, false, false⟩ = false := by decide

/-- An atomic. -/
abbrev at0 : Atomic := ⟨hd, .z32, .relaxed, .strand, false, dv 0, .v 0, .v 0, none⟩

/-- R280 to R315: transactions, atomics, barriers, queues, register pool. -/
theorem test_wf_sync : refuses [
    .txbegin hd false (some (dv 32)), .txstat hd 0 (dv 1), .txstat hd 3 (dv 0), .txpredRd hdN 1 0 (.s 0) 0, .txpredRd hd 0 0 (.v 0) 0,
    .txpredWr hd 0 0 (.v 0) 0, .txgate hd 0 (.v 0), .atom .add { at0 with d := dv 32 }, .atom .add { at0 with a := .v 1 },
    .atom .add { at0 with b := .imm32 0 }, .atom .add { at0 with scope := .dev }, .atom .add { at0 with kind := .acq },
    .atom .add { at0 with remote := true }, .atom .xor { at0 with t := .f32 }, .atom .inc { at0 with t := .s32 }, .acas { at0 with t := .s32 },
    .acas { at0 with d := ds 0 }, .red .add { at0 with d := dv 1 }, .red .add { at0 with a := .imm 0 }, .red .add { at0 with b := .imm32 0 },
    .red .exch at0, .red .add { at0 with kind := .acq, scope := .dev }] = true ∧ refuses [
    .bar hd (.v 0), .bar hd (.imm 16), .bars hd false (.imm 16) (.imm 1), .bars hd false (.imm 0) (.imm 0), .bars hd false (.imm 0) (.imm 33),
    .bars hd false (.imm 0) (.v 0), .qpush hd false 0 (.word (.v 0)), .qpop hdN false false 0 (.s 1), .qtry hdN false 0 1 (.pop false none),
    .qtry hd false 0 0 (.push (.word (.v 0))), .qgrant hd false 0 (.imm 0), .qgrant hd false 0 (.v 0), .dqpush hdN .dev 1 0 0,
    .dqpop hd .strand 0 0, .dqsteal hd .strand 0 0, .reggive hd (.imm 6), .reggive hd (.imm 0), .regclaim hd (.v 0), .regclaim hd (.imm 2),
    .gqrel hd 0 (.v 0), .gqrel hd 0 (.imm 64)] = true := by decide

/-- R342 to R376, R398 to R402, R419: tasks, groups, stamps, system, scale-out. -/
theorem test_wf_system : refuses [
    .launch hd 0 1 true, .joinc hd (dv 32), .qry hd (dv 1) .depth, .qry hd (dv 0) (.split (.v 0)), .taskqRd hd (dv 1) (.imm 0),
    .taskqRd hd (dv 0) (.imm 64), .taskqWr hd (.imm 64) (.s 0), .taskqWr hd (.imm 0) (.v 0), .sgreward hd (dv 32) 0 (.s 0) (.s 0),
    .sgreward hd (dv 0) 0 (.v 0) (.s 0), .sgreward hd (dv 0) 0 (.s 0) (.v 0), .sgwait hd (dv 32) 0, .sgcancel hd 0 (.v 0), .sginfo hd 0 (dv 1) 0,
    .sginfo hd 5 (dv 0) 0, .dld hd (dv 32) (.v 0) (.v 0), .dld hd (dv 0) (.imm 0) (.v 0), .dld hd (dv 0) (.v 0) (.s 0),
    .dset hd 0 (.imm 0) (.v 0) (.v 0), .dset hd 0 (.v 0) (.imm32 0) (.v 0), .dadd hd 0 (.v 0) (.v 0) (.s 0), .dmerge hd (dv 1) (.v 0) (.v 0),
    .dmerge hd (dv 0) (.imm 0) (.v 0), .dmerge hd (dv 0) (.v 0) (.v 1), .stepadv hd (dv 1) 0] = true ∧ refuses [
    .rng hd (dv 32) (.v 0) (.v 0), .rng hd (dv 0) (.imm32 0) (.v 0), .rngf hd (dv 0) (.v 0) (.v 1), .rngmask hd (dv 32) (.v 0) (.v 0) (.v 0),
    .rngmask hd (dv 0) (.v 32) (.v 0) (.v 0), .rngmask hd (dv 0) (.v 0) (.v 1) (.v 0), .rngmask hd (dv 0) (.v 0) (.v 0) (.imm32 0),
    .rngmaskSt hd (dv 1) (.v 0) (.v 0) (.v 0), .rngmaskSt hd (dv 0) (.imm32 0) (.v 0) (.v 0), .rngmaskSt hd (dv 0) (.v 0) (.v 1) (.v 0),
    .rngmaskSt hd (dv 0) (.v 0) (.v 0) (.imm32 0), .trap hd (.v 0), .brk hd (.v 0), .halt hd (.v 0), .tret hd (.v 0) none,
    .csrr hd (dv 32) 1, .csrr hd (ds 0) 0, .csrr hd (dv 0) 0x010, .csrw hd (.v 0) 0x40, .csrw hd (.s 0) 0x00D, .csrx hd .swap (dv 32) (.s 0) 0x40,
    .csrx hd .swap (dv 0) (.v 0) 0x40, .csrx hd .swap (dv 0) (.s 0) 0x43, .tlbinv hd (.va 0 (some (.v 0))), .tlbinv hd (.asid (some (.v 0))),
    .xput hd 0 0 0 0 false 1, .xget hd 0 0 0 0 false 1, .xsig hd (.v 0) 0 0 false, .xwait hd 0 (.v 0)] = true := by decide

/-- Well-formed neighbours of the terms above are accepted. -/
theorem test_wf_accepts : accepts [
    .nop { hd with g := ⟨1, true⟩ }, .brx hd (.v 30), .loop hd (dv 31) 0, .iadd false ⟨hd, .z64, dv 30, .v 30, .v 0⟩,
    .iadd false ⟨hd, .s8, dv 0, .v 0, .imm32 0x7F⟩, .imad ⟨hd, .z32, dv 0, .v 0, .v 31, .v 0⟩, .fwmerge hd 29 29 (.v 29),
    .qpack hd .rn false .e4m3 1 16 8, .qamax hd .f32 0 28 4, .ld (mem (.wide .w64 false) (dv 16) (.v 0) (.imm 0)),
    .ldu (mem (.wide .w64 false) (ds 56) (.s 0) (.imm 0)), .tbind hd (ds 0) 0 true 1 48, .tbind hd (ds 0) 0 false 1 32,
    .tcopy hd 0 0 0 cw0, .mzero hd 4 0 3 ch0, .mma mma0, .mdrain drain0, .atom .inc at0, .bars hd false (.imm 15) (.imm 32),
    .reggive hd (.imm 4), .csrr hd (dv 31) 0, .csrw hd (.s 0) 0x40, .xwait hd 0 (.s 0), .idem 0xFFFF 0] = true := by decide

/-! ## Decoding: words written out from the encodings of the spec, one for each family at least -/

/-- What the decoder reads from the `n` bytes of a word, lowest first. -/
def dec (n w : Nat) : Except DecodeError Instr := decode ⟨256, false, false, false⟩ (leBytes n w)

/-- R75: the words that R27, R35 and R81 give for `NOP` and `(!p1) BRA -40` (GRD 1001, LEN 01, IMM32 the offset). -/
theorem test_decode_control : dec 8 0 = .ok (.nop hd) ∧
    dec 12 0xFFFFFFD8_0000000000004805 = .ok (.bra { hd with g := ⟨1, true⟩ } 0xFFFFFFD8) ∧
    dec 8 0x0000000C013F0024 = .ok (.idem 0x13F 0xC) := ⟨rfl, rfl, rfl⟩

/-- Worked encodings of 02_encoding: `(p2) IADD.s32 v5, v3, -7` and `IADD.s32 s9, s2, 100000`. -/
theorem test_decode_integer : dec 8 0x002007E406051080 = .ok (.iadd false ⟨{ hd with g := ⟨2, false⟩ }, .s32, dv 5, .v 3, .imm (-7)⟩) ∧
    dec 12 0x000186A0_C020000004090081 = .ok (.iadd false ⟨hd, .s32, ds 9, .s 2, .imm32 0x186A0⟩) ∧
    dec 8 0x0860003C100C00F0 = .ok (.shfl .down ⟨hd, .z32, dv 12, .v 8, .v 15⟩) := ⟨rfl, rfl, rfl⟩

/-- R103: `FWMERGE.f32 v24, v24, v28` of 16_programs_a. -/
theorem test_decode_float : dec 8 0x00800070301801C4 = .ok (.fwmerge hd 24 24 (.v 28)) := rfl

/-- R131, R132: the words of 05_formats for `QSCALE.e4m3 v9, v8` and `QPACK.e4m3.g1 v64, v24`. -/
theorem test_decode_convert : dec 8 0x00B0000010090214 = .ok (.qscale ⟨hd, .e4m3, dv 9, .v 8⟩) ∧
    dec 16 0x1_00B000003040020E = .ok (.qpack hd .dyn false .e4m3 1 64 24) := ⟨rfl, rfl⟩

/-- R27, R30, R163, R164: `LD.z32 v6, [v2 + 16]`: LEN 01, OPC 0x090, DST 6, SA 2, SC the immediate 0 (0x180), ACC 101, IMM32 16. -/
theorem test_decode_memory : dec 12 (1 + 0x090 * 2 ^ 2 + 6 * 2 ^ 16 + 2 * 2 ^ 25 + 0x180 * 2 ^ 43 + 5 * 2 ^ 52 + 16 * 2 ^ 64) =
    .ok (.ld (mem w32 (dv 6) (.v 2) (.imm 0) (some 16))) := rfl

/-- 07_ordering: `FENCE.rel.dev`, `FENCEX.rel.dev cp, ls` (PA 00 is LS, PB 01 is CP), `ALIASFL [s4 + v7*4]`. -/
theorem test_decode_ordering : dec 8 0x0150000000000280 = .ok (.fence hd .dev .rel) ∧
    dec 8 0x0950000000000284 = .ok (.fencex hd .dev .rel .ls .cp) ∧
    dec 8 0x4100380008000288 = .ok (.aliasfl ⟨hd, 2, .s 4, .v 7, none⟩) := ⟨rfl, rfl, rfl⟩

/-- 08_tiles: `TWAIT t3` and `TCOPY.plane.e4m3 t1, s6, b2` with BEN. -/
theorem test_decode_tiles : dec 8 0x00000000060002A8 = .ok (.twait hd 3) ∧
    dec 16 0x16402_20001018020002B2 = .ok (.tcopy hd 1 6 2 { cw0 with ben := true, plane := true, ety := .e4m3 }) := ⟨rfl, rfl⟩

/-- 09_matrix: `MMA acc2, t1, t2, 0, 0, 0, 4` and `MREL`. -/
theorem test_decode_matrix : dec 16 0xC0000_000000080202030A = .ok (.mma ⟨hd, 2, 1, 2, 0, { pw0 with nk1 := 3 }, ch0⟩) ∧
    dec 8 0x318 = .ok (.mrel hd) := ⟨rfl, rfl⟩

/-- 10_transactions: `TXBEGIN.early s5`, `TXCOMMIT`, `TXGATE s8, s9`. -/
theorem test_decode_transactions : dec 8 0x8030000000050340 = .ok (.txbegin hd true (some (ds 5))) ∧
    dec 8 0x344 = .ok (.txcommit hd) ∧ dec 8 0x6000002410000354 = .ok (.txgate hd 8 (.s 9)) := ⟨rfl, rfl, rfl⟩

/-- 11_sync: `ATOM.add.z32 v6, [v2], v4`, `RED.rel.dev.add.f32 [s8 + 256], v9`, `QPUSH.cl q2, s5`, `REGGIVE 56`. -/
theorem test_decode_sync : dec 8 0x0010001004060360 = .ok (.atom .add ⟨hd, .z32, .relaxed, .strand, false, dv 6, .v 2, .v 4, none⟩) ∧
    dec 12 0x100_4B40002410000369 = .ok (.red .add ⟨hd, .f32, .rel, .dev, false, dv 0, .s 8, .v 9, some 256⟩) ∧
    dec 8 0x2030001404000374 = .ok (.qpush hd true 2 (.word (.s 5))) ∧ dec 8 0x0000000370000390 = .ok (.reggive hd (.imm 56)) :=
  ⟨rfl, rfl, rfl, rfl⟩

/-- 12_tasks: `LAUNCH s4, q3`, `QRY.split s5, 2`, `TASKQ.wr 5, s9`. -/
theorem test_decode_tasks : dec 16 0x3_40000000080003C2 = .ok (.launch hd 4 3 false) ∧
    dec 8 0x80000003040503D0 = .ok (.qry hd (ds 5) (.split (.imm 2))) ∧ dec 8 0x201000270A0003D8 = .ok (.taskqWr hd (.imm 5) (.s 9)) :=
  ⟨rfl, rfl, rfl⟩

/-- 13_groups_stamps: `SGFORK s8, s10, s12, 4, 0x3, 32`, `DLD v6, [s4 + v7]`, `RNGMASK.st [s6], v2, v4, s9`. -/
theorem test_decode_groups : dec 16 0x000007C0000000C3_60006028100003E2 = .ok (.sgfork hd 8 10 12 3 3 31) ∧
    dec 8 0x40003800080603F8 = .ok (.dld hd (dv 6) (.s 4) (.v 7)) ∧
    dec 8 0x8210481004060414 = .ok (.rngmaskSt hd (ds 6) (.v 2) (.v 4) (.s 9)) := ⟨rfl, rfl, rfl⟩

/-- 14_system: `TRET 1`, `BRK 7`, `TLBINV.va s6`, `CSRR s5, FPFLAGS`. -/
theorem test_decode_system : dec 8 0x0000000302000444 = .ok (.tret hd (.imm 1) none) ∧ dec 8 0x000000030E000454 = .ok (.brk hd (.imm 7)) ∧
    dec 8 0x404000000C000458 = .ok (.tlbinv hd (.va 6 none)) ∧ dec 12 0x42_8000000000050449 = .ok (.csrr hd (ds 5) 0x042) :=
  ⟨rfl, rfl, rfl, rfl⟩

/-- 15_host: `XPUT 5, s8, s9, s10, b1` (SA the local address s9, SB the remote offset s8) and `XWAIT s4, s5`. -/
theorem test_decode_scaleout : dec 16 0x3005_6000502012000482 = .ok (.xput hd 9 8 10 5 true 1) ∧
    dec 16 0x600000140800048E = .ok (.xwait hd 4 (.s 5)) := ⟨rfl, rfl⟩

/-- R30, R35, R40: operand code 0x104, guard 1000 and the reserved length are no instruction. -/
theorem test_decode_refuses : (dec 8 (0x020 * 2 ^ 2 + 0x104 * 2 ^ 25)).toOption = none ∧ (dec 8 (8 * 2 ^ 11)).toOption = none ∧
    (dec 8 3).toOption = none := ⟨rfl, rfl, rfl⟩

/-- R41, R280, R398, R346, R247: a latch as result of `TXBEGIN` names DST and an unused one MOD, KIND 11 and SEL 7 name MOD, an
unused SC of `MZERO` names EXT64. -/
theorem test_decode_field_codes : dec 8 (0x0D0 * 2 ^ 2 + 0x100 * 2 ^ 16 + 2 * 2 ^ 52) = .error (.illegalOperand .dst) ∧
    dec 8 (0x0D0 * 2 ^ 2 + 1 * 2 ^ 16) = .error (.illegalOperand .mod) ∧
    dec 8 (0x116 * 2 ^ 2 + 0x181 * 2 ^ 34 + 3 * 2 ^ 52) = .error (.illegalOperand .mod) ∧
    dec 8 (0x0F4 * 2 ^ 2 + 7 * 2 ^ 52 + 2 ^ 63) = .error (.illegalOperand .mod) ∧
    dec 16 (2 + 0x0C0 * 2 ^ 2 + 1 * 2 ^ 43) = .error (.illegalOperand .ext) := ⟨rfl, rfl, rfl, rfl, rfl⟩

/-! ## Small states -/

/-- The issue in progress: wave 3, its first path with strand 0, an 8-byte word at the entry point. -/
def c0 : Issue := { wave := 3, path := 0, mask := 1, pc := 0x1040, next := 0x1048 }
/-- The wave: one live strand; s1 to s4 hold addresses and numbers. -/
def w0 : Wave :=
  { wg := 2, idx := 0, win := 256, win0 := 256, strands := [(0, startStrand 0x1040)], paths := [{ born := 0, mask := 1 }], nextBorn := 1
    s := [(1, 0x1080), (2, 64), (3, 1), (4, 0x2000), (6, 0x1000)], ck := { mask := 1 } }
/-- The workgroup of it, on core 0. -/
def g0 : Wg := { grid := 1, lin := 0, x := 0, y := 0, z := 0, core := 0, waves := [3] }
/-- A context whose page table, at 0x8000, maps the first 16 GiB to themselves with every permission (R149 to R152). -/
def x0 : Ctx := { st := .running, ptbase := 0x8001, ptbaseNow := 0x8001 }
/-- The bytes of that table: a pointer to 0x4000, and there a leaf of size code 9. -/
def table : List Host.Cell := [(0x4000, 0xE7), (0x4001, 0x03), (0x8000, 0x01), (0x8001, 0x40)]
/-- The state with a wave, a workgroup and a grid of these. -/
def st (w : Wave) (g : Wg) (k : Grid) : State :=
  { State.reset with
    cur := some c0, fresh := 10, ctxs := [(0, x0)], grids := [(1, k)], wgs := [(2, g)], waves := [(3, w)], mem := { cells := table } }
/-- The plain one. -/
def s0 : State := st w0 g0 placedGrid
/-- A guard that no strand meets. -/
abbrev off : Hd := { g := { p := 1, neg := false }, nwb := false }

theorem iss0 : Issuing s0 c0 w0 := ⟨rfl, rfl⟩

/-! ## Hypotheses met: arithmetic, predicates, control -/

theorem met_IntegerArithmetic : ∃ o, aluOf (.iadd true ⟨hd, .s8, dv 255, .v 3, .imm (-64)⟩) = some o ∧ Issuing s0 c0 w0 ∧
    latchOk w0 c0.mask o.srcs = true := ⟨_, rfl, iss0, by decide⟩

theorem met_FloatingPointResults : (∃ o, floatOf (.ffma .rz ⟨hd, .f32, dv 0, .v 1, .v 2, .v 3⟩) = some o ∧ Issuing s0 c0 w0 ∧
      latchOk w0 c0.mask o.srcs = true) ∧
    ∃ o, convOf (.cvt ⟨hd, .rn, true, .e4m3, .f32, dv 0, .v 1⟩) = some o ∧ Issuing s0 c0 w0 ∧ latchOk w0 c0.mask o.srcs = true :=
  ⟨⟨_, rfl, iss0, by decide⟩, _, rfl, iss0, by decide⟩

theorem met_MovesAndMasks : (∃ o, moveOf (.movi hd .z64 (dv 0) 0xFFFFFFFF true) = some o ∧ Issuing s0 c0 w0 ∧
      latchOk w0 c0.mask o.srcs = true) ∧
    ∃ o, maskOfPath c0.mask (.paths hd (ds 63) true) = some o ∧ Issuing s0 c0 w0 := ⟨⟨_, rfl, iss0, by decide⟩, _, rfl, iss0⟩

theorem met_PredicatesAndRuns : (∃ o, predOf (.icmp .lt ⟨hd, .s32, 7, .v 0, .imm (-64)⟩) = some o ∧ Issuing s0 c0 w0 ∧
      latchOk w0 c0.mask o.srcs = true) ∧
    ∃ o, runOf (.qunpackRows hd .q8 232 0 (.imm 0) (.imm 0)) = some o ∧ Issuing s0 c0 w0 ∧ latchOk w0 c0.mask o.srcs = true ∧
      ∀ j, (w0.enabled c0.mask o.h).getLsbD j = true → o.ok s0 w0 j :=
  ⟨⟨_, rfl, iss0, by decide⟩, _, rfl, iss0, by decide, fun _ _ =>
    (show (0 : BitVec 32).extractLsb' 24 8 = (0 : BitVec 32).extractLsb' 0 8 by decide)⟩

/-- The strand's registers v2, v3 hold an address. -/
def jump (a : BitVec 64) : Wave := { w0 with s := [(1, a)] }

theorem met_ControlTransfersGoOn : (∃ o, transferOf (.loop hd (dv 0) 0xFFFFFFC0) = some o ∧ Issuing s0 c0 w0 ∧
      latchOk w0 c0.mask o.srcs = true ∧ (∃ j, j < 32 ∧ c0.mask.getLsbD j = true ∧ (w0.strand j).live = true) ∧
      ∀ j, (w0.enabled c0.mask o.h).getLsbD j = true → targetOk (o.target c0 w0 j)) ∧
    ∀ a : BitVec 64, a ∈ [(0x1042 : BitVec 64), 0x105C, 0x100000000000000] → ∃ o, transferOf (.brx hd (.s 1)) = some o ∧
      Issuing (st (jump a) g0 placedGrid) c0 (jump a) ∧ latchOk (jump a) c0.mask o.srcs = true ∧
      ((jump a).enabled c0.mask o.h).getLsbD 0 = true ∧ ¬targetOk (o.target c0 (jump a) 0) ∧
      ∀ k, k < 0 → ((jump a).enabled c0.mask o.h).getLsbD k = true → targetOk (o.target c0 (jump a) k) := by
  refine ⟨⟨_, rfl, iss0, by decide, ⟨0, by decide⟩, fun j _ => ?_⟩, fun a h => ⟨_, rfl, ⟨rfl, rfl⟩, ?_, ?_, ?_, by simp⟩⟩
  · show targetOk (nearTarget c0 0xFFFFFFC0)
    unfold targetOk
    decide
  all_goals simp only [List.mem_cons, List.not_mem_nil, or_false] at h
  all_goals rcases h with rfl | rfl | rfl <;> (try unfold targetOk) <;> decide

theorem met_ForksComplete : Issuing s0 c0 w0 ∧ latchOk w0 c0.mask [.v 0, .s 1] = true ∧ (dv 0).s = false ∧
    (∀ j, j < 32 → c0.mask.getLsbD j = true → (w0.strand j).live = true) ∧
    ∀ j, (w0.enabled c0.mask hd).getLsbD j = true → targetOk (rd64 w0 j (.s 1)) := by
  refine ⟨iss0, by decide, rfl, by decide, fun j _ => ?_⟩
  show targetOk 0x1080
  unfold targetOk
  decide

/-- Two strands, each on its own path. -/
def wTwo : Wave :=
  { w0 with
    strands := [(0, startStrand 0x1040), (1, startStrand 0x1040)]
    paths := [{ born := 0, mask := 1 }, { born := 1, mask := 2 }], nextBorn := 2 }

theorem met_StrandsEnd :
    (Issuing (st wTwo g0 placedGrid) c0 wTwo ∧ wTwo.st = .running ∧
      (∀ j, j < 32 → c0.mask.getLsbD j = true → (wTwo.strand j).live = true) ∧
      (∃ i, i < 32 ∧ (wTwo.strand i).live = true ∧ (wTwo.enabled c0.mask hd).getLsbD i = false) ∧
      ((st wTwo g0 placedGrid).wgD wTwo.wg).bars = []) ∧
    Issuing s0 c0 w0 ∧ w0.st = .running ∧ (∀ i, i < 32 → (w0.strand i).live = true → (w0.enabled c0.mask hd).getLsbD i = true) ∧
    w0.enabled c0.mask hd ≠ 0 ∧ w0.enabled c0.mask off = 0 :=
  ⟨⟨⟨rfl, rfl⟩, rfl, by decide, ⟨1, by decide⟩, rfl⟩, iss0, rfl, by decide, by decide, by decide⟩

/-- A transactional kernel. -/
def txGrid : Grid := { placedGrid with hdr := some { placedHdr with txn := true } }
/-- An attempt that may write the page at 0x1000. -/
def txWg : Wg := { g0 with tx := { st := .opened, writes := [{ base := 0x1000, rows := 1, rowBytes := 4096, pitch := 0, mode := .write }] } }
/-- Its wave. -/
def txWave : Wave := { w0 with joined := true }
/-- The state of the attempt. -/
def sTx : State := st txWave txWg txGrid
/-- A grid in deterministic mode. -/
def detGrid : Grid := { placedGrid with lat := { detctl := 1 } }
/-- The state of it. -/
def sDet : State := st w0 g0 detGrid

theorem met_IdemYieldAndNop :
    (Issuing s0 c0 w0 ∧ w0.dfault = none ∧ s0.inAttempt w0 = false ∧ w0.enabled c0.mask off = 0 ∧ w0.enabled c0.mask hd ≠ 0) ∧
    (Issuing sTx c0 txWave ∧ txWave.dfault = none ∧ sTx.inAttempt txWave = true) ∧
    (let d : DeferredFault := { cause := .tileFormat, pc := 0x1000 }; let w := { w0 with dfault := some d };
      Issuing (st w g0 placedGrid) c0 w ∧ w.dfault = some d) :=
  ⟨⟨iss0, rfl, by decide, by decide, by decide⟩, ⟨⟨rfl, rfl⟩, rfl, by decide⟩, ⟨rfl, rfl⟩, rfl⟩

/-! ## Hypotheses met: memory -/

/-- `LD.z32 v6, [s1 + 60]`: the last word of a line. -/
def ld0 : Mem := mem w32 (dv 6) (.s 1) (.imm 0) (some 60)
/-- The load in flight. -/
def flying : Load :=
  { wave := 3, wg := 2, ctx := 0, i := .ld ld0, ages := [], elems := [(0, [some (0x10BC, 0x10BC)])], mask := 1, priv := 0, pc := 0x1040 }
/-- A store of it. -/
def stored0 : Mem := mem (.acc .z32 (.sync .dev)) (dv 6) (.s 1) (.imm 0) (some 60)

theorem checks0 (need : Need) : checks s0 w0 4 need 0x10BC 0x10BC := by
  cases need <;> exact ⟨by decide, by decide, rfl⟩

theorem met_LoadsIssue : (∃ o, loadOf (.ld { ld0 with h := off }) = some o ∧ Issuing s0 c0 w0 ∧ latchOk w0 c0.mask o.srcs = true ∧
      w0.enabled c0.mask o.h = 0) ∧
    ∃ o, loadOf (.ld ld0) = some o ∧ Issuing s0 c0 w0 ∧ latchOk w0 c0.mask o.srcs = true ∧
    w0.enabled c0.mask o.h ≠ 0 ∧ ∀ j ∈ o.slots (w0.enabled c0.mask o.h), ∀ va, some va ∈ o.elems s0 w0 j →
      checks s0 w0 o.n .load va va.toNat := by
  refine ⟨⟨_, rfl, iss0, by decide, by decide⟩, _, rfl, iss0, by decide, by decide, fun j _ va h => ?_⟩
  have : va = 0x10BC := (Option.some.inj (List.mem_singleton.mp h)).trans rfl
  subst this
  exact checks0 .load

/-- An access that fails its first check: above 2^56, not aligned, not mapped. -/
def failing (a : BitVec 64) : Wave := { w0 with s := [(1, a)] }

theorem met_AccessChecksTrap (a : BitVec 64) (f : Flt)
    (h : (a, f) ∈ [((0x100000000000000 : BitVec 64), (⟨.translation, 2⟩ : Flt)), (0x1082, ⟨.misaligned, 0⟩), (0x400000000, ⟨.translation, 0⟩)]) :
    let w := failing a
    let s := st w g0 placedGrid
    let i := Instr.st (mem w32 (dv 6) (.s 1) (.imm 0))
    ∃ o, storeOf i = some o ∧ Issuing s c0 w ∧ latchOk w c0.mask o.srcs = true ∧ s.inAttempt w = false ∧ s.txPending w.wg = false ∧
      o.slots (w.enabled c0.mask o.h) = [] ++ 0 :: [] ∧ w.enabled c0.mask o.h ≠ 0 ∧ o.elems s w 0 = [] ++ some a :: [] ∧
      failure s w o.n .store a = some f := by
  simp only [List.mem_cons, List.not_mem_nil, or_false, Prod.mk.injEq] at h
  rcases h with ⟨rfl, rfl⟩ | ⟨rfl, rfl⟩ | ⟨rfl, rfl⟩ <;>
    exact ⟨_, rfl, ⟨rfl, rfl⟩, by decide, by decide, by decide, by decide, by decide, by decide, rfl⟩

theorem met_LoadedDataArrive : let s := { s0 with loads := [(5, flying)] }
    s.loads.get? 5 = some flying ∧ s.waves.get? flying.wave = some w0 ∧ s.loadReady 5 flying = true ∧ s.loadPoison flying = none ∧
      InFlight flying ∧ s.memWf = true := by
  have one : ∀ {va : BitVec 64} {pa : Nat}, some (va, pa) ∈ [some ((0x10BC : BitVec 64), 0x10BC)] → pa = 0x10BC := fun h =>
    (Prod.mk.inj (Option.some.inj (List.mem_singleton.mp h))).2
  refine ⟨rfl, rfl, by decide, by decide, ⟨by simp [flying], fun x h va pa m => ?_, fun x hx y hy va pa vb pb m n a b k p c e => ?_, trivial⟩,
    by decide⟩
  · obtain rfl := List.mem_singleton.mp h
    obtain rfl := one m
    decide
  · obtain rfl := List.mem_singleton.mp hx
    obtain rfl := List.mem_singleton.mp hy
    obtain rfl := one m
    obtain rfl := one n
    exact ⟨k, p⟩

/-- Nothing of the wave is outstanding in a state without requests and loads. -/
theorem calm_of {s : State} (hr : s.reqs = []) (hl : s.loads = []) (u p : Nat) : calm s u p :=
  ⟨fun _ h => absurd (hr ▸ h) List.not_mem_nil, fun _ h => absurd (hl ▸ h) List.not_mem_nil⟩

/-- The store's accesses pass. -/
theorem goes0 {s : State} {w : Wave} {c : Issue} {m : MemTy} (hr : s.reqs = []) (hl : s.loads = [])
    (hs : w.sreg 1 = 0x1080) (hn : memBytes m = 4) (hc : checks s w 4 .store 0x10BC 0x10BC) (ht : s.stalledAt 0x10BC = false) :
    ∀ o, storeOf (.st { stored0 with m := m }) = some o → o.goes s c w (·.toNat) := by
  rintro o h j - va hm
  obtain rfl := Option.some.inj h
  have : va = 0x10BC := (Option.some.inj (List.mem_singleton.mp hm)).trans (by
    show effective w j 0 (.s 1) (.imm 0) (some 60) = 0x10BC
    have e : rd64 w j (.s 1) = 0x1080 := hs
    have z : rd32 w j (.imm 0) = 0 := rfl
    simp only [effective, e, z]
    rfl)
  subst this
  refine ⟨?_, ht, calm_of hr hl _ _⟩
  show checks s w (memBytes m) .store 0x10BC 0x10BC
  rw [hn]
  exact hc

/-- A plain store that has issued. -/
def wreq0 : AsuReq :=
  { asu := 0, wave := 3, wg := 2, ctx := 0, path := 0, slots := 1, op := .write [7, 8], va := 0x10BE, pa := 0x10BE, priv := 0
    pc := 0x1040, next := 0x1048, seq := 5 }

theorem met_StoresWriteMemory :
    (∃ o, storeOf (.st stored0) = some o ∧ Issuing s0 c0 w0 ∧ latchOk w0 c0.mask o.srcs = true ∧ s0.memWf = true ∧
      s0.inAttempt w0 = false ∧ s0.txPending w0.wg = false ∧ s0.isDet w0.wg = false ∧ s0.depOf w0.wg = none ∧
      o.release.isSome = true ∧ s0.posted c0.wave c0.mask = false ∧ o.goes s0 c0 w0 (·.toNat) ∧
      (∀ p ∈ [0x10BC, 0x10BF, 0x10BB, 0x10C0], sameWay s0.hub 0x10BC p ∧ ownLine s0 (dieOf (s0.coreOf w0)) p)) ∧
    (∃ o, storeOf (.st { stored0 with m := w32 }) = some o ∧ Issuing { s0 with cur := some { c0 with late := true } } { c0 with late := true } w0 ∧
      o.release = none ∧ o.goes { s0 with cur := some { c0 with late := true } } { c0 with late := true } w0 (·.toNat)) ∧
    (let s := { s0 with reqs := [(5, wreq0)] };
      s.reqs.get? 5 = some wreq0 ∧ wreq0.op = .write [7, 8] ∧ wreq0.d = none ∧ wreq0.precise = false ∧ wreq0.pa % 64 + 2 ≤ 64 ∧
        s.reqReady 5 wreq0 = true ∧ s.memWf = true ∧
        ∀ p ∈ [0x10BE, 0x10BF, 0x10C0], sameWay s.hub wreq0.pa p ∧ ownLine s (dieOf (s.wgD 2).core) p) := by
  have own : ∀ s : State, s.mem.l2 = [] → ∀ die p, ownLine s die p := fun s h die p d a _ x hx => absurd (h ▸ hx) List.not_mem_nil
  refine ⟨⟨_, rfl, iss0, by decide, by decide, by decide, by decide, by decide, by decide, rfl, by decide,
      goes0 rfl rfl rfl rfl (checks0 .store) (by decide) _ rfl, fun p h => ⟨?_, own _ rfl _ _⟩⟩,
    ⟨_, rfl, ⟨rfl, rfl⟩, rfl, goes0 rfl rfl rfl rfl ⟨by decide, by decide, rfl⟩ (by decide) _ rfl⟩,
    rfl, rfl, rfl, rfl, by decide, by decide, by decide, fun p h => ⟨?_, own _ rfl _ _⟩⟩
  all_goals
    simp only [List.mem_cons, List.not_mem_nil, or_false] at h
    rcases h with rfl | rfl | rfl | rfl <;> exact .inl ⟨_, _, _, rfl, rfl⟩

theorem met_StoresHeldBack : (∃ o, storeOf (.st stored0) = some o ∧ Issuing sTx c0 txWave ∧ latchOk txWave c0.mask o.srcs = true ∧
      sTx.inAttempt txWave = true ∧ sTx.isDet txWave.wg = false ∧ sTx.wgs.get? (sTx.txHome txWave.wg) = some txWg ∧ txWg.task = none ∧
      sTx.posted c0.wave c0.mask = false ∧ o.goes sTx c0 txWave (·.toNat) ∧
      ∀ j ∈ slotsOf (txWave.enabled c0.mask o.h), ∀ va, some va ∈ o.elems sTx txWave j →
        sTx.declared txWave va o.n = true ∧ ∃ d, place va.toNat = .cell d .cached) ∧
    ∃ o, storeOf (.st { stored0 with m := w32 }) = some o ∧ o.release = none ∧ Issuing sDet c0 w0 ∧
      latchOk w0 c0.mask o.srcs = true ∧ sDet.inAttempt w0 = false ∧ sDet.txPending w0.wg = false ∧ sDet.isDet w0.wg = true ∧
      sDet.wgs.get? w0.wg = some g0 ∧ g0.task = none ∧ o.goes sDet c0 w0 (·.toNat) := by
  refine ⟨⟨_, rfl, ⟨rfl, rfl⟩, by decide, by decide, by decide, rfl, rfl, by decide,
      goes0 rfl rfl rfl rfl ⟨by decide, by decide, rfl⟩ (by decide) _ rfl, fun j _ va h => ?_⟩,
    _, rfl, rfl, ⟨rfl, rfl⟩, by decide, by decide, by decide, by decide, rfl, rfl,
    goes0 rfl rfl rfl rfl ⟨by decide, by decide, rfl⟩ (by decide) _ rfl⟩
  have : va = 0x10BC := (Option.some.inj (List.mem_singleton.mp h)).trans rfl
  subst this
  exact ⟨by decide, _, rfl⟩

/-- The last word of the local store. -/
def local0 : Mem := mem w32 (dv 6) (.imm 0) (.imm 0) (some 4092)
/-- The line of s1. -/
def line0 : Addr := ⟨hd, 0, .s 1, .imm 0, none⟩

theorem met_LocalAccessesAndFlushes : Issuing s0 c0 w0 ∧
    (latchOk w0 c0.mask [local0.a, local0.c] = true ∧ w0.enabled c0.mask local0.h ≠ 0 ∧ s0.wgs.get? w0.wg = some g0 ∧
      ∀ j, (w0.enabled c0.mask local0.h).getLsbD j = true → localOk s0 w0 local0 j 4092) ∧
    latchOk w0 c0.mask [line0.a, line0.c] = true ∧ s0.memWf = true ∧ s0.txPending w0.wg = false ∧ s0.mem.poison = [] ∧
    s0.posted c0.wave (w0.enabled c0.mask line0.h) = false ∧ agreed s0.mem 66 ∧ (∃ d, place 0x1080 = .cell d .cached ∧ d / 64 = 66) ∧
    ∀ need, need ∈ [Need.load, Need.loadOrFetch] → ∀ j, (w0.enabled c0.mask line0.h).getLsbD j = true →
      s0.translate (s0.whoLs w0) need (effective w0 j line0.scale line0.a line0.c line0.off) = .ok 0x1080 := by
  refine ⟨iss0, ⟨by decide, by decide, rfl, fun j _ => ⟨rfl, by decide, by decide⟩⟩, by decide, by decide, by decide, rfl, by decide,
    ⟨by decide, fun _ h => absurd h List.not_mem_nil⟩, ⟨_, rfl, by decide⟩, ?_⟩
  intro need h j _
  have e : effective w0 j line0.scale line0.a line0.c line0.off = 0x1080 := rfl
  rw [e]
  cases need <;> rfl

/-- An atomic of the wave that its unit has not performed. -/
def req0 : AsuReq :=
  { asu := 0, wave := 3, wg := 2, ctx := 0, path := 0, slots := 1, op := .rmw .add .z32, va := 0x1080, pa := 0x1080, x := 5, priv := 0
    d := some (dv 6), pc := 0x1040, next := 0x1048, seq := 5 }

theorem met_FencesOrder : Issuing s0 c0 w0 ∧ w0.enabled c0.mask hd ≠ 0 ∧ s0.isDet w0.wg = false ∧ s0.posted c0.wave c0.mask = false ∧
    s0.postedReads c0.wave c0.mask = false ∧ s0.txPending w0.wg = false ∧ s0.pathBusy c0.wave c0.mask .ls = false ∧ s0.pathBusy c0.wave c0.mask .xo = false ∧
    (let s := { s0 with reqs := [(5, req0)] }; Issuing s c0 w0 ∧ s.isDet w0.wg = false ∧ s.posted c0.wave c0.mask = true ∧
      s.postedReads c0.wave c0.mask = true) ∧
    Issuing sDet c0 w0 ∧ sDet.isDet w0.wg = true ∧ c0.go = false ∧ Scope.cl.wide = true := by
  refine ⟨iss0, by decide, by decide, by decide, by decide, by decide, by decide, by decide, ⟨⟨rfl, rfl⟩, by decide, by decide, by decide⟩, ⟨rfl, rfl⟩,
    by decide, rfl, by decide⟩

/-! ## Hypotheses met: tiles, copies, barriers, tokens -/

/-- A plain tile. -/
def tile0 : Tile := { cluster := 0, ctx := 0, st := .ready, planar := false, rows := 1, width := 32 }
/-- A planar one. -/
def tileP : Tile := { cluster := 0, ctx := 0, st := .ready, planar := true, rows := 64, width := 96 }
/-- A workgroup with handle 1 and region 1: one row of 64 bytes at 0x1080. -/
def gTile : Wg :=
  { g0 with
    handles := [(1, 5), (2, 6)], regions := [(1, { base := 0x1080, rows := 1, rowBytes := 64, pitch := 0, mode := .rw })]
    tbars := [(15, { gen := 7, part := 1, arrived := 0, bytes := 0 })] }
/-- The state with two tiles. -/
def stT (w : Wave) (x y : Tile) : State := { st w gTile placedGrid with tiles := [(5, x), (6, y)] }

theorem atT (w : Wave) (x y : Tile) (h : w.wg = 2) (e : w.enabled c0.mask hd ≠ 0) : At (stT w x y) c0 w gTile hd :=
  ⟨⟨rfl, rfl⟩, h ▸ rfl, e⟩

theorem met_TileHandles : At s0 c0 w0 g0 hd ∧ ¬(1 < (2 : BitVec 20).toNat ∧ (w0.sreg (2 : BitVec 6).toNat).toInt < ((64 : BitVec 20).toNat : Int)) ∧
    ((s0.wgD (s0.txHome w0.wg)).tx.st = .none) ∧ s0.tilesIn (s0.coreOf w0 / 4) < 512 ∧ g0.handles.get? (31 : BitVec 5).toNat = none ∧
    (let s := { s0 with tiles := (List.range 512).map fun k => (k + 1, tile0) }; At s c0 w0 g0 hd ∧ 512 ≤ s.tilesIn (s.coreOf w0 / 4)) ∧
    (let s := stT w0 { tile0 with rows := 4095, width := 65535 } tile0;
      At s c0 w0 gTile hd ∧ allowed s w0 ∧ w0.dfault = none ∧ names s gTile 1 5 { tile0 with rows := 4095, width := 65535 } ∧
        tile0.st = .ready ∧ tile0.err = false) := by
  refine ⟨⟨iss0, rfl, by decide⟩, by decide, by decide, by decide, by decide, ⟨⟨⟨rfl, rfl⟩, rfl, by decide⟩, by decide +kernel⟩,
    atT _ _ _ rfl (by decide), .inr (by decide), rfl, ⟨rfl, rfl⟩, rfl, rfl⟩

/-- A copy with a barrier. -/
def cwB : CopyWord := { cw0 with ben := true }

/-- A copy in flight into tile 5, its token to be consumed, or started. -/
def copy0 (token : Bool) : Copy :=
  { wave := 3, wg := 2, ctx := 0, cluster := 0, kind := .load, cw := { cw0 with wen := token }, tile := 5
    geo := { base := 0x1080, pitch := 0, vrows := 1, vbytes := 1 }, priv := 0, fmtchk := true, token := token, started := !token }

theorem met_CopiesStartAndComplete :
    (let s := stT w0 tile0 tileP;
      At s c0 w0 gTile hd ∧ allowed s w0 ∧ names s gTile 1 5 tile0 ∧ gTile.shared.getLsbD (1 : BitVec 5).toNat = false ∧
        (∃ p s1, s.planCopy w0 1 (.s ((5 : BitVec 6).setWidth 8)) cwB false = .ok (p, s1) ∧ tile0.planar = p.cw.plane) ∧
        (∃ p s1, s.planCopy w0 1 (.s ((5 : BitVec 6).setWidth 8)) cwB true = .ok (p, s1)) ∧ s.inAttempt w0 = false ∧
        (gTile.tbars.get? (15 : BitVec 4).toNat).isSome = true ∧ quiet tile0 ∧ tile0.err = false ∧ s.copiesOf c0.wave < 64) ∧
    (let s := stT w0 tileP { tile0 with rows := 64, width := 96 };
      let cw : CopyWord := { cwB with plane := true, ety := .e4m3 };
      names s gTile 1 5 tileP ∧ names s gTile 2 6 { tile0 with rows := 64, width := 96 } ∧ (cw.rect tileP).1 ≤ 64 ∧ (cw.rect tileP).2 ≤ 96 ∧
        quiet tileP) ∧
    (let w := { w0 with toks := [(0, 1)] };
      let s := { stT w tile0 tileP with copies := [(9, copy0 true)] };
      s.copies.get? 9 = some (copy0 true) ∧ s.waves.get? 3 = some w ∧ (copy0 true).token = true ∧ 0 < w.tok 0 ∧ s.olderConsumer 3 0 9 = false) ∧
    (let s := { stT w0 tile0 tileP with copies := [(9, copy0 false)] };
      s.copies.get? 9 = some (copy0 false) ∧ s.tiles.get? 5 = some tile0 ∧ (copy0 false).kind = .load ∧ (copy0 false).started = true ∧
        (copy0 false).bad = none ∧ tile0.released = false ∧ s.depOf 2 = none ∧ (copy0 false).geo.valid (1, 32) = (1, 1) ∧
        ∀ r, r < 1 → ∀ n, n < 1 → ∃ pa, s.translate (s.whoCp 0 0 0) .load ((copy0 false).geo.row r + BitVec.ofNat 64 n) = .ok pa ∧
          s.poisoned pa 1 = false) := by
  refine ⟨⟨atT _ _ _ rfl (by decide), .inr (by decide), ⟨rfl, rfl⟩, by decide, ⟨_, _, rfl, rfl⟩, ⟨_, _, rfl⟩, by decide, by decide,
      ⟨.inl rfl, rfl⟩, rfl, by decide⟩, ⟨⟨rfl, rfl⟩, ⟨rfl, rfl⟩, by decide, by decide, .inl rfl, rfl⟩, ⟨rfl, rfl, rfl, by decide, by decide⟩,
    rfl, rfl, rfl, rfl, rfl, rfl, rfl, by decide, fun r hr n hn => ?_⟩
  obtain rfl : r = 0 := by omega
  obtain rfl : n = 0 := by omega
  exact ⟨_, rfl, by decide⟩

theorem met_BarriersTokensAndBatches :
    (let s := stT w0 tile0 tileP; At s c0 w0 gTile hd ∧ allowed s w0 ∧ (1 : BitVec 32).toNat < 2 ^ gTile.waves.length ∧
      s.posted c0.wave 0xFFFFFFFF = false ∧ w0.dfault = none ∧ w0.tok 7 < 255 ∧ w0.sealedB.length < 16 ∧
      w0.sealedB.length ≤ (rd32 w0 0 (.imm 0)).toNat ∧
      ∃ x, gTile.tbars.get? (15 : BitVec 4).toNat = some x ∧ mayArrive x w0.idx ∧ 0 < (x.gen - rd32 w0 0 (.imm 6)).toInt ∧
        (x.gen - rd32 w0 0 (.imm 7)).toInt ≤ 0) ∧
    (let w : Wave := { w0 with toks := [(7, 1)], nextB := 2, sealedB := [(1, [9])] };
      let s := stT w tile0 tileP;
      At s c0 w gTile hd ∧ 0 < w.tok 7 ∧ s.olderConsumer c0.wave 7 10 = false ∧ (rd32 w 0 (.imm 0) - w.nextB).toInt < 0 ∧
        0 < ((match w.sealedB with | [] => w.nextB | b :: _ => b.1) - rd32 w 0 (.imm 0)).toInt) := by
  refine ⟨⟨atT _ _ _ rfl (by decide), .inr (by decide), by decide, by decide, rfl, by decide, by decide, by decide, _, rfl,
    ⟨by decide, by decide⟩, by decide, by decide⟩, atT _ _ _ rfl (by decide), by decide, by decide, by decide, by decide⟩

/-! ## Hypotheses met: matrix -/

theorem readyT (w : Wave) (x y : Tile) (h : w.wg = 2) (e : w.enabled c0.mask hd = w.liveMask) (f : w.dfault = none)
    (t : allowed (stT w x y) w) : Ready (stT w x y) c0 w gTile hd := ⟨⟨rfl, rfl⟩, h ▸ rfl, e, t, f⟩

/-- A plain tile that a load into an accumulator reads to its last byte. -/
def tileC : Tile := { tile0 with rows := 64, width := 256 }
/-- An `MMA` of handles 1 and 2. -/
def mma1 : Mma := { mma0 with ta := 1, tb := 2, tc := 2 }
/-- The other half of a pair: a workgroup of odd index. -/
def gOdd : Wg := { gTile with lin := 1 }

theorem met_MatrixCommandsPost :
    (let s := stT w0 tileC tileP; Ready s c0 w0 gTile hd ∧ tableFree s w0 ∧ readyTile s gTile 1 5 tileC ∧ tileC.planar = false ∧
      (0 : BitVec 12).toNat + 64 * ((0 : BitVec 1).toNat + 1) ≤ tileC.rows ∧ 64 * ((0 : BitVec 2).toNat + 1) * 4 ≤ tileC.width) ∧
    (let s := stT w0 tileP tileP; Ready s c0 w0 gTile hd ∧ readyTile s gTile 1 5 tileP ∧ readyTile s gTile 2 6 tileP ∧
      formA mma1.p 1 tileP = true ∧ formB mma1.p 1 tileP = true ∧
      (third { mma1 with p := { pw0 with opk := 2 } } = true ∧ formC { pw0 with opk := 2 } 1 1 (some tileP) tileP = true) ∧
      s.inAttempt w0 = false) ∧
    (let b := { tileP with rows := 256 }; let s := stT w0 { tileP with rows := 128 } b;
      Ready s c0 w0 gTile hd ∧ tableFree s w0 ∧ gTile.lin % 2 = 0 ∧ formA pw0 2 { tileP with rows := 128 } = true ∧ formB pw0 4 b = true) ∧
    (let b := { tileP with rows := 256 }; let s := { st w0 gOdd placedGrid with tiles := [(5, tileP), (6, b)] };
      Ready s c0 w0 gOdd hd ∧ tableFree s w0 ∧ gOdd.lin % 2 = 1 ∧ readyTile s gOdd 2 6 b ∧ formB pw0 4 b = true) ∧
    (let s := stT w0 tileC tileP; let o : Drain := { drain0 with td := 1 };
      Ready s c0 w0 gTile o.h ∧ tableFree s w0 ∧ ∃ fs, s.tilesOf w0.wg o.fills = some fs ∧ fs = [(5, tileC)] ∧
        (∀ t ∈ o.fills, gTile.shared.getLsbD t.toNat = false) ∧
        (∀ x ∈ fs.zip o.needs, x.1.2.planar = false ∧ x.2.1 ≤ x.1.2.rows ∧ x.2.2 ≤ x.1.2.width) ∧ s.drainGeo w0 o = .ok none ∧
        s.drainDeclared w0 o none = true ∧ ∀ x ∈ fs, quiet x.2) ∧
    (let x := { tileP with width := 48 }; let s := stT w0 x tileP;
      Ready s c0 w0 gTile hd ∧ tableFree s w0 ∧ names s gTile 1 5 x ∧ readyTile s gTile 2 6 tileP ∧ tileP.width % 48 = 0 ∧
        x.rows = tileP.rows ∧ 2 * x.width = tileP.width ∧ quiet x) := by
  have a : ∀ x y, allowed (stT w0 x y) w0 := fun _ _ => .inr rfl
  have f : (0 : Nat) < 32 := by decide
  refine ⟨⟨readyT _ _ _ rfl (by decide) rfl (a _ _), f, ⟨⟨rfl, rfl⟩, rfl, rfl⟩, rfl, by decide, by decide⟩,
    ⟨readyT _ _ _ rfl (by decide) rfl (a _ _), ⟨⟨rfl, rfl⟩, rfl, rfl⟩, ⟨⟨rfl, rfl⟩, rfl, rfl⟩, by decide, by decide, by decide, by decide⟩,
    ⟨readyT _ _ _ rfl (by decide) rfl (a _ _), f, by decide, by decide, by decide⟩,
    ⟨⟨⟨rfl, rfl⟩, rfl, by decide, .inr (by decide), rfl⟩, f, by decide, ⟨⟨rfl, rfl⟩, rfl, rfl⟩, by decide⟩,
    ⟨readyT _ _ _ rfl (by decide) rfl (a _ _), f, _, rfl, rfl, by decide, by decide, rfl, by decide, fun x h => ?_⟩,
    readyT _ _ _ rfl (by decide) rfl (a _ _), f, ⟨rfl, rfl⟩, ⟨⟨rfl, rfl⟩, rfl, rfl⟩, by decide, rfl, by decide, .inl rfl, rfl⟩
  obtain rfl := List.mem_singleton.mp h
  exact ⟨.inl rfl, rfl⟩

theorem met_BatonStatusAndFaults :
    (let s := stT w0 tile0 tileP; Ready s c0 w0 gTile hd ∧ (rdU w0 (.imm 0)).toNat < 32 ∧
      ((s.liveWaves w0.wg).find? fun v => (s.waveD v).idx == (rdU w0 (.imm 0)).toNat) = some 3 ∧ (s.engineD (s.coreOf w0 / 4)).baton = none ∧
      (s.entries.filter fun x => x.2.cluster == s.coreOf w0 / 4).length ≤ 32 ∧ (s.entries.filter fun x => x.2.wave == c0.wave).length < 64) ∧
    (let d : DeferredFault := { cause := .tileFormat, pc := 0x1000 }; let w := { w0 with dfault := some d }; let s := stT w tile0 tileP;
      Issuing s c0 w ∧ s.wgs.get? w.wg = some gTile ∧ w.dfault = some d ∧ allowed s w ∧ w.enabled c0.mask hd ≠ 0 ∧
        w.enabled c0.mask hd = w.liveMask) :=
  ⟨⟨readyT _ _ _ rfl (by decide) rfl (.inr (by decide)), by decide, by decide, by decide, by decide, by decide⟩,
    ⟨rfl, rfl⟩, rfl, rfl, .inr (by decide), by decide, by decide⟩

/-- An entry of the wave's, with `n` passes granted. -/
def entry0 (cmd : MxCmd) (n : Nat) (busy : Bool) : Entry :=
  { cluster := 0, wave := 3, wg := 2, ctx := 0, cmd := cmd, ch := ch0, priv := 0, pc := 0x1000, marked := false, token := false
    total := 1, granted := n, busy := busy, done := 0 }
/-- The state with it. -/
def stE (e : Entry) : State := { stT w0 tileP tileP with entries := [(9, e)] }
/-- `MMA` of the two tiles. -/
def mmaCmd : MxCmd := .mma 7 pw0 (some 5) (some 6) none 0 none

theorem met_EngineRunsCommands :
    (let e := entry0 mmaCmd 0 false; let s := stE e;
      (s.entries.map (·.1)).Pairwise (· < ·) ∧ s.arbiter 0 = some (9, e) ∧ s.engineBusy 0 = false ∧ e.pairN = none ∧ s.passFault e = none ∧
        s.waves.get? e.wave = some w0 ∧ s.coreOf w0 / 4 = e.cluster) ∧
    (let e := entry0 mmaCmd 1 true; let s := stE e;
      (s.entries.filter fun x => x.2.cluster == 0).find? (·.2.busy) = some (9, e) ∧ s.entries.get? 9 = some e ∧ e.cluster = 0 ∧ e.inTx = false ∧
        (∃ ops, s.entryOps e (e.granted - 1) = .ok ops) ∧ ((s.accOf e).map (·.1)).Pairwise (· < ·) ∧ 7 % 4 + pw0.nb1.toNat < 4) ∧
    (let e := entry0 (.mzero 0 2 4) 1 true; let s := stE e;
      (s.entries.filter fun x => x.2.cluster == 0).find? (·.2.busy) = some (9, e) ∧ s.entries.get? 9 = some e ∧
        ((s.accOf e).map (·.1)).Pairwise (· < ·)) ∧
    (let e := entry0 mmaCmd 1 false; let s := stE e;
      s.entries.get? 9 = some e ∧ e.busy = false ∧ e.granted ≠ 0 ∧ e.granted = e.total ∧ s.waves.get? e.wave = some w0) := by
  refine ⟨⟨by decide, by decide, by decide, by decide, ?_, rfl, by decide⟩,
    ⟨by decide, rfl, rfl, rfl, ⟨_, rfl⟩, by decide, by decide⟩, ⟨by decide, rfl, by decide⟩, rfl, rfl, by decide, by decide, rfl⟩
  decide

/-! ## Hypotheses met: transactions -/

/-- A transactional workgroup before its attempt. -/
def sBegin : State := st w0 g0 txGrid
/-- An attempt with counters, rung and gate. -/
def txG (tx : Tx) : Wg := { g0 with tx := tx }
/-- Its state. -/
def stX (tx : Tx) : State := st { txWave with commitWait := true } (txG tx) txGrid

theorem met_TransactionsOpenAndReport :
    (Issuing sBegin c0 w0 ∧ w0.enabled c0.mask hd = w0.liveMask ∧ sBegin.wgs.get? (sBegin.txHome w0.wg) = some g0 ∧
      sBegin.isTxn (sBegin.txHome w0.wg) = true ∧ sBegin.inAttempt w0 = false ∧ g0.tx.st ≠ .done ∧ g0.tx.st = .none) ∧
    (let s := st w0 txWg txGrid; Issuing s c0 w0 ∧ s.inAttempt w0 = false ∧ txWg.tx.st ≠ .done ∧ txWg.tx.st ≠ .none) ∧
    (Issuing s0 c0 w0 ∧ w0.enabled c0.mask hd ≠ 0 ∧ s0.inAttempt w0 = false ∧ s0.txPending w0.wg = false ∧
      (rdU w0 (.imm (-1))).toNat ≥ 2 ^ 32 ∧ (rdU w0 (.imm 63)).toNat < 2 ^ 32 ∧ (w0.sreg (3 : BitVec 6).toNat).toNat < 64 ∧
      (s0.hist.map (·.1)).Pairwise (· < ·)) ∧
    (Issuing sTx c0 txWave ∧ txWave.enabled c0.mask hd ≠ 0 ∧ sTx.inAttempt txWave = true ∧
      sTx.wgs.get? (sTx.txHome txWave.wg) = some txWg ∧ txWg.tx.gate = none ∧ checks sTx txWave 8 .load (txWave.sreg (1 : BitVec 6).toNat) 0x1080) :=
  ⟨⟨⟨rfl, rfl⟩, by decide, rfl, by decide, by decide, by decide, rfl⟩, ⟨⟨rfl, rfl⟩, by decide, by decide, by decide⟩,
    ⟨iss0, by decide, by decide, by decide, by decide, by decide, by decide, by decide⟩,
    ⟨rfl, rfl⟩, by decide, by decide, rfl, rfl, by decide, by decide, rfl⟩

/-- A gate on the word at 0x1080. -/
def gate0 (epoch : BitVec 32) : Tx := { st := .gating, gate := some { addr := 0x1080, epoch := epoch, wave := 3 } }
/-- Its state, with the trip word's first byte. -/
def stGate (epoch : BitVec 32) (trip : BitVec 8) : State :=
  let s := stX (gate0 epoch)
  { s with mem := { s.mem with cells := if trip = 0 then table else (0x1084, trip) :: table } }

theorem met_AttemptsGatedOrDiscarded :
    (∀ x ∈ [((1 : BitVec 32), (0 : BitVec 8)), (0xFFFFFFFF, 0), (0, 1), (0, 0)], let s := stGate x.1 x.2; let w := s.waveD 3;
      s.isDet 2 = false ∧ s.stalling = false ∧ s.gating 2 = true ∧ (s.allLive 2).contains 3 = true ∧
        (0x1080 : BitVec 64).toNat < 2 ^ 56 ∧ (0x1080 : BitVec 64).toNat % 8 = 0 ∧
        (s.translate (s.whoLs w) .load 0x1080).toOption = some 0x1080 ∧
        let e := BitVec.ofNat 32 (ofBytes (s.readBytes (dieOf (s.coreOf w)) 0x1080 4));
        let trip := ofBytes (s.readBytes (dieOf (s.coreOf w)) 0x1084 4);
        ((e - x.1).toInt < 0 ↔ x.1 = 1) ∧ (0 < (e - x.1).toInt ↔ x.1 = 0xFFFFFFFF) ∧ (trip ≠ 0 ↔ x.2 = 1)) ∧
    (∀ r ∈ [(2 : BitVec 2), 3], let s := stX { st := .opened, rung := r }; let w := s.waveD 3;
      Issuing s c0 w ∧ w.enabled c0.mask hd ≠ 0 ∧ s.inAttempt w = true ∧ (txOf s w).rung = r ∧ s.txPending (s.txHome w.wg) = true) ∧
    (let s := stX { st := .opened, rung := 2, n := 1, u := 1 };
      s.isDet (s.txHome 2) = false ∧ s.stalling = false ∧ s.commitReady (s.txHome 2) = true ∧ ¬untripped s (s.txHome 2) ∧ (s.wgD (s.txHome 2)).tx.toptrip = false ∧
        (s.wgD (s.txHome 2)).tx.rung ≠ 3) := by
  refine ⟨?_, ?_, by decide, by decide, by decide, by unfold untripped; decide, by decide, by decide⟩
  · intro x h
    simp only [List.mem_cons, List.not_mem_nil, or_false] at h
    rcases h with rfl | rfl | rfl | rfl <;> decide
  · intro r h
    simp only [List.mem_cons, List.not_mem_nil, or_false] at h
    rcases h with rfl | rfl <;> exact ⟨⟨rfl, rfl⟩, by decide, by decide, by decide, by decide⟩

/-- An attempt with a version byte at 0x1080, of level 0. -/
def sVer : State := st { txWave with commitWait := true } { txG { st := .opened } with ver := [(0x1080, (7, 0))] } txGrid

theorem met_CommitsWaitAndPublish :
    (Issuing sTx c0 txWave ∧ txWave.enabled c0.mask hd = txWave.liveMask ∧ sTx.inAttempt txWave = true) ∧
    (let s := sVer; let g := s.txHome 2;
      s.isDet g = false ∧ s.stalling = false ∧ s.commitReady g = true ∧ untripped s g ∧ (s.wgD g).tx.toptrip = false ∧ (s.wgD g).tx.swUp = false ∧
        (s.wgD g).tx.gate = none ∧ (s.wgD g).tx.maxes = [] ∧ (∀ h ∈ s.halves g, s.depOf h = none) ∧ s.memWf = true ∧
        (∀ e ∈ (s.wgD g).ver, e.1 / 32 = 0x84 ∧ e.2.2 = 0) ∧ ((s.wgD g).ver.map (·.1)).Pairwise (· < ·) ∧
        s.translate { s.whoLs (s.waveD (s.firstLive g)) with priv := 0 } .store (BitVec.ofNat 64 (0x84 * 32)) = .ok 0x1080 ∧
        (∃ d, place 0x1080 = .cell d .cached) ∧ (s.wgD g).ver.get? 0x1080 = some (7, 0)) :=
  ⟨⟨⟨rfl, rfl⟩, by decide, by decide⟩, by decide, by decide, by decide, rfl, by decide, by decide, by decide, by decide, by decide, by decide,
    by decide, by decide, rfl, ⟨_, rfl⟩, by decide⟩

theorem met_ClassChecksTrap :
    (At s0 c0 w0 g0 hd ∧ allowed s0 w0 ∧ w0.dfault = none ∧ g0.handles.get? (31 : BitVec 5).toNat = none) ∧
    (let x := { tile0 with err := true, cause := 0x10 }; let s := stT w0 x tileP;
      At s c0 w0 gTile hd ∧ allowed s w0 ∧ names s gTile 1 5 x ∧ x.err = true ∧ x.st = .ready) ∧
    (Issuing s0 c0 w0 ∧ w0.enabled c0.mask off ≠ w0.liveMask) ∧
    (w0.enabled c0.mask hd = w0.liveMask ∧ w0.liveMask ≠ 0 ∧ s0.isTxn (s0.txHome w0.wg) = false ∧ s0.inAttempt w0 = false) ∧
    (sTx.inAttempt txWave = true ∧ (txOf (stX { st := .done }) { txWave with commitWait := true }).st = .done) :=
  ⟨⟨⟨iss0, rfl, by decide⟩, .inr (by decide), rfl, by decide⟩, ⟨atT _ _ _ rfl (by decide), .inr (by decide), ⟨rfl, rfl⟩, rfl, rfl⟩,
    ⟨iss0, by decide⟩, ⟨by decide, by decide, by decide, by decide⟩, by decide, by decide⟩

/-! ## Hypotheses met: atomics and the units -/

/-- An atomic on [s1]. -/
def at1 (t : AtomTy) (d : Dst) : Atomic := { at0 with t := t, d := d, a := .s 1, b := .v 0 }

theorem mayAtomic (o : Atomic) (pa : Nat → Nat) (slots : List Nat) (h : o.h = hd) (k : o.kind = .relaxed)
    (c : ∀ j ∈ slots, checks s0 w0 (o.t.bits / 8) .store (atomicAddr w0 j o) (pa j) ∧ (asuCell (pa j)).isSome = true ∧
      s0.stalledAt (pa j) = false) (n : slots.length ≤ 32) (b : Bool) : AtomicMay s0 c0 w0 o slots pa b :=
  ⟨by rw [h]; decide, ⟨by decide, by decide⟩, ⟨by decide, rfl⟩, c, by rw [k]; simp, fun _ => by
    have : s0.slotsUsed (s0.coreOf w0) w0.lane = 0 := by decide
    omega⟩

theorem met_AtomicsIssue : Issuing s0 c0 w0 ∧
    (∀ x ∈ [(AtomTy.z32, dv 6), (.s64, ds 6), (.z32, dv 0), (.f32, dv 0)], let o := at1 x.1 x.2; latchOk w0 c0.mask [o.a, o.b] = true) ∧
    AtomicMay s0 c0 w0 (at1 .z32 (dv 6)) (atomicSlots (w0.enabled c0.mask hd) false) (fun _ => 0x1080) true ∧
    AtomicMay s0 c0 w0 (at1 .s64 (ds 6)) (atomicSlots (w0.enabled c0.mask hd) true) (fun _ => 0x1080) true ∧
    AtomicMay s0 c0 w0 (at1 .z32 (dv 0)) (atomicSlots (w0.enabled c0.mask hd) (Src.uniform (.s 1) && Src.uniform (.v 0))) (fun _ => 0x1080) false ∧
    AtomicMay s0 c0 w0 (at1 .f32 (dv 0)) (atomicSlots (w0.enabled c0.mask hd) (Src.uniform (.s 1) && Src.uniform (.v 0))) (fun _ => 0x1080) false := by
  refine ⟨iss0, by decide, mayAtomic _ _ _ rfl rfl ?_ (by decide) _, mayAtomic _ _ _ rfl rfl ?_ (by decide) _,
    mayAtomic _ _ _ rfl rfl ?_ (by decide) _, mayAtomic _ _ _ rfl rfl ?_ (by decide) _⟩
  all_goals
    intro j h
    obtain rfl : j = 0 := by revert h; revert j; simp [atomicSlots, lead]; try decide
    exact ⟨⟨by decide, by decide, rfl⟩, by decide, by decide⟩

/-- A result that is there. -/
theorem ok_of {ε α : Type} {x : Except ε α} {a : α} (h : x.toOption = some a) : x = .ok a := by
  cases x with
  | error => simp [Except.toOption] at h
  | ok => simpa [Except.toOption] using h

theorem asu0 (n : Nat) (h : n ∈ [8, 32, 64]) : s0.checkAsuRw (s0.whoLs w0) n 0x1080 = .ok 0x1080 := by
  simp only [List.mem_cons, List.not_mem_nil, or_false] at h
  rcases h with rfl | rfl | rfl <;> exact ok_of (by decide)

theorem obj0 : s0.checkObj w0 0x1080 0 = .ok 0x1080 := ok_of (by decide)

theorem met_PreciseRequestsIssue : (∃ o, reqOf w0 (.dqpush hd .dev 5 1 2) = some o ∧ Issuing s0 c0 w0 ∧ latchOk w0 c0.mask o.srcs = true ∧
      o.may s0 c0 w0 0x1080 ∧ outside s0 w0 ∧ unstaged s0 c0 w0 ∧ s0.stalledAt 0x1080 = false ∧ s0.posted c0.wave c0.mask = false ∧
      s0.slotsUsed (s0.coreOf w0) w0.lane < 32) ∧
    ∃ o, reqOf w0 (.sginfo hd 4 (dv 0) 1) = some o ∧ Issuing s0 c0 w0 ∧ latchOk w0 c0.mask o.srcs = true ∧ o.may s0 c0 w0 0x1080 ∧ allowed s0 w0 :=
  ⟨⟨_, rfl, iss0, by decide, ⟨by decide, asu0 32 (by decide)⟩, ⟨by decide, by decide⟩, ⟨by decide, rfl⟩, by decide, by decide, by decide⟩,
    _, rfl, iss0, by decide, ⟨by decide, obj0⟩, .inr (by decide)⟩

/-- A state with more bytes below the table. -/
def cells (s : State) (l : List Host.Cell) : State := { s with mem := { s.mem with cells := l ++ table } }
/-- A deque at 0x1080 with its array at 0x2000, two entries long, empty. -/
def deque0 : List Host.Cell := [(0x1081, 0x20), (0x1088, 2)]
/-- A request of its unit. -/
def dqReq (op : AsuOp) : AsuReq := { req0 with op := op, precise := true, w64 := true }

theorem met_UnitsPerformRequests :
    (let s := { s0 with reqs := [(5, req0)] };
      s.reqs.get? 5 = some req0 ∧ s.reqReady 5 req0 = true ∧ req0.op = .rmw .add .z32 ∧ asuCell req0.pa = some 0x1080 ∧
        0x1080 % (AtomTy.z32.bits / 8) = 0 ∧ s.memWf = true ∧ ownLine s (homeDie 0x1080) 0x1080 ∧ ∃ c, place 0x10BF = .cell c .cached) ∧
    ∀ x ∈ [(AsuOp.dqpush, 0x2000), (.dqpop, 0x2008), (.dqsteal, 0x2000)], let r := dqReq x.1;
      let s0 := cells { s0 with reqs := [(5, r)] } deque0; let s := s0.homeTake r;
      s0.reqs.get? 5 = some r ∧ s0.reqReady 5 r = true ∧ r.precise = true ∧ (s.dequeHdr r.pa).bad = false ∧ s0.memWf = true ∧ r.x ≠ 0 ∧
        (s.checkAsuRw (s.whoReq r) 8 (BitVec.ofNat 64 x.2)).toOption = some x.2 ∧ asuCell r.pa = some 0x1080 ∧ asuCell x.2 = some x.2 ∧
        0x1080 + 32 ≤ x.2 ∧
        (let d := s.dequeHdr r.pa; let bottom := BitVec.ofNat 64 d.bottom; let top := BitVec.ofNat 64 d.top;
          let entry := fun (i : BitVec 64) => d.array + BitVec.ofNat 64 (8 * (i.toNat % d.cap));
          (match r.op with | .dqpush => entry bottom | .dqpop => entry (bottom - 1) | _ => entry top) = BitVec.ofNat 64 x.2) := by
  refine ⟨⟨rfl, by decide, rfl, rfl, by decide, by decide, fun _ _ _ _ h => absurd h List.not_mem_nil, _, rfl⟩, fun x h => ?_⟩
  simp only [List.mem_cons, List.not_mem_nil, or_false] at h
  rcases h with rfl | rfl | rfl <;>
    exact ⟨rfl, by decide, rfl, by decide, by decide, by decide, by decide, rfl, rfl, by decide, by decide⟩

theorem met_RepliesArrive :
    (let r := { req0 with reply := some (.val 9) }; let s := { s0 with reqs := [(5, r)] };
      s.reqs.get? 5 = some r ∧ s.waves.get? r.wave = some w0 ∧ r.reply = some (.val 9) ∧ r.precise = false ∧ r.d = some (dv 6) ∧ w0.st = .running) ∧
    (let p : Path := { born := 0, mask := 1, wait := .reply }; let w := { w0 with paths := [p] };
      let r := { dqReq .dqpush with reply := some (.trap { cause := .queueMisuse }) }; let s := { st w g0 placedGrid with reqs := [(5, r)] };
      s.reqs.get? 5 = some r ∧ s.waves.get? r.wave = some w ∧ r.reply.isSome = true ∧ r.precise = true ∧ w.st = .running ∧
        w.path? r.path = some p ∧ w.mayIssue p = true) := by
  refine ⟨⟨rfl, rfl, rfl, rfl, rfl, rfl⟩, rfl, rfl, rfl, rfl, rfl, rfl, by decide⟩

/-! ## Hypotheses met: queues, barriers, the register pool -/

/-- A word queue of one entry in the local store, with `n` words, `a` allowed; the wave is its owner's. -/
def q0 (n a : Nat) : Queue := { handles := false, base := 4092, cap := 1, head := 0, count := n, allow := a, out := 1 - n - a, owner := 2 }
/-- A handle queue. -/
def qH (n a : Nat) : Queue := { q0 n a with handles := true, base := 0, tiles := if n = 0 then [] else [(0, 6)] }
/-- A workgroup with it, and the word 9 at its first entry. -/
def gQ (q : Queue) : Wg := { gTile with queues := [(15, q)], lmem := [(4092, 9), (4093, 0), (4094, 0), (4095, 0)] }
/-- The state of it. -/
def stQ (q : Queue) : State := { st w0 (gQ q) placedGrid with tiles := [(5, tile0), (6, tileP)] }

theorem mayQ (q : Queue) (h : q.owner = 2) : QueueMay (stQ q) c0 w0 (gQ q) hd false 15 q :=
  ⟨⟨⟨rfl, rfl⟩, rfl, by decide⟩, rfl, by rw [h]; rfl, ⟨(show placedGrid.lat.detctl.getLsbD 0 = false by decide), rfl⟩, .inr (by rfl)⟩

theorem word9 (q : Queue) (h : q.owner = 2) (b : q.base = 4092) : ringWord (stQ q) q 0 9 := by
  intro j hj
  have : j = 0 ∨ j = 1 ∨ j = 2 ∨ j = 3 := by omega
  rcases this with rfl | rfl | rfl | rfl <;> (rw [h, b]; rfl)

/-- A wave whose s5 configures a queue: 1,024 words from 0 on, all allowed. -/
def wCfg : Wave := { w0 with s := [(5, BitVec.ofNat 64 (1024 * 2 ^ 18 + 1024 * 2 ^ 32))] }

theorem met_NamedQueues :
    (let s := st wCfg g0 placedGrid; At s c0 wCfg g0 hd ∧ unstaged s c0 wCfg ∧ allowed s wCfg ∧ g0.st ≠ .ended ∧
      s.queue? wCfg.wg false (15 : BitVec 4).toNat = none ∧
      (let v := (wCfg.sreg (5 : BitVec 6).toNat).toNat;
        v < 2 ^ 45 ∧ v / 2 ^ 18 % 2 ^ 13 = 1024 ∧ v / 2 ^ 32 % 2 ^ 13 ≤ 1024 ∧ v.testBit 31 = false ∧
          v % 2 ^ 18 + 4 * (v / 2 ^ 18 % 2 ^ 13) ≤ s.localSize wCfg.wg)) ∧
    (QueueMay (stQ (q0 0 0)) c0 w0 (gQ (q0 0 0)) hd false 15 (q0 0 0) ∧ (rd32 w0 0 (.imm 1)).toNat ≤ (q0 0 0).out) ∧
    (let s := stQ (q0 0 1); QueueMay s c0 w0 (gQ (q0 0 1)) hd false 15 (q0 0 1) ∧ (q0 0 1).handles = false ∧
      s.posted c0.wave 0xFFFFFFFF = false ∧ 0 < (q0 0 1).allow ∧ s.firstWaiter w0.wg true false (15 : BitVec 4).toNat = none) ∧
    (let s := stQ (qH 0 1); QueueMay s c0 w0 (gQ (qH 0 1)) hd false 15 (qH 0 1) ∧ (qH 0 1).handles = true ∧
      (gQ (qH 0 1)).handles.get? (1 : BitVec 5).toNat = some 5 ∧ s.posted c0.wave 0xFFFFFFFF = false ∧ 0 < (qH 0 1).allow) ∧
    (let s := stQ (q0 1 0); QueueMay s c0 w0 (gQ (q0 1 0)) hd false 15 (q0 1 0) ∧ 0 < (q0 1 0).count ∧ ringWord s (q0 1 0) (q0 1 0).head 9 ∧
      s.firstWaiter w0.wg false false (15 : BitVec 4).toNat = none) ∧
    (let s := stQ (qH 1 0); QueueMay s c0 w0 (gQ (qH 1 0)) hd false 15 (qH 1 0) ∧ 0 < (qH 1 0).count ∧
      (qH 1 0).tiles.get? (qH 1 0).head = some 6 ∧ s.firstWaiter w0.wg false false (15 : BitVec 4).toNat = none) ∧
    (let s := stQ (q0 0 0); ∃ p, w0.path? c0.path = some p ∧ s.posted c0.wave 0xFFFFFFFF = false ∧ (q0 0 0).allow = 0 ∧ (q0 0 0).count = 0) ∧
    (∀ push ∈ [true, false], let y := if push then q0 0 1 else q0 1 0;
      let x : Waiter := { wave := 3, path := 0, push := push, cl := false, q := 15, hq := false, ag := false, val := 9, reg := 4, nwb := false };
      let s := { stQ y with waiters := [(8, x)] }; ∃ p, s.waiters.get? 8 = some x ∧ s.waves.get? x.wave = some w0 ∧ w0.path? x.path = some p ∧
        s.queue? w0.wg x.cl x.q = some y ∧ y.handles = false ∧ x.hq = false ∧ s.firstWaiter w0.wg x.push x.cl x.q = some 8 ∧
        (s.wgs.get? y.owner).isSome = true ∧ (if x.push = true then 0 < y.allow else 0 < y.count)) := by
  refine ⟨⟨⟨⟨rfl, rfl⟩, rfl, by decide⟩, ⟨rfl, rfl⟩, .inr rfl, by decide, rfl, by decide⟩, ⟨mayQ _ rfl, by decide⟩,
    ⟨mayQ _ rfl, rfl, by decide, by decide, by decide⟩, ⟨mayQ _ rfl, rfl, rfl, by decide, by decide⟩,
    ⟨mayQ _ rfl, by decide, word9 _ rfl rfl, by decide⟩, ⟨mayQ _ rfl, by decide, rfl, by decide⟩, ⟨_, rfl, by decide, rfl, rfl⟩, fun push h => ?_⟩
  simp only [List.mem_cons, List.not_mem_nil, or_false] at h
  rcases h with rfl | rfl <;> exact ⟨_, rfl, rfl, rfl, rfl, rfl, rfl, by decide, rfl, by decide⟩

theorem onPath0 : OnPath c0 w0 { born := 0, mask := 1 } := ⟨rfl, rfl, by simp [w0]⟩

/-- A workgroup of two waves. -/
def gTwo : Wg := { g0 with waves := [3, 4] }
/-- Its state: the second wave has the last registers of the pool when `full`. -/
def stTwo (full : Bool) : State :=
  { st w0 gTwo placedGrid with waves := [(3, w0), (4, { w0 with idx := 1 })], claims := if full then [(0, [(9, 0, 4)])] else [] }
/-- A wave with the smallest window. -/
def w4 : Wave := { w0 with win := 4 }

theorem met_BarriersAndRegisterPool :
    (∀ g ∈ [g0, gTwo], let s := if g.waves = [3] then s0 else stTwo false;
      barOf w0 (.bar hd (.imm 15)) = some (hd, 15, none, true) ∧ At s c0 w0 g hd ∧ allowed s w0 ∧ 15 ≤ 15 ∧ (g.bars.getD 15 {}).kind = none ∧
        s.posted c0.wave (w0.enabled c0.mask hd) = false ∧ (∀ q ∈ w0.paths, q.wait ≠ .barrier 15) ∧ c0.wave ∈ g.waves ∧
        (s.barDone w0.wg (arrivedAt {} c0 (w0.enabled c0.mask hd) none) = true ↔ g.waves = [3])) ∧
    (let b : NamedBar := { kind := some (some 2), arrived := [(4, 1)], waves := [4] }; let g := { gTwo with bars := [(15, b)] };
      let s := { stTwo false with wgs := [(2, g)] };
      barOf w0 (.bars hd true (.imm 15) (.imm 2)) = some (hd, 15, some 2, false) ∧ At s c0 w0 g hd ∧ allowed s w0 ∧
        (g.bars.getD 15 {}).kind = some (some 2) ∧ (g.bars.getD 15 {}).kind ≠ some none ∧
        (s.arrivedWaves w0.wg (arrivedAt b c0 (w0.enabled c0.mask hd) (some 2))).length ≤ 2) ∧
    (At s0 c0 w0 g0 hd ∧ w0.enabled c0.mask hd = w0.liveMask ∧ outside s0 w0 ∧ Claims.ordered w0 ∧ (rd32 w0 0 (.v 0)).toNat % 4 = 0 ∧
      (rd32 w0 0 (.imm 60)).toNat = 60 ∧ 60 + 4 ≤ w0.win ∧ w0.win ≤ 256) ∧
    (let s := st w4 g0 placedGrid; At s c0 w4 g0 hd ∧ w4.enabled c0.mask hd = w4.liveMask ∧ outside s w4 ∧ Claims.ordered w4 ∧ w4.win + 60 ≤ 256 ∧
      4 ≤ w4.win ∧ s.claims.getD (s.coreOf w4) [] = [] ∧ 32 * 60 ≤ s.regFree (s.coreOf w4) ∧ ∀ i r, w4.win ≤ r → (w4.strand i).v32 r = 0) ∧
    (let s := { stTwo true with waves := [(3, w4), (4, { w0 with idx := 1 })] }; ∃ p, At s c0 w4 gTwo hd ∧ w4.path? c0.path = some p ∧
      s.claims.getD (s.coreOf w4) [] ≠ [] ∧ ∃ v ∈ s.liveWaves w4.wg, v ≠ c0.wave ∧ ∀ x ∈ s.claims.getD (s.coreOf w4) [], x.1 ≠ v) ∧
    (let s := { st w4 g0 placedGrid with claims := [(0, [(3, 0, 60)])] }; ∃ p, s.claims.getD 0 [] = (3, 0, 60) :: [] ∧ 32 * 60 ≤ s.regFree 0 ∧
      s.waves.get? 3 = some w4 ∧ w4.path? 0 = some p) := by
  have v0 : ∀ w : Wave, w.strands = w0.strands → ∀ i, (w.strand i).v = [] := by
    intro w h i
    cases i <;> simp only [Wave.strand, h] <;> rfl
  refine ⟨fun g h => ?_, ⟨rfl, ⟨⟨rfl, rfl⟩, rfl, by decide⟩, .inr rfl, rfl, by decide, by decide⟩,
    ⟨⟨iss0, rfl, by decide⟩, by decide, ⟨by decide, by decide⟩, fun i => by rw [v0 w0 rfl]; simp, by decide, by decide, by decide, by decide⟩,
    ⟨⟨⟨rfl, rfl⟩, rfl, by decide⟩, by decide, ⟨rfl, rfl⟩, fun i => by rw [v0 w4 rfl]; simp, by decide, by decide, by decide, by decide,
      fun i r _ => by simp [Strand.v32, v0 w4 rfl, Tab.getD, Tab.get?]⟩,
    ⟨_, ⟨⟨rfl, rfl⟩, rfl, by decide⟩, rfl, by decide, 4, by decide⟩, _, rfl, by decide, rfl, rfl⟩
  simp only [List.mem_cons, List.not_mem_nil, or_false] at h
  rcases h with rfl | rfl <;>
    exact ⟨rfl, ⟨⟨rfl, rfl⟩, rfl, by decide⟩, .inr rfl, by decide, rfl, by decide, by decide, by decide, by decide⟩

/-! ## Hypotheses met: random numbers, stamps, sweeps -/

/-- A result that is there. -/
theorem ok_some {ε α : Type} {x : Except ε α} (h : x.toOption.isSome = true) : ∃ a, x = .ok a := by
  cases x with
  | error => simp [Except.toOption] at h
  | ok a => exact ⟨a, rfl⟩

/-- The state with a stamped word at 0x1080: value `v`, stamp `t`; the context's STEP is `n`. -/
def stamp0 (v t : BitVec 8) (n : BitVec 64) : State :=
  let s := cells s0 (if v = 0 then [] else if t = 0 then [(0x1080, v)] else [(0x1080, v), (0x1084, t)])
  { s with ctxs := [(0, { x0 with stepv := n })] }
/-- A request of `DSET`. -/
def dsetReq : AsuReq := { req0 with op := .dset, d := none }
/-- Words in registers: v2 is the low half of the word at v2, v3. -/
def wDm (p q : BitVec 64) : Wave := { w0 with s := [(1, p), (2, q)] }

theorem met_DrawsStampsAndSweeps :
    (∃ o, rngOf s0 w0.wg (.rngf hd (dv 0) (.imm 1) (.imm 2)) = some o ∧ Issuing s0 c0 w0 ∧ latchOk w0 c0.mask o.srcs = true ∧ allowed s0 w0) ∧
    (let o := rngStore s0 w0 hd (ds 1) (.imm 1) (.imm 2) (.s 3);
      latchOk w0 c0.mask o.srcs = true ∧ s0.memWf = true ∧ outside s0 w0 ∧ s0.isDet w0.wg = false ∧ s0.depOf w0.wg = none ∧
        o.goes s0 c0 w0 (·.toNat) ∧ sameWay s0.hub 0x1080 0x1083 ∧ ownLine s0 (dieOf (s0.coreOf w0)) 0x1083) ∧
    (∀ t : BitVec 8, t ∈ [(1 : BitVec 8), 2] → let s := stamp0 5 t 1;
      Issuing s c0 w0 ∧ latchOk w0 c0.mask [.s 1, .imm 0] = true ∧ w0.enabled c0.mask hd ≠ 0 ∧ allowed s w0 ∧ s.isDet w0.wg = false ∧
        s.posted c0.wave c0.mask = false ∧ (∀ j ∈ atomicSlots (w0.enabled c0.mask hd) false,
          checks s w0 8 .load (wordAddr w0 j (.s 1) (.imm 0)) 0x1080 ∧ s.poisoned 0x1080 8 = false ∧
          ∀ b, b < 8 → s.overlay w0.wg (wordAddr w0 j (.s 1) (.imm 0) + BitVec.ofNat 64 b) = none) ∧
        (let read := (atomicSlots (w0.enabled c0.mask hd) false).foldl (fun t _ => t.freshRead w0 0x1080) s;
          let x := ofBytes (read.readBytes (dieOf (s.coreOf w0)) 0x1080 8);
          x ≠ 0 ∧ if t = 1 then ages read w0 0 x 0 0x3F800000 else x / 2 ^ 56 % 256 = 0 ∧ ageOf x (stepStamp s w0) = none)) ∧
    (∀ q : BitVec 64, q ∈ [(0x0000000000000007 : BitVec 64), 0x0001000000000007] → let w := wDm 5 q; let s := st w g0 placedGrid;
      Issuing s c0 w ∧ latchOk w c0.mask [.s 1, .s 2] = true ∧ allowed s w ∧ s.isDet w.wg = false ∧ (rd64 w 0 (.s 1)).toNat ≠ 0 ∧
        (rd64 w 0 (.s 2)).toNat ≠ 0 ∧ (selOf (rd64 w 0 (.s 1)).toNat = selOf (rd64 w 0 (.s 2)).toNat ↔ q = 7) ∧
        (q = 7 → ages s w 0 (rd64 w 0 (.s 1)).toNat 0 0x3F800000 ∧ ages s w 0 (rd64 w 0 (.s 2)).toNat 0 0x3F800000)) ∧
    (outside s0 w0 ∧ unstaged s0 c0 w0 ∧ ∀ j ∈ atomicSlots (w0.enabled c0.mask hd) true, checks s0 w0 8 .store (wordAddr w0 j (.s 1) (.imm 0)) 0x1080 ∧
      (asuCell 0x1080).isSome = true ∧ s0.stalledAt 0x1080 = false) ∧
    (let s := { s0 with reqs := [(5, dsetReq)] }; s.reqs.get? 5 = some dsetReq ∧ s.reqReady 5 dsetReq = true ∧ dsetReq.d = none ∧
      dsetReq.precise = false ∧ asuCell dsetReq.pa = some 0x1080 ∧ 0x1080 % 8 = 0 ∧ s.memWf = true) ∧
    (∀ x ∈ [((0 : BitVec 8), (0 : BitVec 8)), (5, 2), (5, 1)], let s := stamp0 x.1 x.2 1;
      Issuing s c0 w0 ∧ latchOk w0 c0.mask [.s 1, .s 3, .imm 0] = true ∧ outside s w0 ∧ unstaged s c0 w0 ∧ s.memWf = true ∧
        atomicSlots (w0.enabled c0.mask hd) (Src.uniform (.s 1) && Src.uniform (.s 3) && Src.uniform (.imm 0)) = [0] ∧
        checks s w0 8 .store (wordAddr w0 0 (.s 1) (.imm 0)) 0x1080 ∧ asuCell 0x1080 = some 0x1080 ∧
        s.stalledAt 0x1080 = false ∧ s.posted c0.wave c0.mask = false ∧
        (let taken : State := { s with mem := s.mem.l2Take (0x1080 / 64) (homeDie 0x1080) (s.asidOf (s.ctxOf w0.wg)) };
          let old := taken.homeRead 0x1080 8;
          if x.1 = 0 then old = 0
          else if x.2 = 2 then old ≠ 0 ∧ 0 < (stampBits old - stepStamp s w0).toInt
          else old ≠ 0 ∧ (stampBits old - stepStamp s w0).toInt ≤ 0 ∧ ages taken w0 0 old 0 0x3F800000)) ∧
    (∀ t : BitVec 64, t ∈ [(0 : BitVec 64), 8191, 8193] → let w := { w0 with s := [(1, t)] }; let s := st w g0 placedGrid;
      At s c0 w g0 hd ∧ outside s w ∧ unstaged s c0 w ∧ s.posted c0.wave c0.mask = false ∧
        (let n := (s.ctxD (s.ctxOf w.wg)).stepv;
          (t.toNat ≤ n.toNat ↔ t = 0) ∧ (t = 8191 → t.toNat - n.toNat ≤ 8192 ∧ t.toNat / 8192 = n.toNat / 8192) ∧
          (8192 < t.toNat - n.toNat ↔ t = 8193))) ∧
    (let s := { stamp0 5 1 16385 with ctxs := [(0, { x0 with stepv := 16385, sweep := some { regions := [(0x1080, 1)] } })] };
      (s.ctxD 0).sweep = some { regions := (0x1080, 1) :: [] } ∧ (s.checkAsuRw (s.whoHub 0) 8 0x1080).toOption = some 0x1080 ∧
        (let taken : State := { s with mem := s.mem.l2Take (0x1080 / 64) (homeDie 0x1080) (s.asidOf 0) };
          (s.gamma (s.whoHub 0) none (s.ctxD 0).decaytab (selOf (taken.homeRead 0x1080 8))).toOption = some 0x3F800000 ∧
          16384 ≤ (((s.ctxD 0).stepv).setWidth 16 - stampBits (taken.homeRead 0x1080 8)).toNat) ∧
        asuCell 0x1080 = some 0x1080 ∧ s.memWf = true ∧ s.stalledAt 0x1080 = false) := by
  have one : ∀ j, j ∈ slotsOf (w0.enabled c0.mask hd) → j = 0 := by
    rw [show slotsOf (w0.enabled c0.mask hd) = [0] by decide]
    simp
  refine ⟨⟨_, rfl, iss0, by decide, .inr (by decide)⟩, ⟨by decide, by decide, ⟨by decide, by decide⟩, by decide, by decide, ?_, .inl ⟨_, _, _, rfl, rfl⟩,
      fun _ _ _ _ h => absurd h List.not_mem_nil⟩, ?_, ?_,
    ⟨⟨by decide, by decide⟩, ⟨by decide, rfl⟩, ?_⟩, ⟨rfl, by decide, rfl, rfl, rfl, by decide, by decide⟩, ?_, ?_,
    rfl, by decide, ⟨by decide, by decide⟩, rfl, by decide, by decide⟩
  · intro j _ va h
    have : va = 0x1080 := (Option.some.inj (List.mem_singleton.mp h)).trans rfl
    subst this
    exact ⟨⟨by decide, by decide, rfl⟩, by decide, calm_of rfl rfl _ _⟩
  · intro t h
    simp only [List.mem_cons, List.not_mem_nil, or_false] at h
    rcases h with rfl | rfl
    · refine ⟨⟨rfl, rfl⟩, by decide, by decide, .inr (by decide), by decide, by decide, fun j hj => ?_, by decide, ⟨by decide, ok_of (by decide)⟩⟩
      obtain rfl := one j hj
      exact ⟨⟨by decide, by decide, rfl⟩, by decide, by decide⟩
    · refine ⟨⟨rfl, rfl⟩, by decide, by decide, .inr (by decide), by decide, by decide, fun j hj => ?_, by decide, ⟨by decide, by decide⟩⟩
      obtain rfl := one j hj
      exact ⟨⟨by decide, by decide, rfl⟩, by decide, by decide⟩
  · intro q h
    simp only [List.mem_cons, List.not_mem_nil, or_false] at h
    rcases h with rfl | rfl
    · exact ⟨⟨rfl, rfl⟩, by decide, .inr rfl, rfl, by decide, by decide, by decide, fun _ => ⟨⟨by decide, ok_of (by decide)⟩, by decide, ok_of (by decide)⟩⟩
    · exact ⟨⟨rfl, rfl⟩, by decide, .inr rfl, rfl, by decide, by decide, by decide, fun h => absurd h (by decide)⟩
  · intro j h
    obtain rfl : j = 0 := by simpa [atomicSlots, show lead (w0.enabled c0.mask hd) = 0 by decide] using h
    exact ⟨⟨by decide, by decide, rfl⟩, by decide, by decide⟩
  · intro x h
    simp only [List.mem_cons, List.not_mem_nil, or_false] at h
    rcases h with rfl | rfl | rfl
    · exact ⟨⟨rfl, rfl⟩, by decide, ⟨by decide, by decide⟩, ⟨by decide, rfl⟩, by decide, by decide, ⟨by decide, by decide, rfl⟩, rfl, by decide, by decide,
        (by decide : ({ stamp0 0 0 1 with mem := (stamp0 0 0 1).mem.l2Take (0x1080 / 64) (homeDie 0x1080) 0 } : State).homeRead 0x1080 8 = 0)⟩
    · exact ⟨⟨rfl, rfl⟩, by decide, ⟨by decide, by decide⟩, ⟨by decide, rfl⟩, by decide, by decide, ⟨by decide, by decide, rfl⟩, rfl, by decide, by decide,
        ⟨by decide, by decide⟩⟩
    · exact ⟨⟨rfl, rfl⟩, by decide, ⟨by decide, by decide⟩, ⟨by decide, rfl⟩, by decide, by decide, ⟨by decide, by decide, rfl⟩, rfl, by decide, by decide,
        ⟨by decide, by decide, by decide, ok_of (by decide)⟩⟩
  · intro t h
    simp only [List.mem_cons, List.not_mem_nil, or_false] at h
    rcases h with rfl | rfl | rfl <;>
      exact ⟨⟨⟨rfl, rfl⟩, rfl, by decide⟩, ⟨by decide, by decide⟩, ⟨by decide, rfl⟩, by decide, by decide, by decide, by decide⟩

/-! ## Hypotheses met: sample groups -/

/-- The header of a group of two siblings at 0x1080, with its STATUS and its valid mask. -/
def obj1 (status valid : BitVec 8) : List Host.Cell := [(0x1080, 2)] ++ (if status = 0 then [] else [(0x1084, status)]) ++ [(0x1088, valid)]
/-- A kernel header at 0x1000: windows of four registers, one wave. -/
def header0 : List Host.Cell := [(0x1000, 0x43), (0x1001, 0x48), (0x1002, 0x58), (0x1003, 0x4B), (0x1004, 4), (0x1006, 1)]
/-- The request of a group's unit. -/
def sgReq (op : AsuOp) (x : BitVec 64) : AsuReq := { dqReq op with x := x }
/-- Its object. -/
def o0 : ObjAt := { ctx := 0, va := 0x1080, pa := 0x1080 }
/-- The state with a request and an open group. -/
def stSg (r : AsuReq) : State := cells { s0 with reqs := [(5, r)] } (obj1 1 3)
/-- A sibling's workgroup, its budget of one instruction used up. -/
def gSib : Wg := { g0 with sib := some { obj := 0x1080, pa := 0x1080, index := 1, retired := 1 } }
/-- The group of it, with that budget. -/
def objB : List Host.Cell := obj1 1 3 ++ [(0x10A0, 1)]
/-- A queue at 0x1080 that releases index 1 of 1. -/
def egress0 : List Host.Cell := [(0x1081, 0x20), (0x1089, 0x30), (0x1098, 2), (0x10A0, 1)]

theorem groupReq (p : AsuOp × BitVec 64) (h : p ∈ [(AsuOp.sginfo 4, (0 : BitVec 64)), (.sgreward, 1), (.sgcancel, 1), (.sgclose, 0)]) :
    GroupReq (stSg (sgReq p.1 p.2)) 5 (sgReq p.1 p.2) o0 := by
  simp only [List.mem_cons, List.not_mem_nil, or_false] at h
  rcases h with rfl | rfl | rfl | rfl <;>
    exact ⟨rfl, by decide, rfl, rfl, ⟨by decide, by decide⟩, by decide, by decide, by decide⟩

theorem met_SiblingGroups :
    (let g := { placedGrid with depth := 9 }; let s := cells (st w0 g0 g) header0;
      At s c0 w0 g0 hd ∧ w0.enabled c0.mask hd = w0.liveMask ∧ outside s w0 ∧ unstaged s c0 w0 ∧ s.memWf = true ∧ (s.gridOf w0.wg).depth ≤ 9 ∧
        ObjectAt s w0 (w0.sreg (1 : BitVec 6).toNat) (lead (w0.enabled c0.mask hd)) 0x1080 ∧ (w0.sreg (6 : BitVec 6).toNat).toNat % 64 = 0 ∧
        (∃ h, s.readHeader (s.ctxOf w0.wg) (w0.sreg (6 : BitVec 6).toNat) = some h ∧ h.pair = false ∧ h.cores = false ∧ h.txn = false ∧ h.templs = []) ∧
        s.objStalled { ctx := s.ctxOf w0.wg, va := w0.sreg (1 : BitVec 6).toNat, pa := 0x1080 } = false ∧ s.slotless w0 = false ∧
        s.waveQuiet c0.wave = true ∧ s.depCount (s.ctxOf w0.wg) + ((63 : BitVec 6).toNat + 1) ≤ 4096 ∧
        (s.objRead { ctx := s.ctxOf w0.wg, va := w0.sreg (1 : BitVec 6).toNat, pa := 0x1080 } 4 4).testBit 0 = false) ∧
    (∀ status ∈ [(1 : BitVec 8), 4], let s := cells s0 (obj1 status 3);
      At s c0 w0 g0 hd ∧ w0.enabled c0.mask hd = w0.liveMask ∧ allowed s w0 ∧ s.slotless w0 = false ∧
        (s.checkObj w0 (w0.sreg (1 : BitVec 6).toNat) (lead (w0.enabled c0.mask hd))).toOption = some 0x1080 ∧
        (let x := s.sgHdr { ctx := s.ctxOf w0.wg, va := w0.sreg (1 : BitVec 6).toNat, pa := 0x1080 };
          x.bad = false ∧ (x.status.testBit 2 = true ↔ status = 4) ∧ (x.status.testBit 0 = true ↔ status = 1))) ∧
    (let s := (stSg (sgReq .sgreward 1)).homeTake (sgReq .sgreward 1); (s.sgHdr o0).status.testBit 0 = true ∧ (s.sgHdr o0).status.testBit 2 = false ∧
      (sgReq .sgreward 1).x.toNat < (s.sgHdr o0).g ∧ (s.sgHdr o0).cancel.testBit 1 = false ∧ (s.sgHdr o0).reported.testBit 1 = false ∧
      (s.sgHdr o0).valid &&& ((s.sgHdr o0).reported ||| 2 ^ 1) ≠ (s.sgHdr o0).valid) ∧
    (∀ i, dispatched (stSg (sgReq .sgcancel 1)) o0 i ∧ dispatched (stSg (sgReq .sgclose 0)) o0 i) ∧
    (let s := cells (st w0 gSib placedGrid) objB; ∃ x, (s.wgD 2).sib = some x ∧ s.isDet 2 = false ∧ s.budgetOver 2 = true ∧ s.memWf = true ∧
      x.obj.toNat % 4096 + 640 ≤ 4096 ∧ x.pa % 4096 = x.obj.toNat % 4096 ∧ (asuCell x.pa).isSome = true ∧ s.sgGrid o0 = none ∧ s.ctxOf 2 = 0 ∧
      (s.sgHdr o0).bad = false ∧ (s.sgHdr o0).status.testBit 0 = true ∧ (s.sgHdr o0).valid.testBit x.index = true ∧
      (s.sgHdr o0).reported.testBit x.index = false) ∧
    (∀ n ∈ [(0 : BitVec 64), 1], let r := sgReq .gqrel n; let s := cells { s0 with reqs := [(5, r)] } egress0;
      let taken := s.homeTake r; let rd := fun off k => taken.homeRead (r.pa + off) k;
      s.reqs.get? 5 = some r ∧ s.reqReady 5 r = true ∧ r.precise = true ∧ asuCell r.pa = some 0x1080 ∧ 0x1080 % 64 = 0 ∧ s.memWf = true ∧
        rd 29 3 = 0 ∧ rd 56 8 = 0 ∧ powerIn 1 20 (rd 24 4) = true ∧ rd 28 1 ≤ 2 ∧ r.x.toNat ≤ rd 32 8 ∧ (r.x.toNat ≤ rd 40 8 ↔ n = 0) ∧
        r.x.toNat - rd 40 8 ≤ rd 24 4 ∧ ∃ s', taken.egressAll r (BitVec.ofNat 64 (rd 0 8)) (BitVec.ofNat 64 (rd 8 8)) (rd 24 4) (16 * 2 ^ rd 28 1)
          ((List.range (r.x.toNat - rd 40 8)).map (rd 40 8 + ·)) = .ok s' ∧
        (s'.checkAt (taken.whoReq r) .store 8 (BitVec.ofNat 64 (rd 16 8))).toOption = some 0) := by
  refine ⟨⟨⟨⟨rfl, rfl⟩, rfl, by decide⟩, by decide, ⟨by decide, by decide⟩, ⟨by decide, rfl⟩, by decide, by decide,
      ⟨ok_of (by decide), by decide, by decide⟩, by decide, ⟨_, rfl, rfl, rfl, rfl, rfl⟩, by decide, by decide, by decide, by decide, by decide⟩, ?_, by decide,
    fun i => ⟨fun k h => ?_, fun k h => ?_⟩, ⟨_, rfl, by decide, by decide, by decide, by decide, by decide, by decide, by decide, by decide,
      by decide, by decide, by decide, by decide⟩, ?_⟩
  · intro n h
    simp only [List.mem_cons, List.not_mem_nil, or_false] at h
    rcases h with rfl | rfl <;> exact ⟨⟨⟨rfl, rfl⟩, rfl, by decide⟩, by decide, .inr (by decide), by decide, by decide, by decide⟩
  · exact absurd h (by rw [show (stSg (sgReq .sgcancel 1)).sgGrid o0 = none by decide]; simp)
  · exact absurd h (by rw [show (stSg (sgReq .sgclose 0)).sgGrid o0 = none by decide]; simp)
  · intro n h
    simp only [List.mem_cons, List.not_mem_nil, or_false] at h
    rcases h with rfl | rfl
    · exact ⟨rfl, by decide, rfl, rfl, by decide, by decide, by decide, by decide, by decide, by decide, by decide, by decide, by decide,
        _, rfl, by decide⟩
    · exact ⟨rfl, by decide, rfl, rfl, by decide, by decide, by decide, by decide, by decide, by decide, by decide, by decide, by decide,
        _, rfl, by decide⟩

/-! ## Hypotheses met: launches and tasks -/

/-- The state a child starts in. -/
def sKid : State := st w0 g0 { placedGrid with depth := 9 }

theorem mayStart0 : MayStart sKid c0 w0 g0 hd (w0.sreg (1 : BitVec 6).toNat) 0x1080 :=
  ⟨⟨⟨rfl, rfl⟩, rfl, by decide⟩, ⟨rfl, by decide⟩, ⟨by decide, rfl⟩, by decide, ⟨by decide, by decide, rfl⟩, rfl⟩

theorem met_ChildrenStartAndJoin :
    (let s := sKid;
      MayStart s c0 w0 g0 hd (w0.sreg (1 : BitVec 6).toNat) 0x1080 ∧ s.depCount (s.ctxOf w0.wg) < 4096 ∧
        (s.snapshot w0 (w0.sreg (1 : BitVec 6).toNat) 128 (lead (w0.enabled c0.mask hd))).toOption.isSome = true ∧
        ∃ b, s.snapshot w0 (w0.sreg (1 : BitVec 6).toNat) 64 (lead (w0.enabled c0.mask hd)) = .ok b ∧ fieldOf b 20 1 = 0 ∧
          (s.snapshot w0 (w0.sreg (1 : BitVec 6).toNat + 64) (32 * 0) (lead (w0.enabled c0.mask hd))).toOption.isSome = true) ∧
    (let s := st w0 g0 { placedGrid with depth := 10 }; At s c0 w0 g0 hd ∧ outside s w0 ∧ 10 ≤ (s.gridOf w0.wg).depth) ∧
    (At s0 c0 w0 g0 hd ∧ allowed s0 w0 ∧ w0.kids = 0 ∧ (rdU w0 (.imm 0)).toNat < 64 ∧ ((s0.ctxD (s0.ctxOf w0.wg)).queues.getD 0 {}).tickets < 256 ∧
      64 ≤ (rdU w0 (.s 2)).toNat ∧ (rdU w0 (.s 3)).toNat < 256 ∧ 256 ≤ (rdU w0 (.s 4)).toNat ∧ s0.isDet w0.wg = false) ∧
    (let w := { w0 with kids := 1 }; let s := st w g0 placedGrid; At s c0 w g0 hd ∧ allowed s w ∧ w.kids ≠ 0) ∧
    (At sDet c0 w0 g0 hd ∧ allowed sDet w0 ∧ sDet.isDet w0.wg = true ∧ c0.go = false) := by
  refine ⟨⟨mayStart0, by decide, by decide, _, rfl, by decide, by decide⟩,
    ⟨⟨⟨rfl, rfl⟩, rfl, by decide⟩, ⟨by decide, by decide⟩, by decide⟩,
    ⟨⟨iss0, rfl, by decide⟩, .inr (by decide), rfl, by decide, by decide, by decide, by decide, by decide, by decide⟩,
    ⟨⟨⟨rfl, rfl⟩, rfl, by decide⟩, .inr (by decide), by decide⟩, ⟨⟨rfl, rfl⟩, rfl, by decide⟩, .inr (by decide), by decide, rfl⟩

/-- A queue with its ring at 0x1080, one record ahead. -/
def ring0 : HwQueue := { tickets := 3, isSet := true, rbase := 0x1080, cap := 2, pidx := 1, cons := 0x2000 }
/-- The state of it. -/
def sRing : State := { s0 with ctxs := [(0, { x0 with queues := [(63, ring0)] })] }
/-- Two launches that wait in queues with `a` and `b` tickets. -/
def sLot (a b : Nat) : State :=
  { s0 with
    ctxs := [(0, { x0 with queues := [(0, { tickets := a, kids := [8] }), (1, { tickets := b, recs := [9] })] })]
    grids := [(8, { placedGrid with started := false }), (9, { placedGrid with started := false, queue := 1 })] }

theorem met_RecordsAcceptedAndDrawn :
    (let s := sRing; s.ringReady (0 : BitVec 6).toNat (63 : BitVec 6).toNat = true ∧ s.stalling = false ∧
      (s.ctxD (0 : BitVec 6).toNat).queues.get? (63 : BitVec 6).toNat = some ring0 ∧ 0 < ring0.cap ∧
      (let va := ring0.rbase + BitVec.ofNat 64 (128 * (ring0.cidx.toNat % ring0.cap));
        (s.checkAt (s.whoHub 0) .load 64 va).toOption = some 0x1080 ∧ (s.readRange (s.whoHub 0) va 128).toOption.isSome = true) ∧
      (s.checkAt (s.whoHub 0) .store 4 ring0.cons).toOption = some 0x2000 ∧ ∃ c, place 0x2000 = .cell c .cached) ∧
    (∀ x ∈ [(1, 0), (0, 1)], let s := sLot x.1 x.2; s.eligibleQueues = [(0, 0, x.1, 8), (0, 1, x.2, 9)] ∧
      (s.grids.get? 8).isSome = true ∧ (s.grids.get? 9).isSome = true ∧
      (let r := (xorshift s.hub.lottery).toNat % ticketSum s.eligibleQueues; (r < x.1 ↔ x.1 = 1) ∧ (x.1 ≤ r ∧ r < x.1 + x.2 ↔ x.2 = 1))) ∧
    ticketSum (sLot 0 0).eligibleQueues = 0 ∧ (sLot 0 0).eligibleQueues ≠ [] ∧ s0.eligibleQueues = [] := by
  refine ⟨⟨by decide, by decide, rfl, by decide, by decide, by decide, _, rfl⟩, ?_, by decide, by decide, by decide⟩
  intro x h
  simp only [List.mem_cons, List.not_mem_nil, or_false] at h
  rcases h with rfl | rfl <;> decide

/-- A launch of one workgroup that has none yet, on a device with `n` cluster groups released. -/
def sDisp (n : Nat) (k : Grid) : State := { State.reset with fresh := 10, ctxs := [(0, x0)], grids := [(1, k)], hub := { groups := n } }
/-- The launch. -/
def kNext : Grid := { placedGrid with next := 0 }
/-- A co-resident one. -/
def kCores : Grid := { kNext with hdr := some { placedHdr with cores := true } }

theorem offer0 : NextOffer (sDisp 0 kNext) 1 0 kNext placedHdr := ⟨rfl, by decide, by decide, rfl, rfl, ⟨rfl, by decide⟩, by decide, by decide⟩
theorem offer1 : NextOffer (sDisp 1 kNext) 1 0 kNext placedHdr := ⟨rfl, by decide, by decide, rfl, rfl, ⟨rfl, by decide⟩, by decide, by decide⟩

theorem met_WorkgroupsDispatch :
    (let s := sDisp 1 kNext; NextOffer s 1 0 kNext placedHdr ∧ s.taskFits (s.offerDie 1 0) = false ∧
      s.pickCore placedHdr ((s.coresOfDie kNext.ctx (s.offerDie 1 0)).filter fun c => s.tilesFor 1 (clusterOf c)) = some 0) ∧
    (let s := sDisp 0 kNext; NextOffer s 1 0 kNext placedHdr ∧ kNext.parent = none ∧ (s.placeIn 1 0 (s.offerDie 1 0)).isNone = true ∧
      (s.ctxD kNext.ctx).dies = 0xF ∧ s.offerDie 1 0 < 4) ∧
    (let s := sDisp 1 kCores; s.grids.get? 1 = some kCores ∧ kCores.started = true ∧ kCores.fail = none ∧ (s.ctxD kCores.ctx).st = .running ∧
      kCores.det = false ∧ kCores.hasDeps = false ∧ kCores.next = 0 ∧ kCores.size = 1 ∧
      kCores.parent = none ∧ s.replaysOf kCores.ctx kCores.queue = [] ∧ (∀ d ∈ (s.ctxD kCores.ctx).dieList, s.taskFits d = false) ∧
      ∃ h d rest core, kCores.hdr = some h ∧ h.cores = true ∧ h.pair = false ∧ offerOrder (s.ctxD kCores.ctx).dieList 0 = d :: rest ∧
        s.pickCore h ((s.coresOfDie kCores.ctx d).filter fun c => s.tilesFor 1 (clusterOf c)) = some core) :=
  ⟨⟨offer1, by decide, by decide +kernel⟩, ⟨offer0, rfl, by decide +kernel, by decide, by decide⟩,
    rfl, rfl, rfl, rfl, by decide, by decide, rfl, by decide, rfl, by decide, by decide, { placedHdr with cores := true }, 0, [1, 2, 3], 0, rfl, rfl, rfl, by decide,
    by decide +kernel⟩

/-- An entry of the dependence table. -/
def dep0 : Dep := { ctx := 0, grid := 1, lin := 0, regions := [] }
/-- A region of 64 bytes at 0x1080 that the task writes. -/
def region0 : Region := { base := 0x1080, rows := 1, rowBytes := 64, pitch := 0, mode := .write }
/-- The state with it. -/
def sDep (d : Dep) : State := { sDisp 1 kNext with deps := [(7, d)], wgs := [(2, { g0 with task := some 7, st := .staging })] }

theorem met_TasksProceed :
    (let s := sDep dep0; s.deps.get? 7 = some dep0 ∧ s.depReady dep0 = true ∧ dep0.det = false ∧ (s.gridD dep0.grid).hdr = some placedHdr ∧
      placedHdr.pair = false ∧ placedHdr.cores = false ∧ s.replaysOf dep0.ctx (s.gridD dep0.grid).queue = [] ∧ offerOrder (s.ctxD dep0.ctx).dieList dep0.lin = 0 :: [1, 2, 3] ∧
      s.pickCore placedHdr ((s.coresOfDie dep0.ctx 0).filter fun c => s.tileRoom dep0 (clusterOf c)) = some 0) ∧
    (let d := { dep0 with poison := true }; let s : State := { sDep d with grids := [(1, placedGrid)] }; s.deps.get? 7 = some d ∧ d.poison = true ∧ d.st = .waiting ∧
      (s.deps.map (·.1)).Pairwise (· < ·) ∧ 7 < s.fresh ∧ (s.grids.get? d.grid).isSome = true ∧ (s.gridD d.grid).next = (s.gridD d.grid).size ∧
      ∀ e ∈ s.deps, e.2.grid = d.grid → e.2.pred = none ∨ e.1 = 7) ∧
    (let d := { dep0 with st := .staging, wg := some 2 }; let s := sDep d; ∃ x, s.deps.get? 7 = some d ∧ d.wg = some 2 ∧ s.wgs.get? 2 = some x ∧
      x.task = some 7 ∧ x.st = .staging ∧ x.pair = none ∧ ((s.gridD d.grid).hdr = some placedHdr ∧ placedHdr.cores = false) ∧ d.regions = []) ∧
    (let d := { dep0 with pred := some 0x1080 }; let s : State := { sDep d with grids := [(1, placedGrid)] }; s.deps.get? 7 = some d ∧ d.pred = some 0x1080 ∧ d.st = .waiting ∧ d.poison = false ∧
      (s.ctxD d.ctx).st = .running ∧ s.depClear d = true ∧
      (({ s with mem := { s.mem with cells := table } } : State).checkAt (s.whoHub d.ctx) .load 4 0x1080).toOption = some 0x1080 ∧
      (s.deps.map (·.1)).Pairwise (· < ·) ∧ 7 < s.fresh ∧ (s.grids.get? d.grid).isSome = true ∧ (s.gridD d.grid).next = (s.gridD d.grid).size ∧
      ∀ e ∈ s.deps, e.1 ≠ 7 → e.2.grid ≠ d.grid ∧ s.predReady e.2 = false) ∧
    (let d := { dep0 with st := .retired, regions := [(1, region0)], ver := [(0x1080, (7, 0))] };
      let s : State := { sDep d with mem := { cells := table } }; s.deps.get? 7 = some d ∧ s.drainReady d = true ∧
      d.det = false ∧ s.memWf = true ∧ (∀ e ∈ s.deps, e.2.pred = none) ∧ s.readyRegions d = [(1, region0)] ∧
      (region0.locate (BitVec.ofNat 64 0x1080)).isSome = true ∧ 0x1080 / 32 = 0x84 ∧ (d.ver.map (·.1)).Pairwise (· < ·) ∧
      (s.translate (s.whoDrain d) .store (BitVec.ofNat 64 (0x84 * 32))).toOption = some 0x1080) ∧
    (let d := { dep0 with st := .draining }; let s := sDep d; s.deps.get? 7 = some d ∧ d.st = .draining ∧ (s.deps.map (·.1)).Pairwise (· < ·) ∧
      7 < s.fresh) :=
  ⟨⟨rfl, by decide, rfl, rfl, rfl, rfl, by decide, by decide, by decide +kernel⟩, ⟨rfl, rfl, rfl, by decide, by decide, rfl, by decide, by decide⟩,
    ⟨_, rfl, rfl, rfl, rfl, rfl, rfl, ⟨rfl, rfl⟩, rfl⟩,
    ⟨rfl, rfl, rfl, rfl, rfl, by decide, by decide, by decide, by decide, rfl, by decide, by decide⟩,
    ⟨rfl, by decide, rfl, by decide, by decide, by decide, by decide, by decide, by decide, by decide⟩,
    rfl, rfl, by decide, by decide⟩

/-- A launch whose one workgroup has retired, a child of wave 3. -/
def kDone : Grid := { placedGrid with retired := 1, parent := some 3, lrec := { placedRec with sigen := true, sigaddr := 0x1080, sigval := 1 } }

theorem met_WorkgroupsAndLaunchesEnd :
    (let g := { g0 with st := .ended }; let s := st { w0 with st := .ended } g placedGrid; (∀ e ∈ s.deps, s.predReady e.2 = false) ∧ s.wgs.get? 2 = some g ∧ s.isDet 2 = false ∧
      s.retireReady 2 = true ∧ g.pair = none ∧ g.sib = none ∧ g.task = none ∧ s.grids.get? g.grid = some placedGrid) ∧
    (let s := { s0 with grids := [(1, placedGrid), (8, kDone)] }; s.grids.get? 8 = some kDone ∧ kDone.det = false ∧ kDone.kind = .launch ∧
      s.endReady 8 = true ∧ (s.grids.map (·.1)).Pairwise (· < ·) ∧ s.waves.get? 3 = some w0 ∧
      (s.writeBackAll.checkAt (s.whoHub kDone.ctx) .store 8 kDone.lrec.sigaddr).toOption = some 0x1080 ∧
      ∃ c, place 0x1080 = .cell c .cached) ∧
    s0.endReady 1 = false ∧ s0.retireReady 2 = false :=
  ⟨⟨by decide, rfl, by decide, by decide, rfl, rfl, rfl, rfl⟩, ⟨rfl, by decide, rfl, by decide, by decide, rfl, by decide, _, rfl⟩, by decide, by decide⟩

/-! ## Hypotheses met: traps, control registers, rounds, pre-emption -/

/-- The wave at a level. -/
def lvl (p : BitVec 2) : Wave := { w0 with priv := p }
/-- The state with it, the trap base being `b`. -/
def sTrap (w : Wave) (b : BitVec 64) : State := { st w g0 placedGrid with ctxs := [(0, { x0 with trapbase := b })] }
/-- The halted wave. -/
def wHalt : Wave := { lvl 2 with st := .halted }

theorem met_TrapEntryAndHalt :
    (let s := sTrap w0 0x1001; trapOfInstr (.trap hd (.imm 7)) = some (hd, .imm 7, .software) ∧ Issuing s c0 w0 ∧ w0.enabled c0.mask hd ≠ 0 ∧ allowed s w0 ∧
      w0.priv = 0 ∧ (s.ctxD (s.ctxOf w0.wg)).trapbase.getLsbD 0 = true) ∧
    (let w := lvl 1; let s := sTrap w 0x1001; At s c0 w g0 hd ∧ outside s w ∧ w.priv = 1 ∧ g0.pair = none) ∧
    (let s := sTrap w0 0; At s c0 w0 g0 hd ∧ outside s w0 ∧ w0.priv = 0 ∧ g0.pair = none ∧ g0.task = none ∧ g0.st ≠ .ended ∧
      (s.ctxD (s.ctxOf w0.wg)).trapbase.getLsbD 0 = false ∧ (s.grids.get? g0.grid).isSome = true ∧ (s.wgs.map (·.1)).Pairwise (· < ·)) ∧
    (let w := lvl 2; let s := sTrap w 0; Issuing s c0 w ∧ w.enabled c0.mask hd ≠ 0 ∧ allowed s w ∧ w.priv = 2) ∧
    (Issuing s0 c0 w0 ∧ w0.enabled c0.mask hd ≠ 0 ∧ allowed s0 w0 ∧ w0.priv ≠ 2) ∧
    (let s := sTrap wHalt 0; s.waves.get? 3 = some wHalt ∧ wHalt.st = .halted) ∧ (s0.waveD 3).st ≠ .halted :=
  ⟨⟨rfl, ⟨rfl, rfl⟩, by decide, .inr (by decide), rfl, by decide⟩,
    ⟨⟨⟨rfl, rfl⟩, rfl, by decide⟩, ⟨by decide, by decide⟩, rfl, rfl⟩,
    ⟨⟨⟨rfl, rfl⟩, rfl, by decide⟩, ⟨by decide, by decide⟩, rfl, rfl, rfl, by decide, by decide, rfl, by decide⟩,
    ⟨⟨rfl, rfl⟩, by decide, .inr (by decide), rfl⟩, ⟨iss0, by decide, .inr (by decide), by decide⟩, ⟨rfl, rfl⟩, by decide⟩

/-- A wave in a handler, with `code` in s3 and a return point. -/
def wRet (code : BitVec 64) : Wave :=
  { lvl 1 with s := [(1, 0x1080), (3, code)], saved := [(0, 1)], rp := 0x1040, rpNext := 0x1048, trapstat := 0x100 }

theorem met_TretActs :
    (Issuing s0 c0 w0 ∧ w0.enabled c0.mask hd ≠ 0 ∧ allowed s0 w0 ∧ w0.priv ≠ 1) ∧
    (let w := wRet 5; let s := st w g0 placedGrid; Issuing s c0 w ∧ allowed s w ∧ w.priv = 1 ∧ 4 < (rdU w (.s 3)).toNat) ∧
    (∀ x ∈ [((0 : BitVec 64), (none : Option (BitVec 6)), (0x1040 : BitVec 64)), (1, none, 0x1048), (1, some 1, 0x1080)],
      let w := wRet x.1; let s := st w g0 placedGrid;
      Issuing s c0 w ∧ w.enabled c0.mask hd ≠ 0 ∧ allowed s w ∧ w.priv = 1 ∧ w.trapstat.getLsbD 0 = false ∧ (txOf s w).st ≠ .trapped ∧
      (s.wgD (s.txHome w.wg)).misalign = false ∧
      ((rdU w (.s 3) = 0 ∧ x.2.1 = none ∧ x.2.2 = w.rp) ∨ (rdU w (.s 3) = 1 ∧ x.2.1 = none ∧ w.rpNoLen = false ∧ x.2.2 = w.rpNext) ∨
        (rdU w (.s 3) = 1 ∧ ∃ r, x.2.1 = some r ∧ x.2.2 = w.sreg r.toNat)) ∧ targetOk x.2.2) ∧
    ∀ code ∈ [(2 : BitVec 64), 3, 4], let w := wRet code; let s := st w g0 placedGrid;
      At s c0 w g0 hd ∧ outside s w ∧ w.priv = 1 ∧ g0.pair = none ∧ g0.misalign = false ∧ rdU w (.s 3) = code ∧ g0.task = none ∧ g0.st ≠ .ended ∧
      (s.grids.get? g0.grid).isSome = true ∧ (s.wgs.map (·.1)).Pairwise (· < ·) ∧ (s.grids.map (·.1)).Pairwise (· < ·) ∧
      (s.gridD g0.grid).status = none := by
  refine ⟨⟨iss0, by decide, .inr (by decide), by decide⟩, ⟨⟨rfl, rfl⟩, .inr (by decide), rfl, by decide⟩, ?_, ?_⟩
  · intro x h
    simp only [List.mem_cons, List.not_mem_nil, or_false] at h
    rcases h with rfl | rfl | rfl
    · exact ⟨⟨rfl, rfl⟩, by decide, .inr (by decide), rfl, rfl, by decide, by decide, .inl ⟨rfl, rfl, rfl⟩, by unfold targetOk; decide⟩
    · exact ⟨⟨rfl, rfl⟩, by decide, .inr (by decide), rfl, rfl, by decide, by decide, .inr (.inl ⟨rfl, rfl, rfl, rfl⟩), by unfold targetOk; decide⟩
    · exact ⟨⟨rfl, rfl⟩, by decide, .inr (by decide), rfl, rfl, by decide, by decide, .inr (.inr ⟨rfl, 1, rfl, rfl⟩), by unfold targetOk; decide⟩
  · intro x h
    simp only [List.mem_cons, List.not_mem_nil, or_false] at h
    rcases h with rfl | rfl | rfl <;>
      exact ⟨⟨⟨rfl, rfl⟩, rfl, by decide⟩, ⟨by decide, by decide⟩, rfl, rfl, rfl, rfl, rfl, by decide, rfl, by decide, by decide, rfl⟩

theorem met_ControlRegisters :
    (Issuing s0 c0 w0 ∧ w0.enabled c0.mask hd ≠ 0 ∧ allowed s0 w0 ∧ s0.isDet w0.wg = false ∧ c0.go = false) ∧
    ((assigned 0 ∧ assigned 0xD ∧ assigned 0x108) ∧ levelOf 0x108 false ≤ w0.priv.toNat ∧ steady 0x108) ∧
    (writeOk s0 w0 0x108 64 ∧ writeOk s0 w0 0x040 (csrWord s0 w0 0x040 ||| 64)) ∧
    (let w := lvl 2; let s := st w g0 placedGrid; Issuing s c0 w ∧ allowed s w ∧ writeOk s w 0x304 (csrWord s w 0x304 &&& ~~~1#64)) ∧
    (¬assigned 0x109 ∧ assigned 0x205 ∧ w0.priv.toNat < levelOf 0x205 false ∧ w0.priv.toNat < levelOf 0x107 true) ∧
    (assigned 0x108 ∧ levelOf 0x108 true ≤ w0.priv.toNat ∧ forbidden 0x108 (merged s0 w0 0x108 (rdU w0 (.imm 0)))) := by
  refine ⟨⟨iss0, by decide, .inr (by decide), by decide, rfl⟩, ?_, ?_, ⟨⟨rfl, rfl⟩, .inr (by decide), ?_⟩, ?_, ?_⟩
  all_goals (try unfold writeOk); (try unfold steady); (try unfold assigned); (try unfold forbidden); decide +kernel

/-- A translation of the first page for ASID 0. -/
def tlb0 : TlbEntry := { cluster := 0, core := some 0, asid := 0, va := 0, size := 2 ^ 34, pte := 0x3E7, secure := [] }

theorem met_TlbsLatchesAndGuards :
    (∀ p ∈ [(1 : BitVec 2), 2], let w := lvl p; let s := { st w g0 placedGrid with mem := { tlb := [tlb0], cells := table } };
      Issuing s c0 w ∧ w.enabled c0.mask hd ≠ 0 ∧ allowed s w ∧ s.posted c0.wave 0xFFFFFFFF = false ∧ 1 ≤ w.priv.toNat) ∧
    (Issuing s0 c0 w0 ∧ allowed s0 w0 ∧ w0.priv = 0) ∧
    (let i := Instr.iadd true ⟨hd, .s8, dv 255, .latch 3, .imm 1⟩; ∃ o, aluOf i = some o ∧ latchOk w0 c0.mask o.srcs = false) ∧
    (let i := Instr.ld (mem w32 (dv 6) (.latch 2) (.imm 0)); ∃ o, loadOf i = some o ∧ latchOk w0 c0.mask o.srcs = false) ∧
    w0.enabled c0.mask off = 0 ∧ (lvl 2).enabled c0.mask off = 0 ∧ quietWhenOff (lvl 2) off (.halt off (.imm 0)) ∧
    ∃ o, storeOf (.st { stored0 with h := off }) = some o ∧ latchOk w0 c0.mask o.srcs = true ∧ w0.enabled c0.mask o.h = 0 := by
  refine ⟨?_, ⟨iss0, .inr (by decide), rfl⟩, ⟨_, rfl, by decide⟩, ⟨_, rfl, by decide⟩, by decide, by decide, .inr (.inr (.inl ⟨⟨_, rfl⟩, rfl⟩)), _, rfl,
    by decide, by decide⟩
  intro x h
  simp only [List.mem_cons, List.not_mem_nil, or_false] at h
  rcases h with rfl | rfl <;> exact ⟨⟨rfl, rfl⟩, by decide, .inr (by decide), by decide, by decide⟩

/-- A wave of a deterministic grid at the end of its part of a round, which misses its window, its turn used up. -/
def wTurn : Wave :=
  { w0 with paths := [{ born := 0, mask := 1, wait := .icache, edge := .window, turn := 16 }], turnOf := some 0, turnQ := 16, roundN := 4096 }
/-- Its state: nothing that it has issued is outstanding. -/
def sTurn : State :=
  { st { wTurn with partEnd := true } { g0 with staged := [] } detGrid with ctxs := [(0, { x0 with roundOpen := true })] }

theorem err_of {ε α : Type} {x : Except ε α} (h : x.toOption.isSome = false) : ∃ f, x = .error f := by
  cases x with
  | error f => exact ⟨f, rfl⟩
  | ok _ => simp [Except.toOption] at h

theorem missesTurn : missesFirst wTurn { born := 0, mask := 1, wait := .icache, edge := .window, turn := 16 } := ⟨[], [], rfl, rfl, by simp⟩
theorem fetchTurn : (st wTurn g0 detGrid).translate ((st wTurn g0 detGrid).whoLs wTurn) .fetch 0x1040 = .ok 0x1040 := rfl
theorem walkOk : s0.walk (s0.whoCore 0 0) s0.regionTable 0x1080 = .ok 0x3E7 := ok_of (by decide +kernel)
theorem walkBad : ∃ f, s0.walk (s0.whoCore 0 0) s0.regionTable 0x400000000 = .error f :=
  err_of (by decide +kernel)
theorem quietTurn : sTurn.roundQuiet 0 = true := by decide +kernel
theorem busy0 : s0.roundQuiet 0 = false := by decide +kernel

/-- A full set of the instruction cache: that of the line 0x41. -/
def fullSet : List CoreLine := (List.range 8).map fun k => { core := 0, line := 0x81 + 64 * k, bytes := [] }

theorem met_ArrivalsTurnsAndRounds :
    (let set := fullSet.filter fun x => x.core == 0 && x.line % 64 == 0x1040 / 64 % 64; 8 ≤ set.length ∧ (∃ old rest, set = old :: rest) ∧
      ∀ x ∈ fullSet, ¬(x.core = 0 ∧ x.line = 0x1040 / 64)) ∧
    (let s := st wTurn g0 detGrid; s.waves.get? 3 = some wTurn ∧ missesFirst wTurn { born := 0, mask := 1, wait := .icache, edge := .window, turn := 16 } ∧
      s.translate (s.whoLs wTurn) .fetch 0x1040 = .ok 0x1040 ∧ windowOf (wTurn.pathPc { born := 0, mask := 1 }) = 0x1040 ∧ wTurn.st = .running ∧
      wTurn.turnOf = some 0 ∧ (wTurn.path? 0).isSome = true ∧ wTurn.turnOver = false ∧ wTurn.turnQ.toNat ≤ 16 ∧ s.isDet wTurn.wg = true ∧
      (s.gridOf wTurn.wg).lat.detq.toNat ≤ wTurn.roundN) ∧
    (let w := { w0 with turnOver := true }; (st w g0 placedGrid).waves.get? 3 = some w ∧ w.turnOver = true) ∧
    ((s0.ctxD 0).st = .running ∧ (s0.tlbHit (s0.whoCore 0 0) 0x1080).isSome = false ∧
      s0.walk (s0.whoCore 0 0) s0.regionTable 0x1080 = .ok 0x3E7 ∧ ∃ f, s0.walk (s0.whoCore 0 0) s0.regionTable 0x400000000 = .error f) ∧
    w0.roundN < ((st w0 g0 { detGrid with lat := { detGrid.lat with detq := 1 } }).gridOf w0.wg).lat.detq.toNat ∧
    sTurn.roundQuiet 0 = true ∧ (sTurn.wgs.map (·.1)).Pairwise (· < ·) ∧ (sTurn.waves.map (·.1)).Pairwise (· < ·) ∧
    (sTurn.grids.map (·.1)).Pairwise (· < ·) ∧ s0.roundQuiet 0 = false :=
  ⟨⟨by decide, ⟨_, _, rfl⟩, by decide⟩, ⟨rfl, missesTurn, fetchTurn, rfl, rfl, rfl, by decide, rfl, by decide, by decide, by decide +kernel⟩, ⟨rfl, rfl⟩,
    ⟨rfl, by decide, walkOk, walkBad⟩, by decide +kernel, quietTurn, by decide, by decide, by decide, busy0⟩

/-- A wave whose pre-emption is requested. -/
def wDrop : Wave := { w0 with dropReq := true }
/-- A dropped wave. -/
def wGone : Wave := { w0 with st := .dropped, paths := [] }
/-- The state with its workgroup, suspended. -/
def sGone : State := st wGone { g0 with st := .dropped } placedGrid

theorem met_PreemptionAndResumption :
    (let s := st wDrop g0 placedGrid; s.waves.get? 3 = some wDrop ∧ s.mayDrop 3 = true ∧ s.txPending wDrop.wg = false) ∧ w0.dropReq = false ∧
    (let w := { wDrop with owed := true }; let s := st w g0 placedGrid; w.forced = false ∧ s.txPending w.wg = false ∧ s.deferred 3 = true) ∧
    (sGone.wgs.get? 2 = some { g0 with st := .dropped } ∧ g0.st ≠ .dropped ∧ sGone.mayResume 2 = true ∧ sGone.resumeSet 2 = [2] ∧
      sGone.resumeCore 2 = some 0 ∧ g0.waves.Nodup ∧ sGone.waves.get? 3 = some wGone ∧ wGone.st = .dropped ∧ ckOrdered wGone) ∧
    s0.mayResume 2 = false ∧
    (let s := { s0 with ctxs := [(0, { x0 with st := .leaving, deadline := 9 })] };
      (s.ctxD (0 : BitVec 6).toNat).st = .leaving ∧ (s.ctxD (0 : BitVec 6).toNat).deadline ≠ 0 ∧ (s.ctxD (0 : BitVec 6).toNat).expired = false ∧
      s.wgs.get? 2 = some g0 ∧ (2, g0) ∈ s.wgs ∧ s.ctxOf 2 = (0 : BitVec 6).toNat ∧ g0.st ≠ .swapped ∧ 3 ∈ g0.waves ∧ s.waves.get? 3 = some w0 ∧
      w0.st = .running) := by
  refine ⟨⟨rfl, by decide, by decide⟩, rfl, ⟨rfl, by decide, by decide⟩,
    ⟨rfl, by decide, by decide +kernel, by decide +kernel, by decide +kernel, by decide, rfl, rfl, by decide, fun i => ?_, by decide⟩, by decide +kernel,
    ⟨rfl, by decide, rfl, rfl, by decide, rfl, by decide, by decide, rfl, rfl⟩⟩
  by_cases h : i = 0
  · subst h; decide
  · have : wGone.strand i = {} := by
      show (Tab.get? [(0, startStrand 0x1040)] i).getD {} = {}
      have : ¬ i < 0 := by omega
      simp [Tab.get?, h]
    rw [this]
    decide

/-- A context's page table that maps the first 2 MiB to 0x200000. -/
def smallPage : List Host.Cell :=
  [(0x4000, 1), (0x4002, 1), (0x8000, 0x01), (0x8001, 0x40), (0x10000, 0xD3), (0x10001, 0x03), (0x10002, 0x20)]
/-- A migration of that page. -/
def mig0 : Migration := { ctx := 0, va := 0, src := 0x200000, dst := 0x400000, size := 0x200000, dirty := [], stalled := true }
/-- The state with it. -/
def sMig (x : List (Nat × Migration)) : State := { s0 with mem := { cells := smallPage, migs := x } }
/-- The leaf. -/
def leaf0 : LeafAt := { table := 0x10000, index := 0, low := 21, pte := 0x2003D3 }

/-- A record with a row limit of 9. -/
def cfg0 : ConfigRec :=
  { harvest := [], limit := 400, secCl := [], secCp := [], secAsu := [], secXo := false, secMg := false, areas := [], refresh := 9, seed := 1 }

theorem met_MigrationAndRefresh :
    (let s := sMig []; s.leafAt (0 : BitVec 6).toNat (0 : BitVec 64).toNat = some leaf0 ∧ cellOf leaf0.page = some 0x200000 ∧
      (s.ctxD (0 : BitVec 6).toNat).st ≠ .free ∧ s.mayMigrate leaf0 0x200000 0x400000 = true ∧ s.memWf = true ∧ s.mem.l2 = []) ∧
    (let s := sMig [(4, mig0)]; s.mem.migs.get? 4 = some mig0 ∧ mig0.stalled = true ∧ mig0.dirty = [] ∧
      s.leafAt mig0.ctx mig0.va.toNat = some leaf0 ∧ leaf0.slots = [0x10000] ∧ place 0x10000 = .cell 0x10000 .cached ∧ 0x10000 % 8 = 0 ∧
      s.memWf = true ∧ leaf0.pte < 2 ^ 64 ∧ leaf0.pte - leaf0.page + mig0.move leaf0.page < 2 ^ 64) ∧
    (let x := { mig0 with stalled := false }; (sMig [(4, x)]).mem.migs.get? 4 = some x ∧ x.stalled = false) ∧
    (∀ p ∈ [(1 : BitVec 64), 3], let x := { mig0 with dirty := [0] };
      let s := { sMig [(4, x)] with ctxs := [(0, { x0 with migctl := p })] };
      s.mem.migs.get? 4 = some x ∧ x.stalled = true ∧ x.dirty ≠ [] ∧
      ((s.ctxD x.ctx).migctl.toNat % 16 ≤ x.tries + 1 ↔ p = 1) ∧ (x.tries + 1 < (s.ctxD x.ctx).migctl.toNat % 16 ↔ p = 3)) ∧
    (let s := { s0 with mem := { rows := [(0, [(5, 9)])] }, hub := { cfg := some cfg0 } };
      ∃ c, s.hub.cfg = some c ∧ (5, 9) ∈ s.mem.rows.getD 0 [] ∧ c.refresh ≤ 9) := by
  refine ⟨⟨by decide +kernel, by decide, by decide, by decide, by decide, rfl⟩,
    ⟨rfl, rfl, rfl, by decide +kernel, by decide, rfl, by decide, by decide, by decide, by decide⟩, ⟨rfl, rfl⟩, ?_, _, rfl, by decide, by decide⟩
  intro x h
  simp only [List.mem_cons, List.not_mem_nil, or_false] at h
  rcases h with rfl | rfl <;> exact ⟨rfl, rfl, by decide, by decide, by decide⟩

/-! ## Hypotheses met: host, boot, scale-out -/

/-- A hub whose port 0 owns the device. -/
def hub0 : Hub := { owner := some false, bootState := 3 }
/-- A queue that a host rings. -/
def bell0 : HwQueue := { isSet := true, rbase := 0x1080, cap := 2 }
/-- A machine of that host, with a context at a state. -/
def sHost (x : CtxSt) : State := { State.reset with hub := hub0, ctxs := [(1, { x0 with st := x, queues := [(0, bell0)] })] }

theorem met_HostsAndPorts :
    (State.reset.hub.owner = none ∧ State.reset.hub.p0.link = true ∧ State.reset.hub.p1.link = true) ∧
    (let s := sHost .running; s.hub.owner ≠ none ∧ s.hub.p0.link = true ∧ s.hub.owner = some false ∧ s.hub.owner ≠ some true ∧ s.hub.busy = false ∧
      (s.ctxD (1 : BitVec 6).toNat).st ≠ .free ∧ (s.ctxD (1 : BitVec 6).toNat).queues.get? (0 : BitVec 6).toNat = some bell0 ∧ bell0.isSet = true ∧
      ((2 - bell0.cidx).toNat ≤ bell0.cap ∧ (2 - bell0.pidx).toNat ≤ bell0.cap) ∧ bell0.cap < (3 - bell0.cidx).toNat ∧
      (s.ctxD (1 : BitVec 6).toNat).err.bells ≠ 0xFF ∧ s.hub.regionsNow.getLsbD 0 = false ∧ bar2 s false (0x1080 + 4) ≤ 2 ^ 42 ∧ s.memWf = true ∧
      isCell (bar2 s false 0x1080) = true ∧ 0x1080 + 4 ≤ 2 ^ (s.hub.port false).barBits ∧
      ∀ i, i < 4 → s.stalledAt (2 * 2 ^ 42 + bar2 s false (0x1080 + i)) = false) ∧ ((5 : BitVec 3) ≠ 3) := by
  refine ⟨⟨rfl, rfl, rfl⟩, ⟨?_, rfl, rfl, ?_, rfl, ?_, rfl, rfl, ?_, ?_, ?_, rfl, ?_, ?_, ?_, ?_, ?_⟩, ?_⟩ <;> decide

/-- A device in boot whose owner has given an image of a length. -/
def sBoot (n : BitVec 64) : State := { State.reset with hub := { owner := some false, arg0 := n } }

theorem met_BootAndAttestation :
    (∀ n ∈ [(1 : BitVec 64), 0x1000000], (0 < n.toNat ∧ n.toNat ≤ 2 ^ 24) ∧ (sBoot n).hub.arg0 = n ∧ (sBoot n).hub.p0.link = true ∧
      (sBoot n).hub.owner = some false ∧ (sBoot n).hub.busy = false ∧ (sBoot n).hub.bootState = 0 ∧ (sBoot n).stalling = false) ∧
    MayCommand (sHost .running) false ∧
    (∀ g ∈ [28, 29], ({ State.reset with hub := { bootState := 2, groups := g } } : State).hub.bootState = 2) ∧
    State.reset.hub.bootState ≠ 2 := by
  refine ⟨fun n h => ⟨?_, rfl, rfl, rfl, rfl, rfl, rfl⟩, ⟨rfl, rfl, rfl, rfl, rfl⟩, by decide, by decide⟩
  simp only [List.mem_cons, List.not_mem_nil, or_false] at h
  rcases h with rfl | rfl <;> simp

/-- The machine of the host with arguments of a command, at context 1. -/
def sArg (x : CtxSt) (a b c d : BitVec 64) : State :=
  { sHost x with hub := { hub0 with arg0 := a, arg1 := b, arg2 := c, arg3 := d } }

theorem mayArg (x : CtxSt) (a b c d : BitVec 64) : MayCommand (sArg x a b c d) false := ⟨rfl, rfl, rfl, rfl, rfl⟩

theorem met_CommandsForContexts :
    (commandOf true 1 (.run true 1) = some 2 ∧ commandOf false 0 (.attest false) = some 8 ∧
      (sArg .running 0 0 0 0).hub.owner ≠ some true ∧ ({ State.reset with hub := { hub0 with busy := true } } : State).hub.busy = true) ∧
    (let s := sArg .free 0 0x8001 0x1001 0; MayCommand s false ∧ (s.ctxD (1 : BitVec 6).toNat).st = .free ∧ s.hub.arg0 = 0 ∧ s.secCluster 0 = false) ∧
    (let s := sArg .switchedOut 64 4096 0 0; MayCommand s false ∧ (s.ctxD (1 : BitVec 6).toNat).st ≠ .free ∧
      (s.ctxD (1 : BitVec 6).toNat).st = .switchedOut ∧ s.hub.arg0.toNat % 64 = 0 ∧ s.hub.arg1.toNat ≤ 4096) ∧
    (∀ n ∈ [(0x101 : BitVec 64), 0x107], (sArg .switchedOut n 1 0 0).hub.arg0 = n) ∧
    (let s := sArg .running 9 0 0 0; MayCommand s false ∧ (s.ctxD (1 : BitVec 6).toNat).st = .running ∧
      (s.ctxD (1 : BitVec 6).toNat).st ≠ .switchedOut) ∧
    (let s := { s0 with hub := hub0 }; MayCommand s false ∧ s.wgs.get? 2 = some g0 ∧ (2, g0) ∈ s.wgs ∧ s.ctxOf 2 = (0 : BitVec 6).toNat ∧
      g0.st ≠ .swapped ∧ g0.pair = none ∧ g0.sib = none ∧ 3 ∈ g0.waves ∧ s.waves.get? 3 = some w0 ∧ w0.st = .running) ∧
    (∀ n ∈ [1, 16], let s := sArg .running 0x0300 0x1080 (BitVec.ofNat 64 (2 ^ n)) 0x2000; let q := s.hub.arg0.toNat % 64;
      let k := (s.ctxD (1 : BitVec 6).toNat).queues.getD q {};
      MayCommand s false ∧ s.hub.arg0.toNat / 64 % 4 = 0 ∧ s.hub.arg0.toNat < 2 ^ 16 ∧ 1 ≤ n ∧ n ≤ 16 ∧ s.hub.arg2.toNat = 2 ^ n ∧
        s.hub.arg3.toNat % 4 = 0 ∧ k.cidx = k.pidx) ∧
    (∀ c ∈ [({ op := 2, ctx := 1, acted := true } : Command), { op := 3, ctx := 1, acted := true, err := 2 }],
      ({ State.reset with hub := { hub0 with command := some c } } : State).hub.command = some c ∧ c.acted = true ∧
        (c.err ≠ 0 ∨ (c.op.toNat ≠ 3 ∧ c.op.toNat ≠ 4 ∧ c.op.toNat ≠ 7))) := by
  refine ⟨by decide, ⟨mayArg .., rfl, rfl, by decide⟩, ⟨mayArg .., by decide, rfl, by decide, (show (4096#64).toNat ≤ 4096 by simp)⟩, fun _ _ => rfl, ⟨mayArg .., rfl, by decide⟩,
    ⟨⟨rfl, rfl, rfl, rfl, rfl⟩, rfl, by decide, rfl, by decide, rfl, rfl, by decide, rfl, rfl⟩, ?_, by decide⟩
  intro x h
  simp only [List.mem_cons, List.not_mem_nil, or_false] at h
  rcases h with rfl | rfl <;> exact ⟨mayArg .., by decide, by decide, by decide, by decide, by decide, by decide, by decide⟩

/-- The endpoint table at 0x3000, its one entry, with a remote window of 128 bytes and a local one of 8 at 0x1080. -/
def eps : List Host.Cell := [(0x3014, 1), (0x3015, 1), (0x3018, 0x80), (0x3020, 0x80), (0x3021, 0x10), (0x3028, 8)]
/-- Its barrier. -/
def bar0 : TxBar := { gen := 7, part := 1, arrived := 0, bytes := 1 }
/-- A workgroup with a transaction barrier. -/
def gBar : Wg := { g0 with tbars := [(2, bar0)] }
/-- The state with them and a transfer. -/
def sXo (w : Wave) (x : List (Nat × Xfer)) : State :=
  { st w gBar placedGrid with ctxs := [(0, { x0 with epBase := 0x3000, epCount := 1 })], mem := { cells := eps ++ table }, xfers := x }
/-- The entry. -/
def ep0 : Endpoint := { va := 0x3000, bytes := (List.range 64).map fun i => memGet eps (0x3000 + i) }
/-- A transfer. -/
def xfer0 (k : XferKind) (b : Option Nat) : Xfer := { wave := 3, wg := 2, ctx := 0, ep := 0, off := 0, kind := k, bar := b, priv := 0 }
/-- A length in s2, and an offset in s3. -/
def wXo (n off : BitVec 64) : Wave := { w0 with s := [(1, 0x1080), (2, n), (3, off)] }

theorem met_ScaleOutTransfers :
    (let w := wXo 64 64; let s := sXo w []; At s c0 w gBar hd ∧ outside s w ∧ gBar.task = none ∧ inWindow s w 0 (w.sreg 3) (w.sreg 2).toNat ep0 ∧
      (gBar.tbars.get? (2 : BitVec 4).toNat).isSome = true ∧
      (s.checkXo w .load (w.sreg 1) (w.sreg 2).toNat (lead (w.enabled c0.mask hd))).toOption = some () ∧
      (s.checkXo w .store (w.sreg 1) (w.sreg 2).toNat (lead (w.enabled c0.mask hd))).toOption = some ()) ∧
    (let w := wXo 64 120; let s := sXo w []; At s c0 w gBar hd ∧ outside s w ∧ inWindow s w 0 (w.sreg 3) 8 ep0 ∧ (w.sreg 3).toNat % 8 = 0 ∧
      ep0.mode ≠ 2 ∧ (s.checkAt (s.whoXo (s.ctxOf w.wg) w.priv) .load 8 (w.sreg 1)).toOption = some 0x1080 ∧
      (let v := BitVec.ofNat 64 (ofBytes (s.xoRead w (w.sreg 1) 8));
        0 ≤ (v - rdU w (.imm 0)).toInt ∧ (v - rdU w (.imm 1)).toInt < 0)) ∧
    (s0.endpoint (s0.ctxOf w0.wg) 0 = none ∧ (wXo 0 0).sreg 2 = 0 ∧
      (let w := wXo 64 65; (0 < (w.sreg 2).toNat ∧ (w.sreg 2).toNat ≤ 2 ^ 30) ∧ ep0.rwin < (w.sreg 3).toNat + (w.sreg 2).toNat)) ∧
    (∀ b ∈ [none, some 2], let x := xfer0 (.put [1]) b; let s := sXo w0 [(4, x)];
      s.xfers.get? 4 = some x ∧ x.kind = .put [1] ∧ s.wgs.get? x.wg = some gBar ∧ gBar.tbars.get? 2 = some bar0) ∧
    (let x := xfer0 (.get 0x1090 16) none; let s := sXo w0 [(4, x)]; s.xfers.get? 4 = some x ∧ x.bar = none ∧ 0x1090 % 32 + 16 ≤ 32 ∧
      s.isDet x.wg = false ∧ s.depOf x.wg = none ∧ (s.translate (s.whoXo x.ctx x.priv) .store 0x1090).toOption = some 0x1090 ∧
      place 0x1090 = .cell 0x1090 .cached ∧ s.stalledAt 0x1090 = false ∧
      ownLine s (s.whoXo x.ctx x.priv).die 0x1090 ∧ s.memWf = true) ∧
    (let x := xfer0 (.sig 1 true) none; let s := sXo w0 [(4, x)]; let t := sXo w0 [(3, xfer0 (.put [1]) none), (4, x)];
      s.xfers.get? 4 = some x ∧ t.xfers.get? 4 = some x ∧ s.putBefore 4 x = false ∧ t.putBefore 4 x = true) ∧
    (let x := xfer0 (.put [1]) none; let s := sXo w0 [(4, x)];
      (s.translate (s.whoXo x.ctx 2) .store ((s.ctxD x.ctx).epBase + BitVec.ofNat 64 (64 * x.ep + 48))).toOption = some 0x3030 ∧
        place 0x3030 = .cell 0x3030 .cached ∧ 0x3030 % 8 = 0 ∧ s.memWf = true) ∧
    (let s := sXo w0 []; s.endpoint (0 : BitVec 6).toNat 1 = none ∧ s.endpoint (0 : BitVec 6).toNat 0 = some ep0 ∧ 0 + 8 ≤ ep0.lwsize ∧
      (ep0.lwbase + BitVec.ofNat 64 0).toNat % 32 + 8 ≤ 32 ∧ (∀ k ∈ [Need.store, .load],
        (s.windowAt (0 : BitVec 6).toNat k (ep0.lwbase + BitVec.ofNat 64 0)).toOption = some 0x1080) ∧
      s.stalledAt 0x1080 = false ∧ isCell 0x1080 = true) := by
  refine ⟨⟨⟨⟨rfl, rfl⟩, rfl, by decide⟩, ⟨by decide, by decide⟩, rfl, ⟨by decide +kernel, by decide, by decide, by decide +kernel⟩, by decide,
      by decide +kernel, by decide +kernel⟩,
    ⟨⟨⟨rfl, rfl⟩, rfl, by decide⟩, ⟨by decide, by decide⟩, ⟨by decide +kernel, by decide, by decide, by decide +kernel⟩, by decide, by decide,
      by decide +kernel, by decide +kernel, by decide +kernel⟩,
    ⟨by decide, rfl, ⟨by decide, by decide⟩, by decide +kernel⟩, ?_,
    ⟨rfl, rfl, by decide, by decide, rfl, by decide +kernel, rfl, by decide,
      fun _ _ _ _ h => absurd h List.not_mem_nil, by decide⟩, ⟨rfl, rfl, by decide, by decide⟩,
    ⟨by decide +kernel, rfl, by decide, by decide⟩,
    ⟨by decide +kernel, by decide +kernel, by decide +kernel, by decide +kernel, by decide +kernel, by decide, by decide⟩⟩
  intro x h
  simp only [List.mem_cons, List.not_mem_nil, or_false] at h
  rcases h with rfl | rfl <;> exact ⟨rfl, rfl, rfl, rfl⟩

/-! ## Hypotheses met: numbers, walks, the machine -/

theorem met_SmallerLargerAndClass : (∃ o, minmaxOf (.fmax ⟨hd, .f16, dv 0, .v 1, .v 2⟩) = some o ∧ Issuing s0 c0 w0 ∧
      latchOk w0 c0.mask o.srcs = true) ∧ latchOk w0 c0.mask (classOf ⟨hd, .bf16, dv 0, .v 1⟩).srcs = true :=
  ⟨⟨_, rfl, iss0, by decide⟩, by decide⟩

theorem met_RoundedOnce : ∀ m ∈ [Mode.near, .zero, .up, .down], let v : FEnv := { mode := m, daz := false, ftz := false };
    v.daz = false ∧ v.ftz = false ∧ finite32 1 ∧ finite32 0xFF7FFFFF ∧ finite32 0x80000000 := by
  intro m _
  exact ⟨rfl, rfl, by unfold finite32; decide, by unfold finite32; decide, by unfold finite32; decide⟩

theorem met_TranslationWalks :
    s0.hub.regionsNow.getLsbD 0 = false ∧ s0.secMg = false ∧ 2 ^ 56 ≤ (0x100000000000000 : BitVec 64).toNat ∧
    (let a : Who := s0.whoLs w0; (0x1080 : BitVec 64).toNat < 2 ^ 56 ∧ s0.tlbHit a 0x1080 = none ∧
      (s0.ctxD a.ctx).ptbaseNow.getLsbD 0 = true ∧ rootOf (s0.ctxD a.ctx) = 0x8000 ∧ walksTo s0 a.die 0x1080 3 0x8000 0x3E7 ∧
      Nat.testBit 0x3E7 9 = true ∧ (∀ need ∈ [Need.load, .store, .fetch, .loadOrFetch, .loadStore], (permission need 0x3E7).1 = true) ∧
      ¬isRegister (inLeaf 0x3E7 0x1080)) ∧
    (State.reset.ctxD 0).ptbaseNow.getLsbD 0 = false ∧ Nat.testBit 0x1E7 9 = false ∧ (permission .store 0x267).1 = false ∧
    permission .loadStore 0x3A7 = (false, 3) ∧ permission .loadStore 0x367 = (false, 4) := by
  have e3 : entryAt s0 (s0.whoLs w0).die 3 0x8000 0x1080 = 0x4001 := by decide +kernel
  have e2 : entryAt s0 (s0.whoLs w0).die 2 0x4000 0x1080 = 0x3E7 := by decide +kernel
  refine ⟨rfl, by decide, by decide, ⟨by decide, by decide, rfl, by decide, .inr ⟨?_, ?_⟩, by decide, by decide, ?_⟩, rfl, by decide, by decide, by decide, by decide⟩
  · rw [e3]; unfold pointerFor; decide
  · rw [e3]
    exact .inl ⟨e2, by unfold leafFor; decide⟩
  · have p : place (inLeaf 0x3E7 0x1080) = .cell 0x1080 .cached := by decide
    rintro ⟨off, h⟩
    rw [p] at h
    cases h

theorem met_WaveStartValues : (s0.gridOf 2).lrec.nstr ≤ 32 ∧ (({ s0 with grids := [(1, { placedGrid with
    lrec := { placedRec with nstr := 32 } })] } : State).gridOf 2).lrec.nstr ≤ 32 := by decide

/-- A machine whose one wave may fetch the word at its program counter, from memory. -/
def sFetch : State :=
  { s0 with
    cur := none
    mem := { cells := [(0x1040, 0x00)] ++ table, icache := [{ core := 0, line := 0x41, bytes := List.replicate 64 0 }] }
    agenda := [.issue 3 false false] }

/-- Its wave within the window, whose bytes it has. -/
def wMid : Wave :=
  { w0 with
    strands := [(0, startStrand 0x1048)]
    paths := [{ born := 0, mask := 1, edge := .mid, buf := List.replicate 32 0 }], turnOf := some 0, turnQ := 16 }

theorem met_StepRunsDecodedInstruction :
    (∀ w ∈ [w0, wMid], let s : State := { sFetch with waves := [(3, w)] };
      movesNext s (.issue 3 false false) [] ∧ s.waves.get? 3 = some w ∧ s.canIssue 3 false = true ∧ s.hasLane 3 = true ∧
      ∃ p begins m q t bytes, w.choose (s.isDet w.wg) false = some (p, begins) ∧ w.merge p.born = m ∧
        (let w1 : Wave := { (if begins then m.1.beginTurn m.2 else m.1) with lastTurn := s.tick + s.clk };
          let pc := w1.pathPc q;
          w1.path? m.2 = some q ∧ q.ready = true ∧ windowFound { s with
            agenda := [], cur := none, waves := s.waves.set 3 w1, lanes := s.lanes.set (s.laneOf 3) 3 } 3 m.2 w1 q pc t bytes ∧
          decode (t.decCtx (t.waveD 3)) (bytes.drop (pc.toNat % 32)) = .ok (.nop plain) ∧
          pc.toNat % 32 + wordBytes ((bytes.drop (pc.toNat % 32)).headD 0) ≤ 32 ∧ t.stalls 3 q.mask (.nop plain) = false)) ∧
    movesNext { State.reset with agenda := [.event .deviceReset] } (.event .deviceReset) [] ∧ Instr.deviceReset.toFields = none := by
  refine ⟨fun w h => ?_, .inl rfl, rfl⟩
  simp only [List.mem_cons, List.not_mem_nil, or_false] at h
  rcases h with rfl | rfl
  · exact ⟨.inl rfl, rfl, by decide +kernel, by decide +kernel, _, _, _, _, _, _, rfl, rfl, rfl, by decide,
      .inl ⟨⟨rfl, .inr (.inl (by decide))⟩, 0x1040, rfl, by decide, rfl, rfl⟩, rfl, by decide +kernel, by decide +kernel⟩
  · exact ⟨.inl rfl, rfl, by decide +kernel, by decide +kernel, _, _, _, _, _, _, rfl, rfl, rfl, by decide,
      .inr ⟨by decide, rfl, rfl⟩, rfl, by decide +kernel, by decide +kernel⟩

theorem met_DecodeOfEncode : (Instr.nop plain).wf ⟨256, false, false, false⟩ = true ∧ ∃ bs, (Instr.nop plain).encode = some bs := ⟨by decide, _, rfl⟩

theorem met_DecodedIsWellFormed : decode ⟨256, false, false, false⟩ (List.replicate 16 0) = .ok (.nop plain) := rfl

theorem met_MachineNeverStops : (∃ t, Sys2Proof.Machine.step State.reset = .next t) ∧ (Instr.nop plain).toFields.isSome = true ∧ State.reset.cur = none :=
  ⟨⟨_, rfl⟩, rfl, rfl⟩

theorem met_MemoryCanonicalKept : s0.memWf = true ∧ ∃ t, Sys2Proof.Machine.step { s0 with agenda := [.issue 3 false false], cur := none } = .next t :=
  ⟨by decide, _, rfl⟩

/-! ## One step each: results from the manual's examples and by hand -/

/-- The wave with v1, v2 and v3 of strand 0 set. -/
def wV (a b c : BitVec 32) : Wave :=
  { w0 with strands := [(0, { startStrand 0x1040 with v := [(1, a), (2, b), (3, c)] })] }
/-- The wave after an instruction that it issues. -/
def after (i : Instr) (w : Wave) : Option Wave :=
  match exec i (st w g0 placedGrid) with
  | .next t => t.waves.get? 3
  | .fault _ => none
  | .refused _ => none
/-- What an instruction leaves in v4 of strand 0. -/
def got (i : Instr) (a b c : BitVec 32) : Option (BitVec 32) := (after i (wV a b c)).map fun w => (w.strand 0).v32 4
/-- The flags it raises. -/
def raised (i : Instr) (a b c : BitVec 32) : Option (BitVec 5) := (after i (wV a b c)).map fun w => w.fpflags
/-- Operands of one, two and three sources, v4 the destination. -/
def u1 (t : Ty) : Un := ⟨hd, t, dv 4, .v 1⟩
/-- Two sources. -/
def u2 (t : Ty) : Bin := ⟨hd, t, dv 4, .v 1, .v 2⟩
/-- Three sources. -/
def u3 (t : Ty) : Tri := ⟨hd, t, dv 4, .v 1, .v 2, .v 3⟩

/-- R91: the sum wraps, or saturates; a destination that is a source is read before it is written. -/
theorem test_iadd : got (.iadd false (u2 .s32)) 0x7FFFFFFF 1 0 = some 0x80000000 ∧ got (.iadd true (u2 .s32)) 0x7FFFFFFF 1 0 = some 0x7FFFFFFF ∧
    got (.iadd true (u2 .z8)) 0xFF 0x101 0 = some 0xFF := by decide +kernel
/-- R91: the difference of z types clamps at zero. -/
theorem test_isub : got (.isub true (u2 .z32)) 3 5 0 = some 0 ∧ got (.isub false (u2 .s32)) 3 5 0 = some 0xFFFFFFFE := by decide +kernel
/-- R91: the high half depends on the sign. -/
theorem test_imulh : got (.imulh (u2 .s32)) 0xFFFFFFFF 2 0 = some 0xFFFFFFFF ∧ got (.imulh (u2 .z32)) 0xFFFFFFFF 2 0 = some 1 := by decide +kernel
/-- R91: the last paragraph of the rule. -/
theorem test_iabs : got (.iabs false (u1 .s32)) 0x80000000 0 0 = some 0x80000000 ∧ got (.iabs true (u1 .s32)) 0x80000000 0 0 = some 0x7FFFFFFF := by
  decide +kernel
/-- R92: shifts of the width or more. -/
theorem test_shifts : got (.shl (u2 .z32)) 1 32 0 = some 0 ∧ got (.sar (u2 .s32)) 0x80000000 40 0 = some 0xFFFFFFFF ∧
    got (.rot (u2 .z32)) 0x80000001 33 0 = some 3 := by decide +kernel
/-- R93: the examples of the rule. -/
theorem test_bfx : got (.bfx (u2 .s32)) 0xF0A5 0x0804 0 = some 0xA ∧ got (.bfx (u2 .s32)) 0xF0A5 0x0808 0 = some 0xFFFFFFF0 ∧
    got (.bfx (u2 .s32)) 0xF0A5 0x1420 0 = some 0 := by decide +kernel
/-- R93: the field lands at its place. -/
theorem test_bfi : got (.bfi (u3 .z32)) 0xFFFFFFFF 0x0408 0x12 = some 0xFFFFF2FF := by decide +kernel
/-- R97: the examples of the rule. -/
theorem test_prmt : got (.prmt (u3 .z32)) 0x11223344 0x04050607 0xAABBCCDD = some 0xDDCCBBAA ∧ got (.prmt (u3 .z32)) 0x80 0x20202020 0 = some 0xFFFFFFFF ∧
    got (.prmt (u3 .z32)) 0x80 0x30303030 0 = some 0 ∧ got (.prmt (u3 .z32)) 0x01 0x08080810 0 = some 0x80 := by decide +kernel
/-- R104: 1 + 2^-24 ties to even and is inexact; the largest finite number doubled overflows; infinity minus itself is invalid. -/
theorem test_fadd : got (.fadd .rn (u2 .f32)) 0x3F800000 0x33800000 0 = some 0x3F800000 ∧
    raised (.fadd .rn (u2 .f32)) 0x3F800000 0x33800000 0 = some 0x10 ∧ got (.fadd .rn (u2 .f32)) 0x7F7FFFFF 0x7F7FFFFF 0 = some 0x7F800000 ∧
    got (.fsub .rn (u2 .f32)) 0x7F800000 0x7F800000 0 = some 0x7FC00000 ∧ raised (.fsub .rn (u2 .f32)) 0x7F800000 0x7F800000 0 = some 1 := by
  decide +kernel
/-- R104: the fused multiply-add rounds once: (1 + 2^-23)^2 - (1 + 2^-22) is 2^-46. -/
theorem test_ffma : got (.ffma .rn (u3 .f32)) 0x3F800001 0x3F800001 0xBF800002 = some 0x28800000 := by decide +kernel
/-- R105: -0 is below +0, and a NaN gives the other input. -/
theorem test_fmin : got (.fmin (u2 .f32)) 0 0x80000000 0 = some 0x80000000 ∧ got (.fmax (u2 .f32)) 0x7FC00000 0x3F800000 0 = some 0x3F800000 := by
  decide +kernel
/-- The exact root of 4 (the manual's example) raises nothing. -/
theorem test_fsqrt : got (.fsqrt .rn (u1 .f32)) 0x40800000 0 0 = some 0x40000000 ∧ raised (.fsqrt .rn (u1 .f32)) 0x40800000 0 0 = some 0 := by
  decide +kernel
/-- R135: 2.5 rounds to even; 128 saturates in .s8. -/
theorem test_cvtfi : got (.cvtfi ⟨hd, .rn, false, .s32, .f32, dv 4, .v 1⟩) 0x40200000 0 0 = some 2 ∧
    got (.cvtfi ⟨hd, .rn, true, .s8, .f32, dv 4, .v 1⟩) 0x43000000 0 0 = some 0x7F := by decide +kernel
/-- R382 to R385: `TRAP` with a handler goes to TRAPBASE at level 1, the cause and the code saved. -/
theorem test_trap : (match exec (.trap hd (.imm 7)) (sTrap w0 0x1001) with
    | .next t => some (((t.waveD 3).strand 0).pc, (t.waveD 3).priv, (t.waveD 3).trappc, (t.waveD 3).trapinfo)
    | .fault _ => none
    | .refused _ => none) = some (0x1000, 1, 0x1040, 7) := by decide +kernel
/-- R164, R165: a store of a word that crosses nothing is in memory, least significant byte first. -/
theorem test_store : (match exec (.st stored0) (st { w0 with strands := [(0, { startStrand 0x1040 with v := [(6, 0x11223344)] })] } g0 placedGrid) with
    | .next t => some (t.readBytes 0 0x10BC 4)
    | .fault _ => none
    | .refused _ => none) = some [0x44, 0x33, 0x22, 0x11] := by decide +kernel

end Sys2Proof.Tests
end

namespace Sys2Proof.Arithmetic
open Sys2Proof Sys2Proof.Machine Sys2Proof.Claims

/-! ## Masks of strands (R54, R57) -/

theorem getLsbD_slotBit (i j : Nat) : (slotBit i).getLsbD j = (decide (j < 32) && decide (i = j)) := by
  rw [slotBit, BitVec.getLsbD_ofNat, Nat.testBit_two_pow]

theorem getLsbD_foldl_slotBit (l : List Nat) (m : BitVec 32) (i : Nat) :
    (l.foldl (fun m i => m ||| slotBit i) m).getLsbD i = (m.getLsbD i || (decide (i < 32) && decide (i ∈ l))) := by
  induction l generalizing m with
  | nil => simp
  | cons j r ih =>
    rw [List.foldl_cons, ih, BitVec.getLsbD_or, getLsbD_slotBit]
    by_cases h : i = j
    · by_cases hi : i < 32 <;> simp [h, h ▸ hi]
    · simp [h, Ne.symm h]

/-- A mask holds just the slots of its list. -/
theorem getLsbD_maskOf (l : List Nat) (i : Nat) : (maskOf l).getLsbD i = (decide (i < 32) && decide (i ∈ l)) := by
  simp [maskOf, getLsbD_foldl_slotBit]

theorem getLsbD_liveMask (w : Wave) {i : Nat} (hi : i < 32) : w.liveMask.getLsbD i = (w.strand i).live := by
  simp only [Wave.liveMask, getLsbD_maskOf, hi, Wave.strand, List.mem_filter, List.mem_range]
  simp

/-! ## Instructions that write one register or pair (R32, R34, R38, R57, R100) -/

/-- The wave after such an instruction, by the model's own retiring. -/
def resultWave (o : DataIns) (c : Issue) (w : Wave) (e : BitVec 32) : Wave :=
  { w.retireData c e o.h.nwb o.d o.w64 o.sgn (o.val w e) with fpflags := o.sticky w e }

@[simp] theorem strand_resultWave (o : DataIns) (c : Issue) (w : Wave) (e : BitVec 32) (i : Nat) :
    (resultWave o c w e).strand i = (w.retireData c e o.h.nwb o.d o.w64 o.sgn (o.val w e)).strand i := rfl

theorem edgeAt_eq (a : BitVec 64) : edgeAt a = edgeTo a := by simp [edgeTo, edgeAt, atWindow]

theorem keptLatch_eq (o : DataIns) (w : Wave) (i : Nat) :
    keptLatch w o.h.nwb o.d o.w64 (w.strand i) = o.kept w i := rfl

theorem latchVal_eq (w64 : Bool) (x : BitVec 64) :
    latchVal w64 x = if w64 then x else (x.extractLsb' 0 32).zeroExtend 64 := rfl

theorem retired_resultWave (o : DataIns) (c : Issue) (w : Wave) (e : BitVec 32) : Retired c w (resultWave o c w e) := by
  constructor
  unfold resultWave
  rw [Wave.retireData_eq, edgeAt_eq]
  rfl

/-- Of a strand of the path only the registers depend on what is written (R38, R39). -/
theorem strandAfter_eq (o : DataIns) (c : Issue) (w : Wave) (e : BitVec 32) (i : Nat) :
    (strandAfter w e o.h.nwb o.d o.w64 (o.val w e) i (w.strand i)).goOn c.next =
    { w.strand i with
      v := (strandAfter w e o.h.nwb o.d o.w64 (o.val w e) i (w.strand i)).v
      pc := c.next
      l0 := o.latch w e i
      l1 := (w.strand i).l0
      l2 := (w.strand i).l1
      l3 := (w.strand i).l2
      latN := if c.next.toNat % 32 = 0 then 0 else min 4 ((w.strand i).latN + 1)
      pushes := (w.strand i).pushes + 1 } := by
  unfold strandAfter DataIns.latch
  by_cases hd : o.d.s = true
  · by_cases he : e = 0 <;> simp [hd, he, Strand.goOn, Strand.push, Strand.shift, atWindow, keptLatch_eq, latchVal_eq, lead]
  · cases he : e.getLsbD i
    · simp [hd, Strand.goOn, Strand.push, Strand.shift, atWindow, keptLatch_eq]
    · rw [Strand.setD_eq]
      cases hn : o.h.nwb <;> simp [hd, Strand.goOn, Strand.push, Strand.shift, atWindow, latchVal_eq]

theorem v32_strandAfter (o : DataIns) (c : Issue) (w : Wave) (e : BitVec 32) (i n : Nat) :
    ((strandAfter w e o.h.nwb o.d o.w64 (o.val w e) i (w.strand i)).goOn c.next).v32 n = o.vreg w e i n := by
  have push_v32 : ∀ (st : Strand) x, ((st.push x).goOn c.next).v32 n = st.v32 n := fun _ _ => rfl
  unfold strandAfter DataIns.vreg
  by_cases hd : o.d.s = true
  · simp [hd, push_v32]
  · cases he : e.getLsbD i
    · simp [hd, push_v32]
    · cases hn : o.h.nwb <;> simp [hd, push_v32, Strand.v32_setD]

theorem wrote_resultWave (o : DataIns) (c : Issue) (w : Wave) (e : BitVec 32) : Wrote o c w e (resultWave o c w e) where
  strand i hi hm := by
    simp only [strand_resultWave, Wave.strand_retireData, hi, hm, and_self, if_true, strandAfter_eq]
  beside i hi := by
    simp only [strand_resultWave, Wave.strand_retireData, hi, if_false, DataIns.beside]
    by_cases h : i < 32
    · simp only [getLsbD_liveMask w h]
      rfl
    · simp [h]
  vregs i n hi hm := by
    simp only [strand_resultWave, Wave.strand_retireData, hi, hm, and_self, if_true, v32_strandAfter]
  sregs n := Wave.sreg_retireData ..
  flags := rfl

/-- An instruction completes when what it answers on an issue is the wave with the result. -/
theorem completes_of_answer {i : Instr} {o : DataIns} (k : State → Issue → Wave → BitVec 32 → Ans)
    (hx : ∀ s, exec i s = perform s o.h o.srcs (k s))
    (hk : ∀ s c w, Issuing s c w → ∀ e, s.answer c (k s c w e) = onlyWave s c (resultWave o c w e)) : o.Completes i := by
  intro s c w hi hl
  refine ⟨_, ?_, retired_resultWave o c w _, wrote_resultWave o c w _⟩
  rw [hx, perform_ok hi.cur hi.wave hl, hk s c w hi]

/-- An answer that changes the issuing wave. -/
theorem answer_done {s : State} {c : Issue} {w : Wave} (hi : Issuing s c w) (f : Wave → Wave) :
    s.answer c (s.done c f) = onlyWave s c (f w) := by
  rw [State.done, State.answer_next, State.put_eq hi.wave]
  rfl

/-- An instruction that raises no flag leaves the sticky ones. -/
theorem sticky_of_flags_zero {o : DataIns} (h : o.flags = fun _ _ _ => 0) (w : Wave) (e : BitVec 32) : o.sticky w e = w.fpflags := by
  have hfold : ∀ l : List Nat, l.foldl (fun a _ => a ||| (0 : BitVec 5)) 0 = 0 := by
    intro l
    induction l with
    | nil => rfl
    | cons i r ih => exact ih
  rw [DataIns.sticky, h]
  split
  · exact BitVec.or_zero
  · exact (congrArg _ (hfold _)).trans BitVec.or_zero

theorem answer_dataNext {s : State} {c : Issue} {w : Wave} (hi : Issuing s c w) (e : BitVec 32) {o : DataIns}
    (h : o.flags = fun _ _ _ => 0) :
    s.answer c (dataNext s c e o.h o.d o.w64 o.sgn (o.val w e)) = onlyWave s c (resultWave o c w e) := by
  rw [dataNext, answer_done hi, resultWave, sticky_of_flags_zero h]
  congr 1
  rw [Wave.retireData_eq]

/-- An instruction that raises no flag completes when it answers its result in the shared frame. -/
theorem completes_of_dataNext {i : Instr} {o : DataIns} (h : o.flags = fun _ _ _ => 0)
    (hx : ∀ s, exec i s = perform s o.h o.srcs fun c w e => dataNext s c e o.h o.d o.w64 o.sgn (o.val w e)) : o.Completes i :=
  completes_of_answer _ hx fun _ _ _ hi e => answer_dataNext hi e h

/-- The frame of the floating-point instructions: the flags of the enabled strands join the sticky ones (R100). -/
theorem answer_fpNext {s : State} {c : Issue} {w : Wave} (hi : Issuing s c w) (e : BitVec 32) {o : DataIns} (hw : o.w64 = false)
    (hs : o.sgn = false) {r : Nat → FRes} (hv : ∀ j, o.val w e j = BitVec.ofNat 64 (r j).1) (hf : ∀ j, o.flags w e j = (r j).2) :
    s.answer c (fpNext s c e o.h o.d r) = onlyWave s c (resultWave o c w e) := by
  rw [fpNext, answer_done hi, resultWave, hw, hs, ← (funext hv : o.val w e = _)]
  have hfl : (if (o.d.s && e != 0) = true then (r ((slotsOf e).headD 0)).2 else flagsOf e fun j => (r j).2) =
      if o.d.s = true ∧ e ≠ 0 then o.flags w e (lead e) else (slotsOf e).foldl (fun a j => a ||| o.flags w e j) 0 := by
    simp [hf, lead, flagsOf, noFlag]
  rw [hfl, DataIns.sticky, Wave.retireData_eq]
  split <;> rfl

end Sys2Proof.Arithmetic

namespace Sys2Proof.Arithmetic
open Sys2Proof Sys2Proof.Machine Sys2Proof.Claims

/-! ## Words and integers of a type (R43, R87) -/

theorem tyBits_pos (t : Ty) : 0 < tyBits t := by cases t <;> decide

theorem tyBits_le (t : Ty) : tyBits t ≤ 64 := by cases t <;> decide

theorem wrapTo_eq (w : Nat) (x : Int) : wrapTo w x = (BitVec.ofInt w x).toNat := by simp [wrapTo]

theorem signedOf_eq (w x : Nat) : signedOf w x = (BitVec.ofNat w x).toInt := by
  simp [signedOf, BitVec.toInt_eq_toNat_cond]

theorem rdPat_eq (t : Ty) (x : BitVec 64) : rdPat t x = (low t x).toNat := by simp [rdPat, low]

theorem rdInt_eq (t : Ty) (x : BitVec 64) : rdInt t x = num t (low t x) := by
  have h : BitVec.ofNat (tyBits t) x.toNat = low t x := by simp [low]
  unfold rdInt num
  rw [rdPat_eq, signedOf_eq, h]

/-- The result of R87 is the pattern of the type, extended. -/
theorem wrInt_eq (t : Ty) (r : Int) : wrInt t r = wide t (BitVec.ofInt (tyBits t) r) := by
  simp only [wrInt, wide, wrapTo_eq, signedOf_eq, BitVec.ofNat_toNat, BitVec.setWidth_eq, Bool.and_eq_true, decide_eq_true_eq]
  rfl

theorem satInt_eq (t : Ty) (sat : Bool) (r : Int) : satInt t sat r = if sat then max (least t) (min r (greatest t)) else r := by
  cases sat <;> cases h : tySigned t <;> simp [satInt, least, greatest, h]

theorem wrInt_satInt (t : Ty) (sat : Bool) (r : Int) : wrInt t (satInt t sat r) = fit t sat r := by
  rw [wrInt_eq, satInt_eq, fit]

theorem ofInt_num (t : Ty) (y : BitVec (tyBits t)) : BitVec.ofInt (tyBits t) (num t y) = y := by
  unfold num
  split <;> simp

theorem wrInt_num (t : Ty) (y : BitVec (tyBits t)) : wrInt t (num t y) = wide t y := by rw [wrInt_eq, ofInt_num]

theorem wrInt_natCast (t : Ty) (n : Nat) : wrInt t (n : Int) = wide t (BitVec.ofNat (tyBits t) n) := by
  rw [wrInt_eq, BitVec.ofInt_natCast]

theorem wrInt_mul (t : Ty) (a b : BitVec (tyBits t)) : wrInt t (num t a * num t b) = wide t (a * b) := by
  rw [wrInt_eq, BitVec.ofInt_mul, ofInt_num, ofInt_num]

theorem wrInt_mul_add (t : Ty) (a b c : BitVec (tyBits t)) : wrInt t (num t a * num t b + num t c) = wide t (a * b + c) := by
  rw [wrInt_eq, BitVec.ofInt_add, BitVec.ofInt_mul, ofInt_num, ofInt_num, ofInt_num]

theorem wrInt_min (t : Ty) (a b : BitVec (tyBits t)) :
    wrInt t (min (num t a) (num t b)) = wide t (if num t a ≤ num t b then a else b) := by
  have hmin : min (num t a) (num t b) = if num t a ≤ num t b then num t a else num t b := by split <;> omega
  rw [hmin]
  split <;> rw [wrInt_num]

theorem wrInt_max (t : Ty) (a b : BitVec (tyBits t)) :
    wrInt t (max (num t a) (num t b)) = wide t (if num t a ≤ num t b then b else a) := by
  have hmax : max (num t a) (num t b) = if num t a ≤ num t b then num t b else num t a := by split <;> omega
  rw [hmax]
  split <;> rw [wrInt_num]

theorem natCast_two_pow (n : Nat) : ((2 ^ n : Nat) : Int) = 2 ^ n := Int.natCast_pow 2 n

theorem wrInt_mulh (t : Ty) (x : Int) : wrInt t (x / (2 ^ tyBits t : Nat)) = wide t (BitVec.ofInt (tyBits t) (x / 2 ^ tyBits t)) := by
  rw [wrInt_eq, natCast_two_pow]

theorem wrInt_toNat (t : Ty) (x : BitVec 64) : wrInt t (x.toNat : Int) = wide t (low t x) := by
  rw [wrInt_natCast, BitVec.ofNat_toNat, low]

theorem low_and (t : Ty) (x y : BitVec 64) : low t (x &&& y) = low t x &&& low t y := BitVec.setWidth_and

theorem low_or (t : Ty) (x y : BitVec 64) : low t (x ||| y) = low t x ||| low t y := BitVec.setWidth_or

theorem low_xor (t : Ty) (x y : BitVec 64) : low t (x ^^^ y) = low t x ^^^ low t y := BitVec.setWidth_xor

theorem low_not (t : Ty) (x : BitVec 64) : low t (~~~x) = ~~~low t x := BitVec.setWidth_not (tyBits_le t)

theorem natAbs_eq_ite (x : Int) : (x.natAbs : Int) = if x < 0 then -x else x := by
  split <;> omega

/-! ## Completion by the shape of the operands -/

theorem completes_un {i : Instr} {o : Un} {f} (g : BitVec 64 → BitVec 64) (hx : ∀ s, exec i s = dataUn o s g)
    (hg : ∀ a, g a = f (low o.t a)) : (ofUn o f).Completes i :=
  completes_of_dataNext rfl fun s => by
    rw [hx, funext hg]
    rfl

theorem completes_bin {i : Instr} {o : Bin} {f} (g : BitVec 64 → BitVec 64 → BitVec 64) (hx : ∀ s, exec i s = dataBin o s g)
    (hg : ∀ a b, g a b = f (low o.t a) (low o.t b)) : (ofBin o f).Completes i :=
  completes_of_dataNext rfl fun s => by
    rw [hx, funext fun a => funext (hg a)]
    rfl

theorem completes_tri {i : Instr} {o : Tri} {f} (g : BitVec 64 → BitVec 64 → BitVec 64 → BitVec 64)
    (hx : ∀ s, exec i s = dataTri o s g) (hg : ∀ a b c, g a b c = f (low o.t a) (low o.t b) (low o.t c)) :
    (ofTri o f).Completes i :=
  completes_of_dataNext rfl fun s => by
    rw [hx, funext fun a => funext fun b => funext (hg a b)]
    rfl

theorem completes_count {i : Instr} {o : Bin} {f} (g : BitVec 64 → BitVec 32 → BitVec 64) (hx : ∀ s, exec i s = dataBinN o s g)
    (hg : ∀ a k, g a k = f (low o.t a) k.toNat) : (ofCount o f).Completes i :=
  completes_of_dataNext rfl fun s => by
    rw [hx, funext fun a => funext (hg a)]
    rfl

theorem completes_bits {i : Instr} {o : Un} {f} (g : Nat → Nat → Nat) (hx : ∀ s, exec i s = dataCount o s g)
    (hg : ∀ y : BitVec (tyBits o.t), g (tyBits o.t) y.toNat = f y) : (ofBits o f).Completes i :=
  completes_of_dataNext rfl fun s => by
    simp only [hx, dataCount, rdPat_eq, hg]
    rfl

/-! ## Shifts, rotations and counts of a pattern (R92) -/

section
variable {n : Nat} (y : BitVec n) (k : Nat)

theorem ofNat_shlBits : BitVec.ofNat n (shlBits n y.toNat k) = y <<< k := by
  unfold shlBits
  split
  · rw [BitVec.shiftLeft_eq_zero ‹_›]
  · apply BitVec.eq_of_toNat_eq
    simp [Nat.shiftLeft_eq]

theorem ofNat_shrBits : BitVec.ofNat n (shrBits n y.toNat k) = y >>> k := by
  unfold shrBits
  split
  · rw [BitVec.ushiftRight_eq_zero ‹_›]
  · apply BitVec.eq_of_toNat_eq
    rw [BitVec.toNat_ofNat, BitVec.toNat_ushiftRight, Nat.shiftRight_eq_div_pow,
      Nat.mod_eq_of_lt (Nat.lt_of_le_of_lt (Nat.div_le_self ..) y.isLt)]

theorem ofNat_sarBits : BitVec.ofNat n (sarBits n y.toNat k) = y.sshiftRight k := by
  unfold sarBits
  split
  · -- every bit of the result is the top bit of the operand
    apply BitVec.eq_of_getLsbD_eq
    intro i hi
    have : y.toNat.testBit (n - 1) = y.msb := by rw [BitVec.testBit_toNat, BitVec.msb_eq_getLsbD_last]
    rw [this, BitVec.getLsbD_sshiftRight]
    have hk : ¬k + i < n := by omega
    rw [BitVec.getLsbD_ofNat]
    cases y.msb <;> simp [hk, hi, Nat.testBit_two_pow_sub_one]
  · rw [wrapTo_eq, signedOf_eq, BitVec.ofNat_toNat, BitVec.setWidth_eq, BitVec.ofNat_toNat, BitVec.setWidth_eq, BitVec.sshiftRight,
      Int.shiftRight_eq_div_pow]

theorem rotBits_eq (hn : 0 < n) : rotBits n y.toNat k = (y.rotateLeft k).toNat := by
  have hj : k % n < n := Nat.mod_lt _ hn
  have hlow : y.toNat / 2 ^ (n - k % n) < 2 ^ (k % n) := by
    rw [Nat.div_lt_iff_lt_mul (Nat.two_pow_pos _), ← Nat.pow_add, Nat.add_sub_cancel' (Nat.le_of_lt hj)]
    exact y.isLt
  have hhigh : y.toNat * 2 ^ (k % n) % 2 ^ n = 2 ^ (k % n) * (y.toNat % 2 ^ (n - k % n)) := by
    rw [Nat.mul_comm, ← Nat.mul_mod_mul_left, ← Nat.pow_add, Nat.add_sub_cancel' (Nat.le_of_lt hj)]
  rw [BitVec.toNat_rotateLeft, Nat.shiftLeft_eq, Nat.shiftRight_eq_div_pow, rotBits, hhigh, Nat.two_pow_add_eq_or_of_lt hlow]

theorem ofNat_rotBits (hn : 0 < n) : BitVec.ofNat n (rotBits n y.toNat k) = y.rotateLeft k := by
  rw [rotBits_eq y k hn, BitVec.ofNat_toNat, BitVec.setWidth_eq]

theorem clzBits_toNat : clzBits n y.toNat = if y = 0 then n else n - 1 - Nat.log2 y.toNat := by
  simp only [clzBits, log2, BitVec.toNat_eq]
  rfl

theorem popcount_eq (hn : n ≤ 64) : popcount y.toNat = ((List.range n).filter fun i => y.getLsbD i).length := by
  have hsplit : List.range 64 = List.range n ++ (List.range (64 - n)).map (n + ·) := by
    rw [← List.range_add, Nat.add_sub_cancel' hn]
  have hhigh : (((List.range (64 - n)).map (n + ·)).filter fun i => y.toNat.testBit i) = [] := by
    simp [List.filter_eq_nil_iff, BitVec.testBit_toNat]
  rw [popcount, hsplit, List.filter_append, hhigh, List.append_nil]
  rfl

/-- Adding different powers of two sets their bits. -/
theorem foldl_two_pow (p : Nat → Bool) (m : Nat) :
    ((List.range m).foldl (fun x i => if p i then x + 2 ^ i else x) 0) < 2 ^ m ∧
    ∀ j, ((List.range m).foldl (fun x i => if p i then x + 2 ^ i else x) 0).testBit j = (decide (j < m) && p j) := by
  induction m with
  | zero => simp
  | succ m ih =>
    obtain ⟨hlt, hbit⟩ := ih
    rw [List.range_succ, List.foldl_append, List.foldl_cons, List.foldl_nil]
    generalize (List.range m).foldl _ 0 = x at hlt hbit
    cases hp : p m
    · refine ⟨by simp; omega, fun j => ?_⟩
      by_cases hj : j = m
      · simp [hbit, hj, hp]
      · have : j < m + 1 ↔ j < m := by omega
        simp [hbit, this]
    · refine ⟨by simp; omega, fun j => ?_⟩
      have hor : x + 2 ^ m = 2 ^ m ||| x := by
        have h := Nat.two_pow_add_eq_or_of_lt hlt 1
        rw [Nat.mul_one] at h
        rw [Nat.add_comm, h]
      simp only [if_true, hor, Nat.testBit_or, hbit, Nat.testBit_two_pow]
      by_cases hj : j = m
      · simp [hj, hp]
      · have : j < m + 1 ↔ j < m := by omega
        simp [this, Ne.symm hj]

theorem testBit_revBits (m x j : Nat) : (revBits m x).testBit j = (decide (j < m) && x.testBit (m - 1 - j)) :=
  (foldl_two_pow _ m).2 j

theorem ofNat_revBits : BitVec.ofNat n (revBits n y.toNat) = y.reverse := by
  apply BitVec.eq_of_getLsbD_eq
  intro i hi
  rw [BitVec.getLsbD_ofNat, testBit_revBits, BitVec.testBit_toNat, BitVec.getLsbD_reverse, BitVec.getMsbD]
  simp [hi]
end

/-! ## The integer instructions -/

/-- Settles O1: each instruction has one of the shapes of operands above, and its operation on integers is, on patterns of the type,
the one of R91 and R92. -/
theorem integerArithmetic : Obligations.IntegerArithmetic := by
  unfold Obligations.IntegerArithmetic
  intro i o h
  unfold aluOf at h
  split at h <;> cases h
  case h_1 sat o =>
    exact completes_bin _ (fun _ => by dsimp only [exec, execIadd]) fun _ _ => by rw [wrInt_satInt, rdInt_eq, rdInt_eq]
  case h_2 sat o =>
    exact completes_bin _ (fun _ => by dsimp only [exec, execIsub]) fun _ _ => by rw [wrInt_satInt, rdInt_eq, rdInt_eq]
  case h_3 o =>
    exact completes_bin _ (fun _ => by dsimp only [exec, execImul]) fun _ _ => by rw [rdInt_eq, rdInt_eq, wrInt_mul]
  case h_4 o =>
    exact completes_tri _ (fun _ => by dsimp only [exec, execImad]) fun _ _ _ => by
      rw [rdInt_eq, rdInt_eq, rdInt_eq, wrInt_mul_add]
  case h_5 o =>
    exact completes_bin _ (fun _ => by dsimp only [exec, execImulh]) fun _ _ => by rw [rdInt_eq, rdInt_eq, wrInt_mulh]
  case h_6 o =>
    exact completes_bin _ (fun _ => by dsimp only [exec, execImin]) fun _ _ => by rw [rdInt_eq, rdInt_eq, wrInt_min]
  case h_7 o =>
    exact completes_bin _ (fun _ => by dsimp only [exec, execImax]) fun _ _ => by rw [rdInt_eq, rdInt_eq, wrInt_max]
  case h_8 sat o =>
    exact completes_un _ (fun _ => by dsimp only [exec, execIabs]) fun _ => by rw [wrInt_satInt, rdInt_eq, natAbs_eq_ite]
  case h_9 o => exact completes_bin _ (fun _ => by dsimp only [exec, execAnd]) fun _ _ => by rw [wrInt_toNat, low_and]
  case h_10 o => exact completes_bin _ (fun _ => by dsimp only [exec, execOr]) fun _ _ => by rw [wrInt_toNat, low_or]
  case h_11 o => exact completes_bin _ (fun _ => by dsimp only [exec, execXor]) fun _ _ => by rw [wrInt_toNat, low_xor]
  case h_12 o => exact completes_un _ (fun _ => by dsimp only [exec, execNot]) fun _ => by rw [wrInt_toNat, low_not]
  case h_13 o =>
    exact completes_count _ (fun _ => by dsimp only [exec, execShl]) fun _ _ => by rw [rdPat_eq, wrInt_natCast, ofNat_shlBits]
  case h_14 o =>
    exact completes_count _ (fun _ => by dsimp only [exec, execShr]) fun _ _ => by rw [rdPat_eq, wrInt_natCast, ofNat_shrBits]
  case h_15 o =>
    exact completes_count _ (fun _ => by dsimp only [exec, execSar]) fun _ _ => by rw [rdPat_eq, wrInt_natCast, ofNat_sarBits]
  case h_16 o =>
    exact completes_count _ (fun _ => by dsimp only [exec, execRot]) fun _ _ => by
      rw [rdPat_eq, wrInt_natCast, ofNat_rotBits _ _ (tyBits_pos _)]
  case h_17 o => exact completes_bits _ (fun _ => by dsimp only [exec, execPopc]) fun _ => popcount_eq _ (tyBits_le _)
  case h_18 o => exact completes_bits _ (fun _ => by dsimp only [exec, execClz]) clzBits_toNat
  case h_19 o => exact completes_bits _ (fun _ => by dsimp only [exec, execCtz]) fun _ => rfl
  case h_20 o =>
    exact completes_un _ (fun _ => by dsimp only [exec, execBrev]) fun _ => by rw [rdPat_eq, wrInt_natCast, ofNat_revBits]

end Sys2Proof.Arithmetic

namespace Sys2Proof.Arithmetic
open Sys2Proof Sys2Proof.Machine Sys2Proof.Claims

/-! ## Fields (R93) -/

theorem bfxField_eq (t : Ty) (a : BitVec 64) (spec : BitVec 32) : bfxField t a spec = bitField t (low t a) spec := by
  simp only [bfxField, bitField, rdInt_eq, wrapTo_eq, signedOf_eq, Int.shiftRight_eq_div_pow, natCast_two_pow,
    BitVec.ofNat_toNat, BitVec.setWidth_eq]
  generalize (spec.extractLsb' 8 8).toNat = len
  cases tySigned t
  · simp
  · cases len with
    | zero => simp [BitVec.toInt_zero_length]
    | succ len => simp

theorem wrInt_bfxField (t : Ty) (a : BitVec 64) (spec : BitVec 32) :
    wrInt t (bfxField t a spec) = wide t (BitVec.ofInt (tyBits t) (bitField t (low t a) spec)) := by rw [wrInt_eq, bfxField_eq]

/-- Clearing the bits of a mask is subtracting them. -/
theorem toNat_and_not {n : Nat} (x m : BitVec n) : (x &&& ~~~m).toNat = x.toNat - (x.toNat &&& m.toNat) := by
  have hd : (x &&& m) &&& (x &&& ~~~m) = 0#n := by
    ext i hi
    cases h : m[i] <;> simp [h]
  have hs : (x &&& m) + (x &&& ~~~m) = x := by
    rw [BitVec.add_eq_or_of_and_eq_zero _ _ hd]
    ext i hi
    cases h : m[i] <;> simp [h]
  have := BitVec.toNat_add_of_and_eq_zero hd
  rw [hs, BitVec.toNat_and] at this
  omega

theorem ofNat_bfiValue (t : Ty) (a c : BitVec 64) (spec : BitVec 32) :
    BitVec.ofNat (tyBits t) (bfiValue t a spec c) =
      (low t a &&& ~~~fieldMask (tyBits t) spec) |||
        (low t c <<< (spec.extractLsb' 0 8).toNat &&& fieldMask (tyBits t) spec) := by
  have hm : ((2 ^ (spec.extractLsb' 8 8).toNat - 1) * 2 ^ (spec.extractLsb' 0 8).toNat) % 2 ^ tyBits t =
      (fieldMask (tyBits t) spec).toNat := by
    simp [fieldMask, Nat.shiftLeft_eq]
  have hy : BitVec.ofNat (tyBits t) ((low t c).toNat * 2 ^ (spec.extractLsb' 0 8).toNat) =
      low t c <<< (spec.extractLsb' 0 8).toNat := by
    apply BitVec.eq_of_toNat_eq
    simp [Nat.shiftLeft_eq]
  simp only [bfiValue, rdPat_eq, hm, ← toNat_and_not, BitVec.ofNat_or, BitVec.ofNat_and, hy, BitVec.ofNat_toNat, BitVec.setWidth_eq]

/-! ## Moves (R95) -/

theorem wrInt_rdInt (t : Ty) (x : BitVec 64) : wrInt t (rdInt t x) = wide t (low t x) := by rw [rdInt_eq, wrInt_num]

theorem moviValue_eq (t : Ty) (x : BitVec 32) (hi : Bool) (old : BitVec 64) :
    moviValue t x hi old =
      if hi then x ++ old.extractLsb' 0 32
      else if t = .s64 then x.signExtend 64
      else if t = .z64 then x.zeroExtend 64
      else wide t (low t (x.zeroExtend 64)) := by
  simp only [moviValue, wrInt_rdInt, beq_iff_eq]

theorem mul_ofNat_two_pow (x : BitVec 64) (k : Nat) : x * BitVec.ofNat 64 (2 ^ k) = x <<< k := by
  apply BitVec.eq_of_toNat_eq
  simp [Nat.shiftLeft_eq]

theorem ofNat_wrapTo_rdInt (t : Ty) (x : BitVec 64) :
    BitVec.ofNat 64 (wrapTo 64 (rdInt t x)) = if tySigned t then (low t x).signExtend 64 else (low t x).zeroExtend 64 := by
  rw [wrapTo_eq, rdInt_eq, BitVec.ofNat_toNat, BitVec.setWidth_eq, num]
  split
  · rfl
  · rw [BitVec.ofInt_natCast, BitVec.ofNat_toNat]

/-- `SEL` reads the source that the predicate names (R94). -/
theorem selected_eq (t : Ty) (w : Wave) (i : Nat) (a b : Src) (q neg : Bool) :
    wrInt t (rdInt t (if q != neg then rdTy t w i a else rdTy t w i b)) =
      wide t (low t (rdTy t w i (if q = neg then b else a))) := by
  rw [wrInt_rdInt]
  by_cases h : q = neg <;> simp [h]

/-- `SHFL` reads the strand of R96 where it is enabled. -/
theorem shuffled_eq (t : Ty) (w : Wave) (e : BitVec 32) (m : ShflMode) (i : Nat) (a : Src) (b : BitVec 32) :
    (if 0 ≤ shflFrom m i b && shflFrom m i b ≤ 31 && e.getLsbD (shflFrom m i b).toNat then rdTy t w (shflFrom m i b).toNat a
      else rdTy t w i a) =
    if 0 ≤ shflSource m i b ∧ shflSource m i b < 32 ∧ e.getLsbD (shflSource m i b).toNat = true then
      rdTy t w (shflSource m i b).toNat a
    else rdTy t w i a := by
  have hs : shflFrom m i b = shflSource m i b := by cases m <;> rfl
  have hle : shflSource m i b ≤ 31 ↔ shflSource m i b < 32 := by omega
  simp only [hs, hle, Bool.and_eq_true, decide_eq_true_eq, and_assoc]

/-! ## Bytes (R97) -/

theorem field_toNat {w : Nat} (x : BitVec w) (lo n : Nat) : field x.toNat lo n = (x.extractLsb' lo n).toNat := by
  rw [BitVec.extractLsb'_toNat, Nat.shiftRight_eq_div_pow, field]

theorem revBits_toNat {n : Nat} (y : BitVec n) : revBits n y.toNat = y.reverse.toNat := by
  have hlt : revBits n y.toNat < 2 ^ n := (foldl_two_pow _ n).1
  rw [← ofNat_revBits, BitVec.toNat_ofNat, Nat.mod_eq_of_lt hlt]

theorem prmtByte_eq (x : BitVec 64) (sel : BitVec 32) (k : Nat) :
    prmtByte x.toNat (field sel.toNat (8 * k) 8) = (prmtPlace x sel k).toNat := by
  have reversed : ∀ (c : Bool) (y : BitVec 8), (if c then revBits 8 y.toNat else y.toNat) = (if c then y.reverse else y).toNat := by
    intro c y
    cases c <;> simp [revBits_toNat]
  have spread : ∀ (c : Bool) (y : BitVec 8),
      (if c then (if y.getLsbD 7 then 255 else 0) else y.toNat) = (if c then (if y.getLsbD 7 then 0xFF else 0) else y).toNat := by
    intro c y
    cases c <;> cases y.getLsbD 7 <;> rfl
  have zeroed : ∀ (c : Bool) (y : BitVec 8), (if c then 0 else y.toNat) = (if c then 0 else y).toNat := by
    intro c y
    cases c <;> rfl
  simp only [prmtByte, prmtPlace, byteOf, field_toNat, BitVec.testBit_toNat, reversed, spread, zeroed]
  rfl

theorem toNat_append_word (a c : BitVec 32) : c.toNat * 2 ^ 32 + a.toNat = (c ++ a).toNat := by
  rw [BitVec.toNat_append, ← Nat.shiftLeft_add_eq_or_of_lt a.isLt, Nat.shiftLeft_eq]

/-- Bytes joined are their sum at their places. -/
theorem toNat_append_byte {n : Nat} (x : BitVec n) (b : BitVec 8) : (x ++ b).toNat = x.toNat * 2 ^ 8 + b.toNat := by
  rw [BitVec.toNat_append, ← Nat.shiftLeft_add_eq_or_of_lt b.isLt, Nat.shiftLeft_eq]

/-- Four bytes joined are the sum that `PRMT` builds. -/
theorem toNat_four_bytes (b : Nat → BitVec 8) :
    (b 3 ++ b 2 ++ b 1 ++ b 0).toNat = (List.range 4).foldl (fun n k => n + (b k).toNat * 2 ^ (8 * k)) 0 := by
  have unrolled : ∀ f : Nat → Nat, (List.range 4).foldl (fun n k => n + f k) 0 = 0 + f 0 + f 1 + f 2 + f 3 := fun _ => rfl
  rw [toNat_append_byte, toNat_append_byte, toNat_append_byte, unrolled]
  omega

theorem ofNat_prmt (x : BitVec 64) (sel : BitVec 32) :
    BitVec.ofNat 64 ((List.range 4).foldl (fun n k => n + prmtByte x.toNat (field sel.toNat (8 * k) 8) * 2 ^ (8 * k)) 0) =
      (prmtPlace x sel 3 ++ prmtPlace x sel 2 ++ prmtPlace x sel 1 ++ prmtPlace x sel 0).zeroExtend 64 := by
  simp only [prmtByte_eq]
  rw [← toNat_four_bytes, BitVec.ofNat_toNat]

/-- The mask of a vote picks among the enabled strands (R83). -/
theorem voteMask_eq (w : Wave) (e : BitVec 32) (a : BitVec 3) (neg : Bool) : voteMask w e a neg = ballot w e a neg := by
  simp only [voteMask, ballot, slotsOf, List.filter_filter, Bool.and_comm]

/-! ## The moves and the masks -/

/-- Each of R93 to R97 writes the value of its rule. -/
theorem moves_complete (i : Instr) (o : DataIns) (h : moveOf i = some o) : o.Completes i := by
  unfold moveOf at h
  split at h <;> cases h
  case h_1 o =>
    exact completes_of_dataNext rfl fun _ => by
      dsimp only [exec, execBfx, dataBinN]
      simp only [wrInt_bfxField]
  case h_2 o =>
    exact completes_of_dataNext rfl fun _ => by
      dsimp only [exec, execBfi]
      simp only [wrInt_natCast, ofNat_bfiValue]
  case h_3 o pc neg =>
    exact completes_of_dataNext rfl fun _ => by
      dsimp only [exec, execSel]
      simp only [selected_eq]
  case h_4 o => exact completes_un _ (fun _ => by dsimp only [exec, execMov]) fun _ => wrInt_rdInt ..
  case h_5 h t d x hi =>
    exact completes_of_dataNext rfl fun _ => by
      dsimp only [exec, execMovi]
      simp only [moviValue_eq]
  case h_6 sh o =>
    exact completes_of_dataNext rfl fun _ => by
      dsimp only [exec, execLea]
      simp only [mul_ofNat_two_pow, beq_iff_eq]
  case h_7 o =>
    exact completes_of_dataNext rfl fun _ => by
      dsimp only [exec, execIext]
      simp only [ofNat_wrapTo_rdInt]
  case h_8 m o =>
    exact completes_of_dataNext rfl fun _ => by
      dsimp only [exec, execShfl]
      simp only [shuffled_eq]
  case h_9 o =>
    exact completes_of_dataNext rfl fun _ => by
      dsimp only [exec, execPrmt]
      simp only [toNat_append_word, ofNat_prmt]

/-- Settles O3: the moves complete by the value that each of them writes; `VOTE.ballot` and `PATHS` read no latch, so they complete on
every issue. -/
theorem movesAndMasks : Obligations.MovesAndMasks := by
  unfold Obligations.MovesAndMasks
  refine ⟨moves_complete, fun s c w i o h hi => ?_⟩
  refine ⟨resultWave o c w (maskSlots c w o i), ?_, retired_resultWave .., wrote_resultWave ..⟩
  unfold maskOfPath at h
  split at h <;> cases h
  case h_1 h d a neg =>
    dsimp only [exec, execVote]
    rw [perform_nil hi.cur hi.wave, ← answer_dataNext hi _ rfl, voteMask_eq]
    rfl
  case h_2 h d live =>
    dsimp only [exec, execPaths]
    rw [perform_nil hi.cur hi.wave, ← answer_dataNext hi _ rfl]
    rfl

end Sys2Proof.Arithmetic

namespace Sys2Proof.Arithmetic
open Sys2Proof Sys2Proof.Machine Sys2Proof.Claims

/-! ## Patterns of a format: sign and magnitude (R99, R102) -/

section
variable {F : Fmt}

/-- The sign bit of a pattern. -/
def sgnOf (F : Fmt) (b : Nat) : Bool := b.testBit (F.m + F.x)

/-- The bits below the sign as an operation sees them: zero for a subnormal under DAZ (R99). -/
def magOf (F : Fmt) (daz : Bool) (b : Nat) : Nat :=
  if daz = true ∧ b % 2 ^ (F.m + F.x) / 2 ^ F.m = 0 then 0 else b % 2 ^ (F.m + F.x)

/-- The exponent of a finite magnitude, above that of the subnormals. -/
def expOf (F : Fmt) (g : Nat) : Nat := g / 2 ^ F.m - 1

/-- The integer significand of a finite magnitude. -/
def sigOf (F : Fmt) (g : Nat) : Nat := g - expOf F g * 2 ^ F.m

/-- The exact value of a sign and a magnitude. -/
def valueOf (F : Fmt) (neg : Bool) (g : Nat) : FVal :=
  if F.infBits < g then .nan (!g.testBit (F.m - 1))
  else if g = F.infBits then .inf neg
  else .fin neg (sigOf F g) (F.emin - F.m + expOf F g)

theorem valueOf_nan {neg : Bool} {g : Nat} (hg : F.infBits < g) : valueOf F neg g = .nan (!g.testBit (F.m - 1)) := by
  simp [valueOf, hg]

theorem valueOf_inf (neg : Bool) : valueOf F neg F.infBits = .inf neg := by simp [valueOf]

theorem valueOf_fin {neg : Bool} {g : Nat} (hg : g < F.infBits) :
    valueOf F neg g = .fin neg (sigOf F g) (F.emin - F.m + expOf F g) := by
  simp [valueOf, Nat.not_lt_of_ge (Nat.le_of_lt hg), Nat.ne_of_lt hg]

theorem magOf_lt (daz : Bool) (b : Nat) : magOf F daz b < 2 ^ (F.m + F.x) := by
  unfold magOf
  split
  · exact Nat.two_pow_pos _
  · exact Nat.mod_lt _ (Nat.two_pow_pos _)

theorem field_exponent (b : Nat) : field b F.m F.x = b % 2 ^ (F.m + F.x) / 2 ^ F.m := by
  rw [field, Nat.pow_add, Nat.mod_mul_right_div_self]

theorem field_fraction (b : Nat) : field b 0 F.m = b % 2 ^ (F.m + F.x) % 2 ^ F.m := by
  rw [field, Nat.pow_zero, Nat.div_one, Nat.mod_mod_of_dvd _ (Nat.pow_dvd_pow 2 (Nat.le_add_right ..))]

theorem infBits_pos (hx : 0 < F.x) : 0 < F.infBits := by
  have : 1 < 2 ^ F.x := Nat.one_lt_two_pow (Nat.ne_of_gt hx)
  exact Nat.mul_pos (by omega) (Nat.two_pow_pos _)

/-- A magnitude has the top exponent from that of the infinity on. -/
theorem infBits_le_iff {g : Nat} (hg : g < 2 ^ (F.m + F.x)) : F.infBits ≤ g ↔ g / 2 ^ F.m = 2 ^ F.x - 1 := by
  have hd : g / 2 ^ F.m < 2 ^ F.x := Nat.div_lt_of_lt_mul (by rwa [← Nat.pow_add])
  rw [Fmt.infBits, ← Nat.le_div_iff_mul_le (Nat.two_pow_pos _)]
  omega

theorem eq_infBits_iff {g : Nat} (h : g / 2 ^ F.m = 2 ^ F.x - 1) : g = F.infBits ↔ g % 2 ^ F.m = 0 := by
  have := Nat.div_add_mod g (2 ^ F.m)
  rw [h, Nat.mul_comm] at this
  rw [Fmt.infBits]
  omega

/-- Significand and exponent make up the magnitude. -/
theorem expOf_mul_add_sigOf (g : Nat) : expOf F g * 2 ^ F.m + sigOf F g = g := by
  have : expOf F g * 2 ^ F.m ≤ g := Nat.le_trans (Nat.mul_le_mul_right _ (Nat.sub_le ..)) (Nat.div_mul_le_self ..)
  unfold sigOf
  omega

theorem sigOf_of_exponent_zero {g : Nat} (h : g / 2 ^ F.m = 0) : expOf F g = 0 ∧ sigOf F g = g ∧ g < 2 ^ F.m := by
  have hk : expOf F g = 0 := by simp [expOf, h]
  refine ⟨hk, by simp [sigOf, hk], ?_⟩
  exact (Nat.div_eq_zero_iff_lt (Nat.two_pow_pos _)).mp h

theorem sigOf_of_exponent_ne_zero {g : Nat} (h : g / 2 ^ F.m ≠ 0) : sigOf F g = 2 ^ F.m + g % 2 ^ F.m := by
  obtain ⟨k, hk⟩ := Nat.exists_eq_succ_of_ne_zero h
  have hg := Nat.div_add_mod g (2 ^ F.m)
  have he := expOf_mul_add_sigOf (F := F) g
  simp only [expOf, hk, Nat.succ_eq_add_one, Nat.add_sub_cancel] at he hg
  rw [Nat.mul_add, Nat.mul_comm] at hg
  omega

theorem sigOf_lt (g : Nat) : sigOf F g < 2 * 2 ^ F.m := by
  by_cases h : g / 2 ^ F.m = 0
  · obtain ⟨-, hs, hlt⟩ := sigOf_of_exponent_zero h
    omega
  · have := Nat.mod_lt g (Nat.two_pow_pos F.m)
    rw [sigOf_of_exponent_ne_zero h]
    omega

theorem le_sigOf {g : Nat} (h : expOf F g ≠ 0) : 2 ^ F.m ≤ sigOf F g := by
  rw [sigOf_of_exponent_ne_zero]
  · omega
  · intro h0
    exact h (sigOf_of_exponent_zero h0).1

theorem sigOf_eq_zero_iff (g : Nat) : sigOf F g = 0 ↔ g = 0 := by
  by_cases h : g / 2 ^ F.m = 0
  · rw [(sigOf_of_exponent_zero h).2.1]
  · have : 0 < 2 ^ F.m := Nat.two_pow_pos _
    rw [sigOf_of_exponent_ne_zero h]
    constructor
    · omega
    · rintro rfl
      simp at h

/-- Reading a pattern is taking the value of its sign and magnitude. -/
theorem read_eq (hx : 0 < F.x) (hm : 0 < F.m) (daz : Bool) (b : Nat) : F.read daz b = valueOf F (sgnOf F b) (magOf F daz b) := by
  have hlt : b % 2 ^ (F.m + F.x) < 2 ^ (F.m + F.x) := Nat.mod_lt _ (Nat.two_pow_pos _)
  have hone : 1 < 2 ^ F.x := Nat.one_lt_two_pow (Nat.ne_of_gt hx)
  have hs : b.testBit (F.m + F.x) = sgnOf F b := rfl
  simp only [Fmt.read, field_exponent, field_fraction, magOf, hs]
  generalize b % 2 ^ (F.m + F.x) = g at hlt
  by_cases htop : g / 2 ^ F.m = 2 ^ F.x - 1
  · have hne : g / 2 ^ F.m ≠ 0 := by omega
    have hle := (infBits_le_iff hlt).mpr htop
    have hmag : (if daz = true ∧ g / 2 ^ F.m = 0 then 0 else g) = g := if_neg fun h => hne h.2
    rw [if_pos htop, hmag]
    by_cases hf : g % 2 ^ F.m = 0
    · rw [if_pos hf, (eq_infBits_iff htop).mpr hf, valueOf_inf]
    · have hlast : F.m - 1 < F.m := by omega
      rw [if_neg hf, valueOf_nan (Nat.lt_of_le_of_ne hle fun h => hf ((eq_infBits_iff htop).mp h.symm)), Nat.testBit_mod_two_pow]
      simp [hlast]
  · have hfin : g < F.infBits := by
      rw [← Nat.not_le, infBits_le_iff hlt]
      exact htop
    rw [if_neg htop]
    by_cases hz : g / 2 ^ F.m = 0
    · obtain ⟨hk, hsig, hl⟩ := sigOf_of_exponent_zero hz
      cases daz
      · simp [hz, valueOf_fin hfin, hk, hsig, Nat.mod_eq_of_lt hl]
      · simp [hz, valueOf_fin (infBits_pos hx), expOf, sigOf]
    · have hexp : expOf F g + 1 = g / 2 ^ F.m := Nat.sub_add_cancel (Nat.pos_of_ne_zero hz)
      have hunit : ((expOf F g + 1 : Nat) : Int) - F.bias - F.m = 1 - F.bias - F.m + expOf F g := by omega
      rw [if_neg hz, if_neg (fun h => hz h.2), valueOf_fin hfin, sigOf_of_exponent_ne_zero hz, Fmt.emin, ← hexp, hunit]

/-! ## Showing what was read -/

theorem log2_sigOf_le {g : Nat} (h0 : g ≠ 0) : log2 (sigOf F g) ≤ F.m := by
  have hs : sigOf F g ≠ 0 := fun h => h0 ((sigOf_eq_zero_iff g).mp h)
  rw [log2, ← Nat.lt_succ_iff, Nat.log2_lt hs, Nat.pow_succ, Nat.mul_comm]
  exact sigOf_lt g

theorem log2_sigOf {g : Nat} (hk : expOf F g ≠ 0) : log2 (sigOf F g) = F.m := by
  have hle := le_sigOf hk
  have hpos : 0 < 2 ^ F.m := Nat.two_pow_pos _
  have hs : sigOf F g ≠ 0 := by omega
  refine Nat.le_antisymm (log2_sigOf_le fun h => hs ((sigOf_eq_zero_iff g).mpr h)) ?_
  rw [log2, Nat.le_log2 hs]
  exact hle

/-- A multiple of the unit is not changed by rounding to nearest. -/
theorem roundAt_exact (neg : Bool) (n : Nat) (e : Int) : roundAt .near neg n e false e = (n, false) := by
  simp [roundAt, roundsUp]

/-- Rounding what is exact changes nothing. -/
theorem round_exact {neg : Bool} {g : Nat} (h0 : g ≠ 0) (hg : g < F.infBits) :
    (F.round plainEnv neg (sigOf F g) (F.emin - F.m + expOf F g) false).1 = F.withSign neg g := by
  have hle : (log2 (sigOf F g) : Int) ≤ F.m := Int.ofNat_le.mpr (log2_sigOf_le h0)
  have hunit : max ((log2 (sigOf F g) : Int) + (F.emin - F.m + expOf F g) - F.m) (F.emin - F.m) = F.emin - F.m + expOf F g := by
    by_cases hk : expOf F g = 0
    · rw [hk]
      omega
    · rw [log2_sigOf hk]
      omega
  have hbits : (F.emin - F.m + expOf F g - (F.emin - F.m)).toNat * 2 ^ F.m + sigOf F g = g := by
    have hexp : (F.emin - F.m + expOf F g - (F.emin - F.m)).toNat = expOf F g := by omega
    rw [hexp, expOf_mul_add_sigOf]
  simp only [Fmt.round, hunit, plainEnv, roundAt_exact, hbits, Bool.and_false, Bool.false_eq_true, if_false, Nat.not_le.mpr hg]

theorem show_valueOf {neg : Bool} {g : Nat} (hg : g ≤ F.infBits) : F.show (valueOf F neg g) = F.withSign neg g := by
  rcases Nat.eq_or_lt_of_le hg with rfl | hlt
  · rw [valueOf_inf]
    rfl
  rw [valueOf_fin hlt, Fmt.show, Fmt.roundInt]
  by_cases h0 : g = 0
  · subst h0
    simp [sigOf]
  · have hs : sigOf F g ≠ 0 := fun h => h0 ((sigOf_eq_zero_iff g).mp h)
    rw [← round_exact h0 hlt]
    have hnn : ¬(sigOf F g : Int) < 0 := by omega
    cases neg <;> simp [hs, hnn, Nat.pos_of_ne_zero hs]

/-! ## The order -/

/-- A magnitude below the infinity in units of the least subnormal. -/
def ulps (F : Fmt) (g : Nat) : Nat := sigOf F g * 2 ^ expOf F g

theorem ulps_lt_of_lt {a b : Nat} (hab : a < b) : ulps F a < ulps F b := by
  have ha := expOf_mul_add_sigOf (F := F) a
  have hb := expOf_mul_add_sigOf (F := F) b
  have hsa := sigOf_lt (F := F) a
  have hsb := sigOf_lt (F := F) b
  unfold ulps
  rcases Nat.lt_trichotomy (expOf F a) (expOf F b) with h | h | h
  · have hl := le_sigOf (F := F) (g := b) (by omega)
    calc sigOf F a * 2 ^ expOf F a < 2 * 2 ^ F.m * 2 ^ expOf F a := Nat.mul_lt_mul_of_pos_right hsa (Nat.two_pow_pos _)
      _ = 2 ^ F.m * 2 ^ (expOf F a + 1) := by rw [Nat.pow_succ, Nat.mul_comm 2, Nat.mul_assoc, Nat.mul_comm 2]
      _ ≤ sigOf F b * 2 ^ expOf F b := Nat.mul_le_mul hl (Nat.pow_le_pow_right (by omega) h)
  · rw [h] at ha ⊢
    have : sigOf F a < sigOf F b := by omega
    exact Nat.mul_lt_mul_of_pos_right this (Nat.two_pow_pos _)
  · exfalso
    have hl := le_sigOf (F := F) (g := a) (by omega)
    have : (expOf F b + 1) * 2 ^ F.m ≤ expOf F a * 2 ^ F.m := Nat.mul_le_mul_right _ h
    rw [Nat.add_mul] at this
    omega

theorem ulps_lt_iff {a b : Nat} : ulps F a < ulps F b ↔ a < b := by
  refine ⟨fun h => ?_, ulps_lt_of_lt⟩
  rcases Nat.lt_trichotomy a b with hab | rfl | hab
  · exact hab
  · omega
  · have := ulps_lt_of_lt (F := F) hab
    omega

/-- A signed natural number. -/
def signed (neg : Bool) (n : Nat) : Int := if neg then -(n : Int) else n

theorem signed_mul (neg : Bool) (a b : Nat) : signed neg (a * b) = signed neg a * b := by
  cases neg
  · exact Int.natCast_mul a b
  · simp only [signed, if_true, Int.natCast_mul, Int.neg_mul]

theorem exactSum_two_neg_iff (na nb : Bool) (xa xb ka kb : Nat) (e : Int) :
    exactSum [⟨na, xa, e + ka⟩, ⟨!nb, xb, e + kb⟩] < 0 ↔ signed na (xa * 2 ^ ka) < signed nb (xb * 2 ^ kb) := by
  have ha : (e + ka - min (e + ka) (e + kb)).toNat = ka - min ka kb := by omega
  have hb : (e + kb - min (e + ka) (e + kb)).toNat = kb - min ka kb := by omega
  have hsum : exactSum [⟨na, xa, e + ka⟩, ⟨!nb, xb, e + kb⟩] =
      signed na (xa * 2 ^ (ka - min ka kb)) - signed nb (xb * 2 ^ (kb - min ka kb)) := by
    simp only [exactSum, minExp, List.foldl_cons, List.foldl_nil, ha, hb, signed]
    generalize xa * 2 ^ (ka - min ka kb) = u
    generalize xb * 2 ^ (kb - min ka kb) = v
    cases na <;> cases nb <;> simp only [Bool.not_true, Bool.not_false, Bool.false_eq_true, if_true, if_false] <;> omega
  have hpa : signed na (xa * 2 ^ ka) = signed na (xa * 2 ^ (ka - min ka kb)) * (2 ^ min ka kb : Nat) := by
    rw [← signed_mul, Nat.mul_assoc, ← Nat.pow_add, Nat.sub_add_cancel (Nat.min_le_left ..)]
  have hpb : signed nb (xb * 2 ^ kb) = signed nb (xb * 2 ^ (kb - min ka kb)) * (2 ^ min ka kb : Nat) := by
    rw [← signed_mul, Nat.mul_assoc, ← Nat.pow_add, Nat.sub_add_cancel (Nat.min_le_right ..)]
  have hpos : (0 : Int) < (2 ^ min ka kb : Nat) := Int.natCast_pos.mpr (Nat.two_pow_pos _)
  rw [hsum, hpa, hpb, Int.mul_lt_mul_right hpos]
  omega

/-- The place of a signed magnitude in the order of R105. -/
def rank (neg : Bool) (g : Nat) : Int := if neg then -1 - (g : Int) else g

theorem ulps_zero : ulps F 0 = 0 := by simp [ulps, sigOf]

/-- The order of values, the zeros apart, is that of their places. -/
theorem signed_ulps_lt_iff {na nb : Bool} {a b : Nat} (h : ¬(a = 0 ∧ b = 0)) :
    signed na (ulps F a) < signed nb (ulps F b) ↔ rank na a < rank nb b := by
  have hab := ulps_lt_iff (F := F) (a := a) (b := b)
  have hba := ulps_lt_iff (F := F) (a := b) (b := a)
  have ha := ulps_lt_iff (F := F) (a := 0) (b := a)
  have hb := ulps_lt_iff (F := F) (a := 0) (b := b)
  rw [ulps_zero] at ha hb
  cases na <;> cases nb
  all_goals simp only [signed, rank, Bool.false_eq_true, if_true, if_false]
  all_goals omega

theorem fless_valueOf {na nb : Bool} {a b : Nat} (ha : a ≤ F.infBits) (hb : b ≤ F.infBits) :
    fless true (valueOf F na a) (valueOf F nb b) = decide (rank na a < rank nb b) := by
  rcases Nat.eq_or_lt_of_le ha with rfl | ha <;> rcases Nat.eq_or_lt_of_le hb with rfl | hb
  · rw [valueOf_inf, valueOf_inf]
    cases na <;> cases nb <;> simp [fless, rank] <;> omega
  · rw [valueOf_inf, valueOf_fin hb]
    cases na <;> cases nb <;> simp [fless, rank] <;> omega
  · rw [valueOf_inf, valueOf_fin ha]
    cases na <;> cases nb <;> simp [fless, rank] <;> omega
  · rw [valueOf_fin ha, valueOf_fin hb]
    by_cases h : a = 0 ∧ b = 0
    · obtain ⟨rfl, rfl⟩ := h
      cases na <;> cases nb <;> simp [fless, rank, sigOf]
    · have hz : ¬(sigOf F a = 0 ∧ sigOf F b = 0) := by rwa [sigOf_eq_zero_iff, sigOf_eq_zero_iff]
      have hz' : (sigOf F a == 0 && sigOf F b == 0) = false := by simpa using hz
      simp only [fless, hz', exactSum_two_neg_iff]
      rw [← ulps, ← ulps]
      simp only [signed_ulps_lt_iff h, Bool.false_eq_true, if_false]

/-! ## The rules' own words about patterns (R102, R105) -/

theorem withSign_div (neg : Bool) {g : Nat} (hg : g < 2 ^ (F.m + F.x)) :
    F.withSign neg g / 2 ^ (F.m + F.x) = neg.toNat ∧ F.withSign neg g % 2 ^ (F.m + F.x) = g := by
  have hp : 0 < 2 ^ (F.m + F.x) := Nat.two_pow_pos _
  cases neg
  · simp [Fmt.withSign, Nat.div_eq_of_lt hg, Nat.mod_eq_of_lt hg]
  · simp [Fmt.withSign, Fmt.signBit, Nat.add_div_left _ hp, Nat.div_eq_of_lt hg, Nat.mod_eq_of_lt hg]

theorem exponent_withSign (neg : Bool) {g : Nat} (hg : g < 2 ^ (F.m + F.x)) :
    F.withSign neg g / 2 ^ F.m % 2 ^ F.x = g / 2 ^ F.m := by
  rw [← field, field_exponent, (withSign_div neg hg).2]

theorem fraction_withSign (neg : Bool) {g : Nat} (hg : g < 2 ^ (F.m + F.x)) : F.withSign neg g % 2 ^ F.m = g % 2 ^ F.m := by
  have := field_fraction (F := F) (F.withSign neg g)
  rwa [field, Nat.pow_zero, Nat.div_one, (withSign_div neg hg).2] at this

theorem testBit_withSign (hm : 0 < F.m) (neg : Bool) {g : Nat} (hg : g < 2 ^ (F.m + F.x)) :
    (F.withSign neg g).testBit (F.m - 1) = g.testBit (F.m - 1) := by
  have hlast : F.m - 1 < F.m + F.x := by omega
  have h := Nat.testBit_mod_two_pow (F.withSign neg g) (F.m + F.x) (F.m - 1)
  rw [(withSign_div neg hg).2] at h
  simp [h, hlast]

theorem mod_eq_withSign (b : Nat) : b % 2 ^ (1 + F.m + F.x) = F.withSign (sgnOf F b) (b % 2 ^ (F.m + F.x)) := by
  have hwidth : 1 + F.m + F.x = F.m + F.x + 1 := by omega
  rw [hwidth, Nat.mod_pow_succ, sgnOf, Nat.testBit_eq_decide_div_mod_eq, Fmt.withSign, Fmt.signBit]
  cases Nat.mod_two_eq_zero_or_one (b / 2 ^ (F.m + F.x)) <;> simp [*, Nat.add_comm]

/-- A pattern as an operation sees it is its sign and its magnitude (R99). -/
theorem seen_eq (daz : Bool) (x : BitVec 64) :
    seen (F.m, F.x) daz x = F.withSign (sgnOf F x.toNat) (magOf F daz x.toNat) := by
  have hg : x.toNat % 2 ^ (F.m + F.x) < 2 ^ (F.m + F.x) := Nat.mod_lt _ (Nat.two_pow_pos _)
  simp only [seen, mod_eq_withSign, exponent_withSign _ hg, (withSign_div _ hg).1, magOf]
  split
  · cases sgnOf F x.toNat <;> simp [Fmt.withSign, Fmt.signBit]
  · rfl

theorem patNan_withSign (neg : Bool) {g : Nat} (hg : g < 2 ^ (F.m + F.x)) :
    patNan (F.m, F.x) (F.withSign neg g) = decide (F.infBits < g) := by
  simp only [patNan, exponent_withSign neg hg, fraction_withSign neg hg]
  by_cases htop : g / 2 ^ F.m = 2 ^ F.x - 1
  · have hle := (infBits_le_iff hg).mpr htop
    have hne := eq_infBits_iff htop
    have hlt : F.infBits < g ↔ g % 2 ^ F.m ≠ 0 := by omega
    rw [Bool.eq_iff_iff]
    simp [htop, hlt]
  · have hnlt : ¬F.infBits < g := fun h => htop ((infBits_le_iff hg).mp (Nat.le_of_lt h))
    simp [htop, hnlt]

theorem isNan_valueOf (neg : Bool) (g : Nat) : (valueOf F neg g).isNan = decide (F.infBits < g) := by
  unfold valueOf
  split
  · simp [FVal.isNan, *]
  · split <;> simp [FVal.isNan, *]

theorem isSig_valueOf (neg : Bool) (g : Nat) : (valueOf F neg g).isSig = (decide (F.infBits < g) && !g.testBit (F.m - 1)) := by
  unfold valueOf
  split
  · simp [FVal.isSig, *]
  · split <;> simp [FVal.isSig, *]

theorem patSig_withSign (hm : 0 < F.m) (neg : Bool) {g : Nat} (hg : g < 2 ^ (F.m + F.x)) :
    patSig (F.m, F.x) (F.withSign neg g) = (valueOf F neg g).isSig := by
  have hbit : (F.withSign neg g / 2 ^ (F.m - 1) % 2 == 0) = !(F.withSign neg g).testBit (F.m - 1) := by
    rw [Nat.testBit_eq_decide_div_mod_eq]
    cases Nat.mod_two_eq_zero_or_one (F.withSign neg g / 2 ^ (F.m - 1)) <;> simp [*]
  rw [patSig, patNan_withSign neg hg, isSig_valueOf, hbit, testBit_withSign hm neg hg]

theorem orderOf_withSign (neg : Bool) {g : Nat} (hg : g < 2 ^ (F.m + F.x)) :
    Claims.orderOf (F.m, F.x) (F.withSign neg g) = rank neg g := by
  obtain ⟨hd, hr⟩ := withSign_div neg hg
  simp only [Claims.orderOf, hd, hr, rank]
  cases neg <;> simp

theorem withSign_injective {na nb : Bool} {a b : Nat} (h : rank na a = rank nb b) : F.withSign na a = F.withSign nb b := by
  cases na <;> cases nb <;> simp [rank] at h <;> simp [Fmt.withSign] <;> omega

theorem fminmax_valueOf (mx na nb : Bool) {a b : Nat} (ha : a < 2 ^ (F.m + F.x)) (hb : b < 2 ^ (F.m + F.x)) :
    (fminmax mx F (valueOf F na a) (valueOf F nb b)).1 = smaller mx (F.m, F.x) (F.withSign na a) (F.withSign nb b) := by
  simp only [fminmax, smaller, patNan_withSign na ha, patNan_withSign nb hb, isNan_valueOf, orderOf_withSign na ha,
    orderOf_withSign nb hb]
  by_cases hna : F.infBits < a <;> by_cases hnb : F.infBits < b
  · simp [hna, hnb, Fmt.nan, canonical, ← Fmt.infBits.eq_1]
  · simp [hna, hnb, show_valueOf (Nat.not_lt.mp hnb)]
  · simp [hna, hnb, show_valueOf (Nat.not_lt.mp hna)]
  · have hsame := withSign_injective (F := F) (na := na) (nb := nb) (a := a) (b := b)
    have hla := Nat.not_lt.mp hna
    have hlb := Nat.not_lt.mp hnb
    rcases Int.lt_trichotomy (rank na a) (rank nb b) with h | h | h
    · have hle := Int.le_of_lt h
      cases mx <;> simp [hna, hnb, fless_valueOf hla hlb, h, hle, show_valueOf hla, show_valueOf hlb]
    · cases mx <;> simp [hna, hnb, fless_valueOf hla hlb, h, hsame h, show_valueOf hla, show_valueOf hlb]
    · have hnlt := Int.not_lt.mpr (Int.le_of_lt h)
      have hnle := Int.not_le.mpr h
      cases mx <;> simp [hna, hnb, fless_valueOf hla hlb, hnlt, hnle, show_valueOf hla, show_valueOf hlb]

theorem flags_fminmax (mx : Bool) (a b : FVal) : (fminmax mx F a b).2 = if a.isSig || b.isSig then 1 else 0 := by
  unfold fminmax
  split
  · rfl
  · split
    · rfl
    · split <;> rfl

/-- `FMIN` and `FMAX` on patterns (R105). -/
theorem fminmax_read (hx : 0 < F.x) (hm : 0 < F.m) (mx daz : Bool) (a b : BitVec 64) :
    fminmax mx F (F.read daz a.toNat) (F.read daz b.toNat) =
      (smaller mx (F.m, F.x) (seen (F.m, F.x) daz a) (seen (F.m, F.x) daz b),
        if patSig (F.m, F.x) (seen (F.m, F.x) daz a) || patSig (F.m, F.x) (seen (F.m, F.x) daz b) then 1 else 0) := by
  have ha := magOf_lt (F := F) daz a.toNat
  have hb := magOf_lt (F := F) daz b.toNat
  rw [read_eq hx hm, read_eq hx hm, seen_eq, seen_eq, patSig_withSign hm _ ha, patSig_withSign hm _ hb]
  exact Prod.ext (fminmax_valueOf mx _ _ ha hb) (flags_fminmax ..)

/-- The class of a value is that of its pattern's fields (R107). -/
theorem fclass_eq (b : Nat) : fclass F b = classBit (F.m, F.x) b := by
  have hfr : b % 2 ^ F.m < 2 ^ F.m := Nat.mod_lt _ (Nat.two_pow_pos _)
  simp only [fclass, classBit, Fmt.read, field, Nat.pow_zero, Nat.div_one, Nat.testBit_eq_decide_div_mod_eq]
  generalize b % 2 ^ F.m = fr at hfr
  by_cases htop : b / 2 ^ F.m % 2 ^ F.x = 2 ^ F.x - 1
  · by_cases hf : fr = 0
    · simp [htop, hf]
    · cases Nat.mod_two_eq_zero_or_one (fr / 2 ^ (F.m - 1)) <;> simp [*]
  · by_cases hz : b / 2 ^ F.m % 2 ^ F.x = 0
    · have hone : ¬0 = 2 ^ F.x - 1 := hz ▸ htop
      by_cases hf : fr = 0 <;> simp [hone, hz, hf, hfr]
    · have hnonzero : ¬2 ^ F.m + fr = 0 := by omega
      have hnormal : ¬2 ^ F.m + fr < 2 ^ F.m := by omega
      simp [htop, hz, hnormal]
end

/-! ## The instructions -/

theorem widthsOf_eq (t : Ty) : widthsOf t = ((fmtOf t).m, (fmtOf t).x) := by cases t <;> rfl

theorem fmtOf_pos (t : Ty) : 0 < (fmtOf t).x ∧ 0 < (fmtOf t).m := by cases t <;> decide

theorem minmax_completes {i : Instr} {o : Bin} (mx : Bool) (hx : ∀ s, exec i s = fpBin .dyn o s fun m _ a b => fminmax mx m a b) :
    (minmaxOf.ins mx o).Completes i := by
  obtain ⟨hpx, hpm⟩ := fmtOf_pos o.t
  refine completes_of_answer _ hx fun s c w hi e => answer_fpNext (o := minmaxOf.ins mx o) hi e rfl rfl (fun j => ?_) fun j => ?_
  · simp only [minmaxOf.ins, widthsOf_eq, fminmax_read hpx hpm]
    rfl
  · simp only [minmaxOf.ins, widthsOf_eq, fminmax_read hpx hpm]
    rfl

theorem fclass_completes (o : Un) : (classOf o).Completes (.fclass o) :=
  completes_of_dataNext rfl fun _ => by
    dsimp only [exec, execFclass]
    simp only [fclass_eq, classOf, widthsOf_eq]

/-- Settles O50: reading a pattern takes the value of its sign and magnitude, values are ordered as signed magnitudes are, and showing a
value that was read gives its pattern back. -/
theorem smallerLargerAndClass : Obligations.SmallerLargerAndClass := by
  unfold Obligations.SmallerLargerAndClass
  refine ⟨fun i o h => ?_, fclass_completes⟩
  unfold minmaxOf at h
  split at h <;> cases h
  case h_1 o => exact minmax_completes false fun _ => by dsimp only [exec, execFmin]
  case h_2 o => exact minmax_completes true fun _ => by dsimp only [exec, execFmax]

end Sys2Proof.Arithmetic
